-- ==== Sys2Proof/Word.lean ====
section
/-! DEFINITION. The word types of the MW1620 and their plainest arithmetic (R6, R7). -/

namespace Sys2Proof

/-- One byte of any memory or message. -/
abbrev Byte := BitVec 8

/-- A 32-bit word: a scalar register, a register of a block, a status word. -/
abbrev Word := BitVec 32

/-- Bits [hi:lo] of a natural number read as a field (R7): both bounds inclusive. -/
def field (w hi lo : Nat) : Nat := (w >>> lo) % 2 ^ (hi + 1 - lo)

/-- Little-endian value of a byte string (R6). -/
def leNat : List Byte → Nat
  | [] => 0
  | b :: bs => b.toNat + 256 * leNat bs

/-- The `n` little-endian bytes of a value (R6). -/
def leBytes : Nat → Nat → List Byte
  | 0, _ => []
  | n + 1, v => BitVec.ofNat 8 v :: leBytes n (v / 256)

/-- A 32-bit value read as two's complement. -/
def s32 (v : Nat) : Int := (BitVec.ofNat 32 v).toInt

/-- An integer as an unsigned 32-bit pattern. -/
def u32 (i : Int) : Nat := (BitVec.ofInt 32 i).toNat

/-- Saturating count: the smaller of the sum and the field's maximum. -/
def satAdd (max a b : Nat) : Nat := min max (a + b)

/-- Ceiling division. -/
def ceilDiv (a b : Nat) : Nat := (a + b - 1) / b

end Sys2Proof
end

