-- ==== Sys2Proof/Syntax.lean ====
section
/-! DEFINITION. The commands of the block: one constructor of `Instr` for each row of spec/opcode_table.json, with
the operands that say which unit acts and what the surroundings supply (readings of sensors, states of pins,
messages of hosts). -/

namespace Sys2Proof

/-- A flipped cell of a page (R35, R53): `word` 0..3 the weight codeword of a lane quarter (`pos` = 8 × lane in the
quarter + bit, code cells from 512), 4 the index codeword (`pos` = 2 × lane + bit, code cells from 512), 5 the check-lane word of
the row (`pos` 0..15), 6 the check row (`pos` = 16 × lane + cell, ten cells to a lane; lane 256 is the check lane's site of sixteen). -/
structure Upset where
  row : Nat
  word : Nat
  pos : Nat
deriving DecidableEq, Repr

/-- A sensing disturbance of one step: a logical lane (or logical row, in a reverse step) and what it adds to the sum sensed there. -/
structure Disturb where
  lane : Nat
  delta : Int
deriving DecidableEq, Repr

/-- What befalls the data of one command on its way, as the surroundings give it: `err`, an error of one computed value (its place among the values the
command computes, and by how much it is off), which a residue modulo 7 sees when it is no multiple of 7 (R429, R430); `beat`, the place, among the
accesses the command makes over the fabric (an instruction's fetch is its first), of one whose bytes change on the way, whether a port, a crossbar or a
codec is the first to check them then or else their destination, and what they are XORed with (R425, R426); `dram`, beats of package
DRAM (tower, beat) that are read with so many wrong bytes (R320); `sram`, SRAM codewords that are read with the wrong bits listed, more than one
meaning an uncorrectable pattern (R431, R432). -/
structure Harm where
  err : Option (Nat × Int)
  beat : Option (Nat × Bool × List Byte)
  dram : List (Nat × Nat × Nat)
  sram : List (Nat × List Nat)
deriving DecidableEq, Repr

/-- Nothing befalls the data. -/
def Harm.none : Harm := { err := .none, beat := .none, dram := [], sram := [] }

/-- What wraps a frame that reaches a port (R326, R330): the control word of its VLAN tag, none without one; and its MACsec tag, none without one:
association number, SCI, packet number, and the SAK under which its ICV verifies by GCM-AES-256, none of 32 bytes for a frame altered on its way. -/
structure Wrap where
  vlan : Option Nat
  sec : Option (Nat × Nat × Nat × List Byte)
deriving DecidableEq, Repr

/-- A frame without tags. -/
def Wrap.none : Wrap := { vlan := .none, sec := .none }

/-- A host's SLP request as it reaches a port (R328, R332): the frame's tags; addresses, UDP ports and UDP checksum; the header's byte 0 (`VER` and
reserved bits), its bytes 2 and 3 (reserved bits and `LOSS`), and its other fields; and its payload. Its `TYPE` is the command's. -/
structure Req where
  port : Nat
  wrap : Wrap
  addr : List Byte
  dst : List Byte
  udp : Nat
  dport : Nat
  check : Nat
  head : Nat
  flags : Nat
  session : Nat
  seq : Nat
  ack : Nat
  len : Nat
  status : Nat
  alive : Nat
  pcrc : Nat
  hcrc : Nat
  payload : List Byte
deriving DecidableEq, Repr

/-- A flit slot of a link direction (R305): the packets that wait for it at the sender (virtual channel, link-level credits returned, payload), which a
replay passes over, the bits of the flit that flip on the lanes, and the partition whose job or session caused it (R401). -/
structure Flit where
  vc : Nat
  lcred : Nat
  payload : List Byte
  flips : List Nat
  cause : Option Nat
deriving DecidableEq, Repr

/-- What the ROM finds of the image in flash that it cannot form without its keys, which the spec does not give: the ROM keys (0, 1) under which the
signature over the header verifies by RFC 8554 (R445). -/
structure ImageRead where
  verifies : List Nat
deriving DecidableEq, Repr

/-- The findings of a start-up self-test (R433, R437, R485, R486): macros, Skink engines and cores that fail, macro lanes to be replaced (core × 18 +
macro, bank, lane), row-pages that the array self-test corrects (macro, page, row, lane), columns of SRAM sub-arrays that fail (as numbered in
`columnKey`), rows of towers (row × 32 + channel) and channels of towers that fail beyond those known, data lanes of link directions (2 × link +
direction, lane) that fail training (R307). -/
structure SelfTest where
  macros : List Nat
  cores : List Nat
  skinks : List Nat
  lanes : List (Nat × Bool × Nat)
  corrected : List (Nat × Nat × Nat × Nat)
  columns : List Nat
  rows : List (Nat × Nat)
  channels : List (Nat × Nat)
  lanesDown : List (Nat × Nat)
deriving DecidableEq, Repr

/-- What a start-up meets: straps (R482), the hub memory's self-test, the flash, the findings, the root-leaf fuses that do not read burned before
one does (R451), whether a warm reset's checks of the epoch tree pass (R452), the log rings whose checks fail (0..15 a partition's, 16 the
device's; R472), the time taken (R483), and, of a start-up that a warm reset cuts short, the steps of Table 18.3 that had ended and the cause of the
reset (Table 15.9; R491). -/
structure Boot where
  mmode : Nat
  mrole : Nat
  recoveryN : Bool
  testEn : Bool
  hubOk : Bool
  image : Option ImageRead
  tests : SelfTest
  badLeaves : Nat
  epochOk : Bool
  badRings : List Nat
  micros : Nat
  cut : Option (List Nat × Nat)
deriving DecidableEq, Repr

/-- A register of a unit block that the hub writes (R66, R127, R235, R271, R324, R423): unit and byte offset. -/
inductive RegRef where
  | mac (core m off : Nat)
  | core (core off : Nat)
  | skink (e off : Nat)
  | engine (inst off : Nat)
  | cwy (port off : Nat)
  | pwr (die off : Nat)
deriving DecidableEq, Repr

/-- Events of one kind of Table 14.4 that an activity counter of a rail counted in a tick (R399), and the partition they belong to, none for the
overhead (R401). The kinds are numbered in the order of the table: 0 macro step, 1 active row, 2 page switch, 3 refresh operation, 4 row read,
5 macro row write, 6 wide beat, 7 narrow word, 8 mesh hop, 9 and 10 Skink cycle (BF16, 8-bit), 11 plaza access, 12 cycle of another engine, 13 flit,
14 codec group, 15 DRAM beat, 16 Ethernet byte. -/
structure Activity where
  rail : Nat
  part : Option Nat
  kind : Nat
  count : Nat
deriving DecidableEq, Repr

/-- An answer on the PMBus: the data word and its PEC byte (R398). -/
structure BusReply where
  word : Nat
  pec : Nat
deriving DecidableEq, Repr

/-- Why a frame or datagram is discarded (R328, R330, R332); `type`, an SLP message of a `TYPE` that Table 11.5 does not list. -/
inductive DiscardReason where
  | fcs | length | address | udpPort | fragment | ipOptions | checksum | pause | macsec | hcrc | slpLength | type
deriving DecidableEq, Repr

/-- Why a control processor starts the warm-reset sequence (R436). -/
inductive HubFault where
  | memory | residue
deriving DecidableEq, Repr

/-- How far a command takes what it names. An instruction of the memory-operation unit: issued into the unit's queue; carried out at the front of that
queue; or both in one, where the queue is empty (R117, R141 to R143). A calibration: begun; completed; or both in one (R94 to R96). -/
inductive Carry where
  | whole | issue | perform
deriving DecidableEq, Repr

/-- The commands: one constructor for each row of spec/opcode_table.json, in the table's order.
`core` is a physical core 0..4351 (die × 272 + row × 17 + column), `n` a logical macro 0..15, `m` a physical macro 0..17,
`bank` true for bank B, `p` a partition, `e` a physical Skink engine (18 × engine die + engine), `inst` an engine instance
(8 × die + kind), `port` an Ethernet port 0..16 (a Causeway port in `cwyFlitsLo`), `sess` an SLP session (`i` the place of a message among
those it has not had acknowledged), `stat` the handle and offset of a write beat's statistics operand, `h` what befalls the command's data; `ok` says whether the flash programs a chunk; `word` an SRAM codeword's
address (one from 2^43 up is in a hub memory), `wrong` the bits that its decoding corrects, or more than one where the pattern is uncorrectable. -/
inductive Instr where
  | mvm (core : Nat) (h : Harm)
  | mvt (core : Nat) (h : Harm)
  | preload (core n : Nat) (h : Harm)
  | pageSwitch (core n : Nat)
  | productStart (core n : Nat) (h : Harm)
  | macroStep (core n : Nat) (dist : List Disturb) (h : Harm)
  | reverseStep (core n : Nat) (dist : List Disturb) (h : Harm)
  | repeatStep (core n : Nat) (dist : List Disturb) (h : Harm)
  | checkTriggeredScrub (core n : Nat) (ups : List Upset) (dist : List Disturb) (h : Harm)
  | productComplete (core n : Nat)
  | drain (core n : Nat) (h : Harm)
  | wpgLoad (core : Nat) (h : Harm)
  | wpgFold (core : Nat) (h : Harm)
  | wpgCopy (core : Nat) (h : Harm)
  | wpgErase (core : Nat) (h : Harm)
  | rowWrite (core n : Nat) (bank : Bool) (h : Harm)
  | pageVerify (core n : Nat) (bank : Bool) (ups again : List Upset)
  | swp (core : Nat) (h : Harm)
  | refreshOperation (core m : Nat) (bank : Bool)
  | refreshIntervalRestore (die : Nat)
  | filler (core m : Nat) (bank patrol : Bool) (ups : List Upset)
  | calibrationDue (core m : Nat) (bank : Bool)
  | calibration (core m : Nat) (bank : Bool) (ph : Carry)
  | calibrationPause (core m : Nat) (bank : Bool) (ph : Carry)
  | patrolRead (core m : Nat) (bank : Bool) (ups : List Upset)
  | restore (core m page : Nat) (ups : List Upset)
  | laneRebuild (core m : Nat) (bank : Bool)
  | laneTest (core m : Nat) (ups : List Upset) (dist : List (Nat × Disturb))
  | macCommit (core m : Nat)
  | macStepCountLo (core m : Nat)
  | coreCommit (core : Nat)
  | registerWrite (reg : RegRef) (value : Word)
  | dma (core : Nat) (h : Harm)
  | move (core : Nat) (h : Harm)
  | halSend (core : Nat) (h : Harm)
  | halReceive (core : Nat) (h : Harm)
  | fil (core : Nat) (ph : Carry) (h : Harm)
  | cpy (core : Nat) (ph : Carry) (h : Harm)
  | vectorAddInt32 (core : Nat) (ph : Carry) (h : Harm)
  | vectorAddFp32 (core : Nat) (ph : Carry) (h : Harm)
  | scalarAddInt32 (core : Nat) (ph : Carry) (h : Harm)
  | swap32 (core : Nat) (ph : Carry) (h : Harm)
  | swap64 (core : Nat) (ph : Carry) (h : Harm)
  | clm (core : Nat) (ph : Carry) (h : Harm)
  | bar (core : Nat) (h : Harm)
  | skt (core : Nat) (h : Harm)
  | skinkTile (e : Nat) (h : Harm)
  | skinkDrain (e : Nat) (h : Harm)
  | skinkCommit (e : Nat)
  | skinkTilesLo (e : Nat)
  | sclNop (core : Nat) (h : Harm)
  | sclEnd (core : Nat) (h : Harm)
  | sclLi (core : Nat) (h : Harm)
  | sclAdd (core : Nat) (h : Harm)
  | sclSub (core : Nat) (h : Harm)
  | sclAnd (core : Nat) (h : Harm)
  | sclOr (core : Nat) (h : Harm)
  | sclXor (core : Nat) (h : Harm)
  | sclShl (core : Nat) (h : Harm)
  | sclShr (core : Nat) (h : Harm)
  | sclSra (core : Nat) (h : Harm)
  | sclMul (core : Nat) (h : Harm)
  | sclSlt (core : Nat) (h : Harm)
  | sclSltu (core : Nat) (h : Harm)
  | sclLdn (core : Nat) (h : Harm)
  | sclStn (core : Nat) (h : Harm)
  | sclRdreg (core : Nat) (h : Harm)
  | sclBeq (core : Nat) (h : Harm)
  | sclBne (core : Nat) (h : Harm)
  | sclBlt (core : Nat) (h : Harm)
  | sclBge (core : Nat) (h : Harm)
  | sclBltu (core : Nat) (h : Harm)
  | sclJmp (core : Nat) (h : Harm)
  | sclWait (core : Nat) (h : Harm)
  | sclWaitb (core : Nat) (h : Harm)
  | sclFence (core : Nat) (h : Harm)
  | permute (core : Nat) (ph : Carry) (h : Harm)
  | gather (core : Nat) (ph : Carry) (h : Harm)
  | scatter (core : Nat) (ph : Carry) (h : Harm)
  | compress (core : Nat) (ph : Carry) (h : Harm)
  | rescale (core : Nat) (ph : Carry) (h : Harm)
  | encb4 (core : Nat) (ph : Carry) (h : Harm)
  | decb4 (core : Nat) (ph : Carry) (h : Harm)
  | quant (core : Nat) (ph : Carry) (h : Harm)
  | dequant (core : Nat) (ph : Carry) (h : Harm)
  | tos8 (core : Nat) (ph : Carry) (h : Harm)
  | adapt (core : Nat) (ph : Carry) (h : Harm)
  | clipstat (core : Nat) (ph : Carry) (h : Harm)
  | softmax (core : Nat) (ph : Carry) (h : Harm)
  | rmsnorm (core : Nat) (ph : Carry) (h : Harm)
  | layernorm (core : Nat) (ph : Carry) (h : Harm)
  | rsum (core : Nat) (ph : Carry) (h : Harm)
  | rmax (core : Nat) (ph : Carry) (h : Harm)
  | mask (core : Nat) (ph : Carry) (h : Harm)
  | gated (core : Nat) (ph : Carry) (h : Harm)
  | spectrum (core : Nat) (ph : Carry) (h : Harm)
  | keypoint (core : Nat) (ph : Carry) (h : Harm)
  | generate (core : Nat) (ph : Carry) (h : Harm)
  | verify (core : Nat) (ph : Carry) (h : Harm)
  | opsLo (inst : Nat)
  | remoteWrite (core win off : Nat) (data : List Byte) (scales : List Nat) (stat : Option (Nat × Nat)) (h : Harm)
  | remoteRead (core win off len : Nat) (scales : List Nat) (h : Harm)
  | creditReturn (p win src tower : Nat)
  | flit (link : Nat) (dir : Bool) (f : Flit)
  | laneSubstitution (link : Nat) (dir : Bool)
  | cwyFlitsLo (port : Nat)
  | rowRemap (tower row : Nat)
  | channelRetire (tower channel : Nat)
  | dramPatrol (tower beat wrongBytes : Nat)
  | arpRequest (port : Nat) (w : Wrap) (target : Nat)
  | neighbourSolicitation (port : Nat) (w : Wrap) (target : List Byte)
  | echoRequest (port : Nat) (w : Wrap) (target data : List Byte)
  | portLinkChange (port link : Nat)
  | sync (port : Nat) (w : Wrap)
  | followUp (port : Nat) (w : Wrap) (originNs : Nat)
  | peerDelay (port : Nat) (initiator : Bool) (w w2 : Wrap) (delayNs : Int)
  | timeInvalid
  | openSession (r : Req)
  | closeSession (r : Req)
  | dread (r : Req)
  | dwrite (r : Req)
  | logRead (r : Req)
  | bulkWrite (r : Req) (h : Harm)
  | bulkRead (r : Req) (h : Harm)
  | doorbellSubTail (r : Req)
  | doorbellCmpHead (r : Req)
  | ackMessage (r : Req)
  | sendAck (sess : Nat)
  | retransmission (sess i : Nat)
  | complete (sess : Nat)
  | event (sess : Nat) (device : Bool)
  | jobSelection (p : Nat) (h : Harm)
  | jobBoundary (p : Nat) (h : Harm)
  | jobStart (p : Nat)
  | timeLimit (p : Nat)
  | fault (p : Nat)
  | unitsStopped (p : Nat)
  | clearingComplete (p : Nat)
  | kill (sess : Nat)
  | flush (sess : Nat) (h : Harm)
  | hold (sess : Nat)
  | release (sess : Nat)
  | ringCommit (sess : Nat)
  | windowOpen (sess : Nat)
  | windowClose (sess : Nat)
  | versionBuildComplete (p : Nat)
  | partitionCreate (sess : Nat)
  | partitionRemove (sess : Nat)
  | partitionReady (p : Nat)
  | tenantErasure (die : Nat)
  | fullPlacement (sess : Nat)
  | emptyReloadList (sess : Nat)
  | tenantCommit (sess : Nat)
  | commitDiscard (sess index : Nat)
  | budgetCommit (sess : Nat)
  | weightCommit (sess : Nat)
  | paceCommit (sess : Nat)
  | railCommit (sess : Nat)
  | alertCommit (sess : Nat)
  | thermalCommit (sess : Nat)
  | arrayMaintenanceCommit (sess : Nat)
  | sramPatrolCommit (sess : Nat)
  | dramPatrolCommit (sess : Nat)
  | overflowPolicyCommit (sess : Nat)
  | portCommit (sess port : Nat)
  | slpSettingsCommit (sess : Nat)
  | timeCommit (sess : Nat)
  | queryStored (sess : Nat)
  | queryRemeasure (sess : Nat)
  | queryShadow (sess : Nat)
  | accumulatorRead (sess : Nat)
  | alarmClear (sess : Nat)
  | traceCommit (sess : Nat)
  | quote (sess : Nat)
  | debugCommit (sess : Nat)
  | install (sess port : Nat)
  | delete (sess port : Nat)
  | programFlash (sess : Nat) (ok : Bool)
  | finish (sess : Nat) (image : Option ImageRead)
  | clearTenants (sess : Nat)
  | raiseMinimum (sess : Nat)
  | levelControl (acts : List Activity)
  | levelChange (target : Nat)
  | railTargetReached (target : Nat)
  | raiseTimeout (target rail : Nat)
  | readPout (rail : Nat) (reply : Option BusReply)
  | shareRecomputation
  | budgetOverrun
  | budgetShortfall
  | unmark
  | monitorTrim (die : Nat) (slacks : List (Nat × Nat))
  | ceilingLower (unit : Nat)
  | droop (die quarter : Nat)
  | clampRelease (die quarter : Nat)
  | alertWire (wire : Nat) (asserted : Bool)
  | alertForceEnd
  | temperatureSample (dies towers : List Int)
  | correctionWriteBack (word : Nat)
  | sramPatrol (word : Nat) (wrong : List Nat)
  | strikeExpiry
  | watchdog
  | lossRecord (ring : Nat)
  | timeRecord
  | powerOnReset (boot : Boot)
  | warmN
  | warmStartUp (boot : Boot)
  | referenceLoss
  | referenceRestored
  | extest (pins : Nat)
  | samplePreload (pins : Nat)
  | bypass
  | idcode
  | discardedFrame (port : Nat) (w : Wrap) (why : DiscardReason)
  | controlProcessorFault (why : HubFault)
  | porstNLow (arrayRailLost : Bool)
  | epochTreeReady (seed ident : List Byte)
deriving DecidableEq, Repr

end Sys2Proof
end

