-- ==== Sys2Proof/Decode.lean ====
section
/-! DEFINITION. The decoder over the rows of the opcode table that give bits: none of the 216 rows gives any, so no word spells a
command. -/

namespace Sys2Proof

/-- No row of the table has bits, so no word of any length is a command. -/
def decodeTableWord (nbits w : Nat) : Option Instr :=
  match nbits, w with
  | _, _ => none

end Sys2Proof
end

