-- ==== Sys2Proof/Config.lean ====
section
/-! DEFINITION. What a part or an implementation fixes and the spec does not give: free values (opaque, no body) and the
constant tables of the spec that the commands share. -/

namespace Sys2Proof.Config

/-- `CORE_CONFLICT_STAT` of a core that has run since it was cleared, by core, tick and free values used: how often requesters met at a bank depends on
bank cycles, which the model does not hold (R120). -/
opaque conflicts : Nat → Nat → Nat → BitVec 32
/-- The serial number 0x1018:04 (R4): unique per part, not given. -/
opaque serial : Nat
/-- The firmware revision 0x1018:03 of a running image, by the SHA-256 of its header and body (R4, Table 16.3): no field of a header gives it. -/
opaque firmwareRevision : List (BitVec 8) → BitVec 32
/-- The ordering variant 0x1018:05 (R4): 0 = `-C`, 1 = `-X`. -/
opaque orderingVariant : BitVec 1
/-- The fused MAC address of an Ethernet port (R327). -/
opaque portMac : Nat → Nat
/-- The 32-byte bootstrap key held in the fuses (R460). -/
opaque bootstrapKey : List (BitVec 8)
/-- The SHA-256 of the boot ROM (Table 16.6). -/
opaque romHash : List (BitVec 8)
/-- Byte `i` of the fused identity seed, 32 bytes (R450). -/
opaque identitySeed : Nat → BitVec 8
/-- Byte `i` of the fused identifier `I`, 16 bytes (R450). -/
opaque identityI : Nat → BitVec 8
/-- Efondina's certificate 0x6020:02 (R450). -/
opaque rootCertificate : List (BitVec 8)
/-- Redundant columns of an SRAM sub-array that test has selected by fuses (R433). -/
opaque fusedColumns : Nat → Nat
/-- Coefficient `which` (0: c0, 1: c1) of pair `i` of the table 0x9040:`t` (R231, R269): the spec gives no values. -/
opaque coefficient : Nat → Nat → Nat → BitVec 32
/-- Byte `i` of the randomizer C of the root's signature by a root leaf (R452; RFC 8554 lets it be any 32 bytes). -/
opaque rootRandomizer : Nat → Nat → BitVec 8
/-- Byte `i` of the randomizer C of a signature by the epoch tree (R454): root leaf of the epoch, epoch leaf, byte. -/
opaque epochRandomizer : Nat → Nat → Nat → BitVec 8
/-- The n-th free byte: a value the spec leaves open (signature bytes, undetermined data). -/
opaque freeByte : Nat → BitVec 8
/-- The n-th free word. -/
opaque freeWord : Nat → BitVec 32
/-- The n-th free choice: an outcome the spec leaves open (four or more wrong bits in an array codeword, R53). -/
opaque freeBool : Nat → Bool
/-- The scale with which a group of a `B4` window crosses on a host's transfer, by partition, window and group: a host names none (R184, R318). -/
opaque hostScale : Nat → Nat → Nat → BitVec 8
/-- The spare rows that a channel (0..15 in service, 16 the spare) of a tower starts with (R321; 0x520t:06 has no default). -/
opaque spareRows : Nat → Nat → Nat

/-- The DRAM row that holds a channel address of a tower (R319, R321): the spec gives no row geometry. -/
opaque dramRow : Nat → Nat → Nat

/-- round_half_even of a product that is NaN although the element is not (an infinity by a zero factor, or a NaN factor): R259 states no
result. -/
opaque quantNan : BitVec 32 → BitVec 32 → BitVec 32
/-- exp of NaN: R261 states no result (it arises from the difference of two infinities). -/
opaque expNan : BitVec 32

/-- The unit number within its die that an alarm's `SOURCE` [6:0] gives for a unit (R470): die, unit kind of Table 11.11 and index. The
spec gives no numbering but the hub's 0. -/
opaque unitNumber : Nat → Nat → Nat → BitVec 7

/-- The PMBus addresses in the reserved ranges of the PMBus specification, which 0x3040 refuses (R419): the spec names no address. -/
opaque pmbusReserved : Nat → Bool

/-- The energy of one event of Table 14.4 on a rail at 0.75 V, in femtojoules, fused at test (R399): the table gives nominal values only. -/
opaque energyFj : Nat → Nat → Nat

/-- A logic die's fused leakage table: die, voltage in mV, junction temperature in hundredths of a degree; milliwatts (R399). -/
opaque leakageMw : Nat → Nat → Int → Nat

/-- A die's fused voltage–delay table carries a monitor reading to the recorded ceiling's corner, table voltage and 105 °C: die, slack in taps, rail
target in mV, temperature, level, ceiling; taps (R395). -/
opaque slackAt105 : Nat → Nat → Nat → Int → Nat → Nat → Nat

/-- Physical cores of the device: 16 array dies of 272 (R20). -/
def numCores : Nat := 4352
/-- Physical Skink engines: 2 engine dies of 18 (R20). -/
def numSkinks : Nat := 36
/-- Causeway links (R21). -/
def numLinks : Nat := 45

/-- Nominal core voltage of a pace point in mV (Table 2.8). -/
def paceMv : Nat → Nat
  | 0 => 550 | 1 => 590 | 2 => 630 | 3 => 670 | 4 => 710 | 5 => 750 | 6 => 800 | _ => 850

/-- Nominal step time of a pace point in tenths of a nanosecond at 60 °C (Table 2.8). -/
def paceStep : Nat → Nat
  | 0 => 100 | 1 => 84 | 2 => 72 | 3 => 63 | 4 => 56 | 5 => 50 | 6 => 44 | _ => 40

/-- B4 levels L(c) (Table 6.1). -/
def b4Level : Nat → Int
  | 0 => -128 | 1 => -98 | 2 => -75 | 3 => -57 | 4 => -42 | 5 => -30 | 6 => -19 | 7 => -9 | 8 => 0
  | 9 => 9 | 10 => 19 | 11 => 30 | 12 => 42 | 13 => 57 | 14 => 75 | _ => 98

/-- The two dies of a Causeway link (Table 1.2), `ADn` = n, `ED0` = 16, `ED1` = 17, `HD` = 18, `PD` = 19, numbered in the row
order of the table, ascending within a row (Table 10.12). -/
def linkEnds (l : Nat) : Nat × Nat :=
  if l < 12 then (4 * (l / 3) + l % 3, 4 * (l / 3) + l % 3 + 1)
  else if l < 24 then (l - 12, l - 8)
  else if l < 28 then (4 * (l - 24), 16)
  else if l < 32 then (4 * (l - 28) + 3, 17)
  else if l < 36 then (l - 32, 18)
  else if l < 40 then (12 + (l - 36), 19)
  else if l = 40 then (16, 18) else if l = 41 then (17, 18) else if l = 42 then (16, 19)
  else if l = 43 then (17, 19) else (18, 19)

/-- The step time limit and other control intervals in ticks of 240 ns (R402, R404, R394, R412). -/
def msTicks : Nat := 4167

end Sys2Proof.Config
end

