-- ==== Sys2Proof/Machine/State.lean ====
section
/-! DEFINITION. The state of the MW1620 as plain data, its value after reset, and the reasons a step can stop. -/

namespace Sys2Proof.Machine

/-- A sparse table: keys strictly rising, no entry at its default value. -/
abbrev Map (α : Type) := List (Nat × α)

/-- All addressed memory of the device, in one numbering (Machine/Ops.lean gives each memory's place). `cells` lists the bytes
that are not zero; `bad` the 8-byte SRAM codewords and 64-byte DRAM beats with an uncorrectable pattern (R432, R320); `soft`
the SRAM codewords read with one wrong bit that await their write-back (R431). -/
structure Memory where
  cells : List Host.Cell
  bad : List Nat
  soft : List Nat
deriving DecidableEq, Repr

/-- A handle entry (Table 4.4). -/
structure Handle where
  base : Nat
  win : Nat
  size : Nat
  valid : Bool
  kind : Nat
deriving DecidableEq, Repr

/-- An operand as a unit holds it: the handle named and the effective offset (R125). -/
structure Operand where
  h : Handle
  off : Nat
deriving DecidableEq, Repr

/-- A physical page (R35, R74, R86, R116). `cells` holds the word sites by row and logical lane: the site that serves the lane under the lane map
in force, the lane's own or a spare (R58). `idle` holds the other sites of the 260 of a row, the check row (256) among the rows, by row × 512 + site:
own sites (0..255) of lanes that a spare serves, and spares (256..259) that serve none. Then check words as stored: `chkLane` the check-lane sites of the
rows, `chkRow` the check row's sites by logical lane (10 cells each; 256 its site of 16 cells at the check lane); the positions at which a cell of a
codeword, weight, index or code cell, differs from the word that was written, which hold the code cells (R53); attributes, stored CRC, lost bit and the
rows restored since the sweep last came by (R60). -/
structure Page where
  cells : Map (BitVec 10)
  idle : Map (BitVec 10)
  chkLane : Map (BitVec 16)
  chkRow : Map (BitVec 16)
  errs : List Upset
  valid : Bool
  sparse24 : Bool
  wfmt : Nat
  gen : Nat
  crc : Word
  lost : Bool
  restored : List Nat
deriving DecidableEq, Repr

/-- A forward or reverse product in a macro's queue (Table 4.11), with the head blocks it keeps busy (R122). -/
structure ProductIns where
  rev : Bool
  page : Nat
  ifmt : Nat
  k : Nat
  init : Nat
  drain : Nat
  inp : Operand
  out : Operand
  rq : Operand
  blocks : List Nat
  sig : Nat
  pc : Nat
deriving DecidableEq, Repr

/-- A page operation segment in a macro's queue (Table 4.12). -/
structure WpgIns where
  op : Nat
  page : Nat
  form : Nat
  wfmt : Nat
  sparse : Bool
  first : Bool
  last : Bool
  row0 : Nat
  nrows : Nat
  lrows : Nat
  llanes : Nat
  src : Operand
  sig : Nat
  pc : Nat
deriving DecidableEq, Repr

/-- An entry of a macro's queue (Table 4.1). `swp` carries the issuing instruction's program counter. -/
inductive QEntry where
  | product (i : ProductIns)
  | wpg (i : WpgIns)
  | swp (pc : Nat)
deriving DecidableEq, Repr

/-- The product a macro is working on: its input elements as loaded, the plane and group reached, how far a failing step has come
(0 none, 1 repeat due, 2 scrub due), whether its page has been scrubbed, the stages passed, whether the gap before its next step has been used
(R62), and its place in the order of the queue. -/
structure Run where
  x : List Nat
  nout : Nat
  plane : Nat
  pos : Nat
  fail : Nat
  scrubbed : Bool
  preloaded : Bool
  started : Bool
  finished : Bool
  gap : Bool
  no : Nat
deriving DecidableEq, Repr

/-- The drain buffer (R135): the product, its place in the order of the queue, the accumulators copied, the chain shift and the number of outputs. -/
structure DrainBuf where
  no : Nat
  ins : ProductIns
  acc : Map Int
  sigma : Nat
  nout : Nat
deriving DecidableEq, Repr

/-- An open page operation (R78): the opening segment, the next physical row, and what the loader has formed of the rows written so far: the CRC
register and, by lane, the sums of their weights, of which it makes the check row (R50, R84, R86). -/
structure PageOp where
  page : Nat
  op : Nat
  wfmt : Nat
  sparse : Bool
  lrows : Nat
  llanes : Nat
  next : Nat
  both : Bool
  verifying : Bool
  crc : Nat
  sums : Map Int
deriving DecidableEq, Repr

/-- A segment that the loader is writing, with its operation, its place in the order of the queue (R82, R83) and the live rows that a fold or copy
sensed before it began to write (R91). -/
structure PageWrite where
  ins : WpgIns
  op : PageOp
  no : Nat
  live : List (List Int)
deriving DecidableEq, Repr

/-- A macro's staged or acting configuration: `MAC_CONFIG` and the eight lane maps (Tables 2.13, 2.19); lane map n of bank B is at 4 + n. -/
structure MacConfig where
  enable : Bool
  rewritable : Bool
  force32 : Bool
  lanes : Map Nat
deriving DecidableEq, Repr

/-- The calibration under way in a bank: none, one in a window of R95, or a pause of R96. -/
inductive Calibrating where
  | no | window | pause
deriving DecidableEq, Repr

/-- One bank's sweep and calibration (R60, R71, R94 to R96); `calibrating` while a calibration is under way, `used` the tick of its last step, read or
write. -/
structure Bank where
  page : Nat
  row : Nat
  skips : Nat
  due : Bool
  dueTick : Nat
  calTick : Nat
  calTemp : Int
  calPace : Nat
  calibrating : Calibrating
  patrolPage : Nat
  patrolRow : Nat
  patrols : Nat
  skipped : Nat
  used : Nat
deriving DecidableEq, Repr

/-- The counters and flags of a macro's registers (Tables 2.16 to 2.18, 3.9 to 3.12, 5.5). -/
structure MacStats where
  repeats : Nat
  scrubs : Nat
  uncorr : Bool
  persist : Bool
  corrected : Bool
  steps : Nat
  stepsHi : Nat
  rejValid : Bool
  rejPage : Nat
  rejRow : Nat
  rejLane : Nat
  rejDetail : Nat
  swaps : Nat
  cals : Nat
  pauses : Nat
  clamps : Nat
  verifyRewrites : Nat
  patrolCorrected : Nat
  patrolLost : Nat
  rescales : Nat
deriving DecidableEq, Repr

/-- A macro: pages, banks, configuration, accumulators and the work in hand (R35 to R116, R151 to R160). `committed` is the configuration that a
commit has taken and that waits for its boundary (R58); `retired` says that a macro with `ENABLE` 0 is out of service; `order` numbers the entries
that leave the queue; `spent` lists the spare lanes (as lane maps are numbered) that served a lane and failed in turn (R440). -/
structure Macro where
  pages : Map Page
  active : Nat
  cfg : MacConfig
  staged : MacConfig
  committed : Option MacConfig
  retired : Bool
  mapReject : Bool
  bankA : Bank
  bankB : Bank
  sweepB : Bool
  stats : MacStats
  liveB : Bool
  armed : Bool
  shadow : Map Nat
  acc : Map Int
  entry : Map Int
  sigma : Nat
  lastSigma : Nat
  queue : List QEntry
  accepted : Bool
  run : Option Run
  drainBuf : Option DrainBuf
  order : Nat
  writing : List PageWrite
  opsOpen : List PageOp
  rebuild : List (Nat × Nat)
  rebuildHold : Bool
  testPage : Option Nat
  noRestore : List Nat
  spent : List Nat
deriving DecidableEq, Repr

/-- A send or a receive in a halo queue (R139). -/
structure HaloOp where
  loc : Operand
  left : Nat
  done : Nat
  sig : Nat
  pc : Nat
deriving DecidableEq, Repr

/-- A `DMA` instruction at work: descriptors, the next slot, and the guard register's value at issue (R138, R285). -/
structure DmaOp where
  desc : Operand
  ndesc : Nat
  next : Nat
  greg : Nat
  sig : Nat
  pc : Nat
deriving DecidableEq, Repr

/-- An instruction of the memory-operation unit: its word, its operands resolved, and the scalar registers it names as they were at issue (R117, R141
to R143). -/
structure MemOp where
  w : Nat
  dst : Operand
  src : Operand
  v0 : Word
  v1 : Word
  sig : Nat
  pc : Nat
deriving DecidableEq, Repr

/-- A tile at a Skink engine: the descriptor's fields, operands resolved, and who submitted it (Table 7.4). -/
structure Tile where
  core : Nat
  part : Nat
  atype : Nat
  btype : Nat
  sp24 : Bool
  outer : Bool
  sigw : Bool
  init : Nat
  drain : Nat
  m : Nat
  n : Nat
  k : Nat
  accBase : Nat
  a : Operand
  aRs : Int
  b : Operand
  bRs : Int
  c : Operand
  cRs : Int
  pre : Operand
  preRs : Int
  x : Operand
  biOff : Nat
  sOff : Nat
  sig : Nat
  pc : Nat
deriving DecidableEq, Repr

/-- An `SKT` waiting in the submission unit; `tile` is its tile once the unit has read and checked the descriptor, which it holds while the engine's
queue is full (R219). -/
structure SktOp where
  eng : Nat
  desc : Operand
  sig : Nat
  pc : Nat
  tile : Option Tile
deriving DecidableEq, Repr

/-- A `SWP` instruction being evaluated: the logical macros named, and the answers given (R137). -/
structure SwpOp where
  mask : Nat
  answers : List (Nat × Nat)
  sig : Nat
  pc : Nat
deriving DecidableEq, Repr

/-- The registers of a core that a commit stages together (Table 4.8, R130). -/
structure CoreConfig where
  handles : Map Handle
  rtlen0 : Nat
  rtlen1 : Nat
  macroMap : List Nat
deriving DecidableEq, Repr

/-- A core: place, staged and acting configuration, sequencer, scalar registers, tokens and unit queues (R117 to R150); `ran` says that it has run
since `CORE_CONFLICT_STAT` was last cleared. -/
structure Core where
  part : Option Nat
  dieLog : Nat
  x : Nat
  y : Nat
  cfg : CoreConfig
  staged : CoreConfig
  committed : Option CoreConfig
  inJob : Bool
  state : Nat
  pc : Nat
  segStart : Nat
  segCount : Nat
  faultValid : Bool
  faultPc : Nat
  faultStatus : Nat
  regs : Map Word
  tokens : Map Nat
  busy : Map Nat
  ran : Bool
  ended : Bool
  dmaQ : List DmaOp
  memQ : List MemOp
  haloTx : Map (List HaloOp)
  haloRx : Map (List HaloOp)
  sktQ : List SktOp
  sktOut : Nat
  swps : List SwpOp
deriving DecidableEq, Repr

/-- A tile whose accumulators are being drained: its chain shift and the drain-chain record read at its start (R228, R233). -/
structure SkinkDrain where
  tile : Tile
  sigma : Nat
  record : List Byte
deriving DecidableEq, Repr

/-- A Skink engine (R217, R225, R235, R236): accumulator memory, chain states by block (σ and count), queue, the tiles that drain or wait to,
registers. -/
structure Skink where
  acc : Map Word
  chainSigma : Map Nat
  chainCount : Map Nat
  queue : List Tile
  draining : List SkinkDrain
  enable : Bool
  part : Nat
  logical : Nat
  stEnable : Bool
  stPart : Nat
  stLogical : Nat
  committed : Option (Bool × Nat × Nat)
  state : Nat
  faultValid : Bool
  faultDie : Nat
  faultX : Nat
  faultY : Nat
  faultStatus : Nat
  sigma : Nat
  rescales : Nat
  tiles : Nat
  tilesHi : Nat
deriving DecidableEq, Repr

/-- An engine instance's registers (R271): Newt, Peeper, Chameleon, Gecko, Bullfrog, Toad are kinds 1 to 6. `state` is 0 or 5
(out of service) between commands, an operation being one event; `queue` holds the operations handed on and not yet served, each as its
partition and core, and `served` the partition served last (R240). -/
structure Engine where
  state : Nat
  faultValid : Bool
  faultPart : Nat
  faultStatus : Nat
  ops : Nat
  opsHi : Nat
  queue : List (Nat × Nat)
  served : Nat
  /-- The bytes that the operation in hand has written, newest first, of which it forms its output's CRCs (R247). -/
  writes : List (Nat × List Byte)
deriving DecidableEq, Repr

/-- A flit that its sender keeps until it is acknowledged (R306). -/
structure SentFlit where
  vc : Nat
  lcred : Nat
  payload : List Byte
deriving DecidableEq, Repr

/-- One direction of a Causeway link (R305 to R308, R324). At its receiving port: `expect`, the number next expected; `discarding`, until the sender
replays; `lcred`, link-level credits returned by channel; `charge` and `failing` lanes, `retrain` the ticks of a lane substitution, `dead` the data
lanes out of service for good. At its sender: `sent`, the number of the next flit; `kept`, the flits not yet acknowledged, oldest first; `resend`, how
many of them the running replay has sent. -/
structure LinkDir where
  state : Nat
  lanes : Nat
  expect : Nat
  discarding : Bool
  sent : Nat
  kept : List SentFlit
  resend : Nat
  replaying : Bool
  lcred : Map Nat
  charge : Map Nat
  failing : List Nat
  retrain : Nat
  dead : List Nat
  spares : List Nat
  crcErrs : Nat
  retrains : Nat
  worst : Nat
  stepped : Bool
  down : Bool
  flits : Nat
  flitsHi : Nat
deriving DecidableEq, Repr

/-- A window (Tables 10.6, 10.7, R316): its fields and the physical base of each page. -/
structure Window where
  isOpen : Bool
  target : Nat
  unit : Nat
  size : Nat
  psz : Nat
  rights : Nat
  crossing : Nat
  credits : Nat
  pages : List Nat
deriving DecidableEq, Repr

/-- A placement (R291 to R295): physical die of each logical die, physical core of each logical core (die × 256 + 16 y + x),
macro maps by physical core, physical engine of each logical engine. -/
structure Placement where
  dies : List Nat
  cores : Map Nat
  maps : Map (List Nat)
  skinks : Map Nat
deriving DecidableEq, Repr

/-- A fault reported by a unit and not yet sampled (R17, R468); `charge` is one more than the unit that its strike is charged to, 0 for none
(R439: a macro's key, a core as 100000 + c, an engine as 200000 + e, an engine instance as 300000 + i, a codec of a die as 400000 + d). -/
structure FaultRec where
  status : Nat
  unit : Nat
  die : Nat
  x : Nat
  y : Nat
  pc : Nat
  charge : Nat
  source : Nat
deriving DecidableEq, Repr

/-- A job in hand (R345 to R349, R373, R378 to R382); `cleared` says that the clears after its run have ended, `wrote` lists the DRAM ranges that its
present run has written (R374). -/
structure Job where
  state : Nat
  ring : Nat
  slot : Nat
  restarts : Nat
  killed : Bool
  status : Nat
  fault : FaultRec
  restartable : Bool
  noevt : Bool
  progWin : Nat
  progOff : Nat
  tlimit : Nat
  tag : Nat
  cached : Bool
  startTick : Nat
  ran : Bool
  rescaled : Bool
  longsum : Bool
  audited : Bool
  energy : Nat
  cores : List Nat
  pageTable : List Nat
  assign : List (Nat × Nat × Nat)
  ready : Bool
  cleared : Bool
  wrote : List (Nat × Nat)
deriving DecidableEq, Repr

/-- A log record (Table 17.4). -/
structure LogRec where
  cls : Nat
  part : Nat
  code : Nat
  seq : Nat
  tick : Nat
  data : List Byte
deriving DecidableEq, Repr

/-- A log ring (R472 to R474): records held, the records of the present tick not yet served, the tick of
the last record overwritten, and the pending loss (count, classes, first and last tick). -/
structure LogRing where
  recs : List LogRec
  due : List LogRec
  next : Nat
  overTick : Nat
  dropped : Nat
  losses : Nat
  lostCount : Nat
  lostMask : Nat
  lostFirst : Nat
  lostLast : Nat
deriving DecidableEq, Repr

/-- A partition (R365, R369 to R389), its powers in mW and its energy in pJ: what it holds, its placement and windows in force and waiting, its job and its counters. -/
structure Partition where
  state : Nat
  placement : Placement
  version : Nat
  nextVersion : Nat
  waiting : Option Placement
  windows : Map Window
  newWindows : Option (Map Window)
  building : List Nat
  reload : List Nat
  erasing : List Nat
  clearing : List Nat
  removing : Bool
  job : Option Job
  faults : List FaultRec
  held : Bool
  flushing : Bool
  marked : Bool
  preempted : Bool
  lastRing : Nat
  pageTable : Option (List Nat)
  barriers : Map (Nat × List Nat)
  counters : Map Nat
  policy : Nat
  debug : Nat
  debugNext : Nat
  level : Nat
  raise : Option (Nat × Nat)
  decided : Option Nat
  upTicks : Nat
  zeroTicks : Nat
  monitorCap : Nat
  deferred : Option Nat
  estimate : Nat
  estSum : Nat
  lendNet : Int
  share : Nat
  energy : Nat
  log : LogRing
  stream : Nat
  credits : Map Nat
  cacheLines : Map (List (List Byte × Nat))
deriving DecidableEq, Repr

/-- A ring (Table 11.9, R418). -/
structure Ring where
  part : Nat
  size : Nat
  rwin : Nat
  subOff : Nat
  cmpOff : Nat
  prio : Nat
  sess : Nat
  alive0 : Nat
  subHead : Nat
  subTail : Nat
  cmpHead : Nat
  cmpTail : Nat
  nextAlive : Nat
  cmpAlive : Nat
  written : Nat
  energy : Nat
  counted : Nat
deriving DecidableEq, Repr

/-- A tenant slot (Table 12.2). -/
structure Tenant where
  tenant : Nat
  rights : Nat
  parts : Nat
  key : List Byte
deriving DecidableEq, Repr

/-- A message the device sends (Table 11.4). -/
structure Msg where
  port : Nat
  addr : List Byte
  udp : Nat
  type : Nat
  session : Nat
  seq : Nat
  ack : Nat
  status : Nat
  alive : Nat
  loss : Bool
  payload : List Byte
deriving DecidableEq, Repr

/-- A staged copy of a block instance (R358, R497): the block, its instance and the values written or carried, by sub-index. -/
structure Staged where
  block : Nat
  inst : Nat
  vals : Map (List Byte)
deriving DecidableEq, Repr

/-- A session (R334 to R336, R343): `inbox` the messages received in order that it has not yet acted on, `held` those that arrived early, each
with its `TYPE`; `unacked` each message sent or to be sent with the number of its transmissions. -/
structure Session where
  port : Nat
  addr : List Byte
  udp : Nat
  part : Nat
  tenant : Nat
  bootstrap : Bool
  rxNext : Nat
  inbox : List (Nat × Req)
  held : List (Nat × Req)
  txNext : Nat
  unacked : List (Msg × Nat)
  ackDue : Bool
  staged : List Staged
  completes : List (List Byte)
  completeLoss : Bool
deriving DecidableEq, Repr

/-- An Ethernet port (R327, R330, R461): its transmit association (number, key, SCI, next packet number) and its receive associations by number (key,
SCI, lowest packet number accepted, replay window). -/
structure Port where
  link : Nat
  accepted : Nat
  discarded : Nat
  macsecDiscarded : Nat
  txSa : Option (Nat × List Byte × Nat × Nat)
  rxSas : Map (List Byte × Nat × Nat × Nat)
deriving DecidableEq, Repr

/-- What a port sends (R328, R329): an SLP message with the bytes of its UDP datagram, its answer to ARP, neighbour solicitation or echo request, or
a message of the peer-delay mechanism. -/
inductive Frame where
  | slp (m : Msg) (datagram : List Byte)
  | arp (port target mac : Nat)
  | advertisement (port : Nat) (target : List Byte) (mac : Nat)
  | echo (port : Nat) (target data : List Byte)
  | peerDelayReq (port : Nat)
  | peerDelayResp (port : Nat)
  | peerDelayFollowUp (port : Nat)
deriving DecidableEq, Repr

/-- A frame on the wire: the control word of its VLAN tag (R326), and the association that MACsec protected it under: number, SAK, SCI and packet number
(R330). Ciphertext and ICV are functions of these and of the frame; the model keeps those and does not form the bytes (DESIGN CHOICE, log entry 90). -/
structure Sent where
  frame : Frame
  vlan : Option Nat
  sec : Option (Nat × List Byte × Nat × Nat)
deriving DecidableEq, Repr

/-- SLP and the ports (R334 to R343): sessions, counters, the frames sent so far, and in `waits` the sessions whose commit of a block waits,
with its index, or whose firmware action goes on, with 0x16100 (R361, R449). -/
structure Slp where
  sessions : Map Session
  discarded : Nat
  retransmitted : Nat
  admitted : Map Nat
  ports : Map Port
  wire : List Sent
  waits : List (Nat × Nat)
deriving DecidableEq, Repr

/-- An alarm latch (Table 17.3). -/
structure Alarm where
  raised : Bool
  count : Nat
  first : Nat
  last : Nat
  detail : Nat
  source : Nat
deriving DecidableEq, Repr

/-- 802.1AS time (R329). -/
structure AsTime where
  valid : Bool
  baseNs : Nat
  baseTick : Nat
  lastSync : Nat
  syncSeen : Bool
  linkDelay : Int
deriving DecidableEq, Repr

/-- The boundary-scan instruction loaded (R464). -/
inductive Tap where
  | extest | samplePreload | bypass | idcode
deriving DecidableEq, Repr

/-- Where the device is in its resets and start-ups (R484 to R491). -/
inductive Phase where
  | porst | warmHeld | running | recovery | halted | tripped
deriving DecidableEq, Repr

/-- The hub (R436, R445 to R455, R466, R469, R483, R496): tick, phase, start-up report, alarms, device log, identity, firmware, pins. -/
structure Hub where
  tick : Nat
  phase : Phase
  warmCause : Nat
  refLost : Bool
  straps : Nat
  lastStart : Nat
  startMicros : Nat
  startPhase : Nat
  resetCause : Nat
  bootEpoch : Nat
  alarms : Map Alarm
  log : LogRing
  stream : Nat
  time : AsTime
  svn : Nat
  verified : List Byte
  svnMin : Nat
  finished : Bool
  fwHash : List Byte
  rootUsed : Nat
  rootLeaf : Nat
  epochState : Nat
  epochUsed : Nat
  epochSeed : List Byte
  epochIdent : List Byte
  /-- `FW_HASH` of the epoch record as it was signed. -/
  epochHash : List Byte
  flash : List Host.Cell
  ready : Bool
  hot : Bool
  replaceMe : Bool
  thermtrip : Bool
  tap : Tap
  tapReg : Nat
  hubRead : Nat
deriving DecidableEq, Repr

/-- A paced die's rail and gate (R390 to R397, R409, R423). -/
structure PacedDie where
  level : Nat
  decided : Option Nat
  raise : Option (Nat × Nat)
  targetMv : Nat
  trim : Int
  slack : Nat
  goodTicks : Nat
  clamps : Nat
  quarters : Nat
  clamped : Bool
  clearTicks : Nat
deriving DecidableEq, Repr

/-- A rail's telemetry (R400, R419). -/
structure Rail where
  pout : Nat
  k4096 : Nat
  fails : Nat
  rawSum : Nat
  rawTicks : Nat
deriving DecidableEq, Repr

/-- The power manager (R390 to R423): powers in mW, energies in pJ; `lowering` and `hotDies` are the dies on which the actions of
Table 14.6 at 0x4000:01 (with the tick of their start) and at 105 °C are in force; `forceEnd` is 0 while no alert force holds; `ceilLast` holds one more than the tick of a core's last
lowering, `ceilNext` the ceilings that swap in at the tick, `shortTicks` the ticks in which a core's extrapolated slack was short (R395); `newRails` is a rail
block that waits for the 1 ms reading (R419); `counts` are the activity counters, by rail, partition (16 the overhead) and kind (R399). -/
structure Power where
  dies : Map PacedDie
  rails : Map Rail
  wires : Nat
  latched : Nat
  asserts : Nat
  droops : Nat
  forceTicks : Nat
  forceEnd : Nat
  temps : List Int
  towerTemps : List Int
  coolTicks : Map Nat
  lowering : List (Nat × Nat)
  hotDies : List Nat
  estimate : Nat
  measured : Nat
  overhead : Nat
  overheadSum : Nat
  sumTicks : Nat
  overheadEnergy : Nat
  readFails : Nat
  shortfall : Bool
  lastMark : Nat
  overTicks : Nat
  underTicks : Nat
  ceilings : Map Nat
  ceilLast : Map Nat
  ceilNext : Map Nat
  shortTicks : Map Nat
  newRails : Option (List Nat)
  counts : Map Nat
  lowered : Nat
deriving DecidableEq, Repr

/-- The spare map and the integrity counters (R437 to R444); `repaired` lists the columns that soft repair has
replaced, `dead` the sub-arrays of buffers and translation memories that have no redundant
column left, whose units serve nothing (R433). -/
structure Spares where
  macros : List Nat
  cores : List Nat
  skinks : List Nat
  strikes : List (Nat × Nat)
  laneRows : Map (List (Nat × Nat))
  columns : Map (List (Nat × Nat))
  columnsDue : List Nat
  repaired : List Nat
  storeHeld : List Nat
  plazaHeld : List Nat
  sramCorrected : Nat
  sramUncorr : Nat
  residues : Nat
  beats : Nat
  laneTests : Nat
  strikesCharged : Nat
  hubCorrected : Nat
  pendingCores : List Nat
  pendingMacros : List Nat
  pendingSkinks : List Nat
  owners : Map Nat
  rate32 : List Nat
  dead : List Nat
deriving DecidableEq, Repr

/-- A DRAM tower (R319 to R322): the channels in service in order (0..15, the spare 16), whether the spare has been used, counters, rows remapped and the
reads that corrected each row (row × 32 + channel), channels that failed with no spare left. -/
structure Tower where
  inService : List Nat
  spareUsed : Bool
  corrected : Nat
  uncorr : Nat
  remapped : Nat
  remappedRows : List Nat
  rowReads : Map Nat
  failed : List Nat
  refresh2x : Bool
  throttled : Bool
  patrolBeat : Nat
deriving DecidableEq, Repr

/-- The whole state of the block. `fresh` is the model's own counter of free values used so far; `harm`, also the model's own, is what befalls the data of
the command in hand. -/
structure State where
  pending : List Instr
  mem : Memory
  cores : Map Core
  macros : Map Macro
  skinks : Map Skink
  engines : Map Engine
  links : Map LinkDir
  parts : Map Partition
  rings : Map Ring
  tenants : Map Tenant
  dict : Map (List Byte)
  slp : Slp
  hub : Hub
  power : Power
  spares : Spares
  towers : Map Tower
  fresh : Nat
  harm : Harm
deriving DecidableEq, Repr

/-- Why a step can stop with a fault. -/
inductive Fault where
  /-- Raised by any command whose operands name a unit, port or number that the device does not have (Table 1.1, R21): no such command
  can reach the hardware. Safe. -/
  | noSuchUnit
deriving DecidableEq, Repr

/-- Why a command is refused. -/
inductive Refusal where
  /-- Raised by the dispatcher for a command the model gives no meaning yet. Safe. -/
  | notModelled (mnemonic : String)
deriving DecidableEq, Repr

/-! ### Values after reset -/

def Handle.reset : Handle := { base := 0, win := 0, size := 0, valid := false, kind := 0 }

def Operand.reset : Operand := { h := Handle.reset, off := 0 }

def Page.reset : Page :=
  { cells := [], idle := [], chkLane := [], chkRow := [], errs := [], valid := false, sparse24 := false, wfmt := 0, gen := 0, crc := 0,
    lost := false, restored := [] }

def MacConfig.reset : MacConfig := { enable := false, rewritable := false, force32 := false, lanes := [] }

def Bank.reset : Bank :=
  { page := 0, row := 0, skips := 0, due := false, dueTick := 0, calTick := 0, calTemp := 0,
    calPace := 0, calibrating := .no, patrolPage := 0, patrolRow := 0, patrols := 0, skipped := 0, used := 0 }

def MacStats.reset : MacStats :=
  { repeats := 0, scrubs := 0, uncorr := false, persist := false, corrected := false, steps := 0, stepsHi := 0, rejValid := false,
    rejPage := 0, rejRow := 0, rejLane := 0, rejDetail := 0, swaps := 0, cals := 0, pauses := 0, clamps := 0, verifyRewrites := 0,
    patrolCorrected := 0, patrolLost := 0, rescales := 0 }

def Macro.reset : Macro :=
  { pages := [], active := 0, cfg := MacConfig.reset, staged := MacConfig.reset, committed := none, retired := false, mapReject := false,
    bankA := Bank.reset, bankB := Bank.reset, sweepB := false, stats := MacStats.reset, liveB := false, armed := false, shadow := [],
    acc := [], entry := [], sigma := 0, lastSigma := 0, queue := [], accepted := false, run := none, drainBuf := none, order := 0, writing := [],
    opsOpen := [], rebuild := [], rebuildHold := false, testPage := none, noRestore := [], spent := [] }

def CoreConfig.reset : CoreConfig := { handles := [], rtlen0 := 0, rtlen1 := 0, macroMap := List.replicate 16 0 }

def Core.reset : Core :=
  { part := none, dieLog := 0, x := 0, y := 0, cfg := CoreConfig.reset, staged := CoreConfig.reset, committed := none, inJob := false,
    state := 0, pc := 0, segStart := 0, segCount := 0, faultValid := false, faultPc := 0, faultStatus := 0, regs := [], tokens := [],
    busy := [], ran := false, ended := false, dmaQ := [], memQ := [], haloTx := [], haloRx := [], sktQ := [], sktOut := 0, swps := [] }

def Skink.reset : Skink :=
  { acc := [], chainSigma := [], chainCount := [], queue := [], draining := [], enable := false, part := 0, logical := 0,
    stEnable := false, stPart := 0, stLogical := 0, committed := none, state := 0, faultValid := false, faultDie := 0, faultX := 0,
    faultY := 0, faultStatus := 0, sigma := 0, rescales := 0, tiles := 0, tilesHi := 0 }

def Engine.reset : Engine :=
  { state := 0, faultValid := false, faultPart := 0, faultStatus := 0, ops := 0, opsHi := 0, queue := [], served := 15, writes := [] }

def LinkDir.reset : LinkDir :=
  { state := 1, lanes := 0, expect := 0, discarding := false, sent := 0, kept := [], resend := 0, replaying := false, lcred := [], charge := [],
    failing := [], retrain := 0, dead := [], spares := [], crcErrs := 0, retrains := 0, worst := 0, stepped := false, down := false, flits := 0,
    flitsHi := 0 }

def Window.reset : Window :=
  { isOpen := false, target := 0, unit := 0, size := 0, psz := 1, rights := 3, crossing := 0, credits := 256, pages := [] }

def Placement.reset : Placement := { dies := [], cores := [], maps := [], skinks := [] }

def FaultRec.reset : FaultRec := { status := 0, unit := 0, die := 0, x := 0, y := 0, pc := 0, charge := 0, source := 0 }

def Job.reset : Job :=
  { state := 0, ring := 0, slot := 0, restarts := 0, killed := false, status := 0, fault := FaultRec.reset, restartable := false,
    noevt := false, progWin := 0, progOff := 0, tlimit := 0, tag := 0, cached := false, startTick := 0, ran := false, rescaled := false,
    longsum := false, audited := false, energy := 0, cores := [], pageTable := [], assign := [], ready := false,
    cleared := false, wrote := [] }

def LogRing.reset : LogRing :=
  { recs := [], due := [], next := 0, overTick := 0, dropped := 0, losses := 0, lostCount := 0, lostMask := 0, lostFirst := 0, lostLast := 0 }

def Partition.reset : Partition :=
  { state := 0, placement := Placement.reset, version := 0, nextVersion := 0, waiting := none, windows := [],
    newWindows := none, building := [], reload := [], erasing := [], clearing := [], removing := false, job := none,
    faults := [], held := false, flushing := false, marked := false, preempted := false, lastRing := 0x7FFF, pageTable := none,
    barriers := [], counters := [], policy := 0, debug := 0, debugNext := 0, level := 12, raise := none,
    decided := none, upTicks := 0, zeroTicks := 0, monitorCap := 19, deferred := none, estimate := 0, estSum := 0, lendNet := 0, share := 0, energy := 0,
    log := LogRing.reset, stream := 0, credits := [], cacheLines := [] }

def Ring.reset : Ring :=
  { part := 255, size := 0, rwin := 0, subOff := 0, cmpOff := 0, prio := 0, sess := 0, alive0 := 1, subHead := 0, subTail := 0,
    cmpHead := 0, cmpTail := 0, nextAlive := 1, cmpAlive := 0, written := 0, energy := 0, counted := 0 }

def Tenant.reset : Tenant := { tenant := 0, rights := 0, parts := 0, key := [] }

def Session.reset : Session :=
  { port := 0, addr := [], udp := 0, part := 255, tenant := 0, bootstrap := false, rxNext := 1, inbox := [], held := [], txNext := 1, unacked := [],
    ackDue := false, staged := [], completes := [], completeLoss := false }

def Port.reset : Port :=
  { link := 0, accepted := 0, discarded := 0, macsecDiscarded := 0, txSa := none, rxSas := [] }

def Slp.reset : Slp :=
  { sessions := [], discarded := 0, retransmitted := 0, admitted := [], ports := [], wire := [], waits := [] }

def Alarm.reset : Alarm := { raised := false, count := 0, first := 0, last := 0, detail := 0, source := 0 }

def AsTime.reset : AsTime := { valid := false, baseNs := 0, baseTick := 0, lastSync := 0, syncSeen := false, linkDelay := 0 }

def Hub.reset : Hub :=
  { tick := 0, phase := .porst, warmCause := 0, refLost := false, straps := 0, lastStart := 0, startMicros := 0, startPhase := 0,
    resetCause := 0, bootEpoch := 0, alarms := [], log := LogRing.reset, stream := 0, time := AsTime.reset, svn := 0, verified := [],
    svnMin := 0, finished := false, fwHash := [], rootUsed := 0, rootLeaf := 0, epochState := 0, epochUsed := 0,
    epochSeed := [], epochIdent := [], epochHash := [], flash := [], ready := false, hot := false, replaceMe := false, thermtrip := false, tap := .idcode, tapReg := 0,
    hubRead := 0 }

def PacedDie.reset : PacedDie :=
  { level := 12, decided := none, raise := none, targetMv := 550, trim := 0, slack := 0, goodTicks := 0, clamps := 0, quarters := 0,
    clamped := false, clearTicks := 0 }

def Rail.reset : Rail := { pout := 0, k4096 := 4096, fails := 0, rawSum := 0, rawTicks := 0 }

def Power.reset : Power :=
  { dies := [], rails := [], wires := 0, latched := 0, asserts := 0, droops := 0, forceTicks := 0, forceEnd := 0,
    temps := List.replicate 20 0, towerTemps := List.replicate 8 0, coolTicks := [], lowering := [], hotDies := [], estimate := 0, measured := 0, overhead := 0,
    overheadSum := 0, sumTicks := 0, overheadEnergy := 0, readFails := 0, shortfall := false, lastMark := 0, overTicks := 0, underTicks := 0, ceilings := [], ceilLast := [], ceilNext := [],
    shortTicks := [], newRails := none, counts := [], lowered := 0 }

def Spares.reset : Spares :=
  { macros := [], cores := [], skinks := [], strikes := [], laneRows := [], columns := [], columnsDue := [], repaired := [], storeHeld := [],
    plazaHeld := [], sramCorrected := 0, sramUncorr := 0, residues := 0, beats := 0, laneTests := 0, strikesCharged := 0,
    hubCorrected := 0, pendingCores := [], pendingMacros := [], pendingSkinks := [], owners := [], rate32 := [], dead := [] }

def Tower.reset : Tower :=
  { inService := List.range 16, spareUsed := false, corrected := 0, uncorr := 0, remapped := 0, remappedRows := [], rowReads := [], failed := [],
    refresh2x := false, throttled := false, patrolBeat := 0 }

def Memory.reset : Memory := { cells := [], bad := [], soft := [] }

/-- The device held by `PORST_N` with power just applied: every register at its Reset column, no page valid, nothing listed in any
memory, the queue of commands empty (R10, R350, R370, Table 18.5). -/
def State.reset : State :=
  { pending := [], mem := Memory.reset, cores := [], macros := [], skinks := [], engines := [], links := [], parts := [], rings := [],
    tenants := [], dict := [], slp := Slp.reset, hub := Hub.reset, power := Power.reset, spares := Spares.reset, towers := [],
    fresh := 0, harm := Harm.none }

end Sys2Proof.Machine
end

