-- ==== Sys2Proof/WellFormed.lean ====
section
/-! DEFINITION. Which commands name units the device has (Table 1.1, R21, R40, R327, R365, R398). -/

namespace Sys2Proof

/-- A physical core: 16 array dies of 272 (R20). -/
def coreOk (core : Nat) : Bool := decide (core < 4352)
/-- A logical macro of a core (R128): 16 of the 18 are in the macro map. -/
def macroOk (n : Nat) : Bool := decide (n < 16)
/-- A physical macro of a core (R20). -/
def physOk (m : Nat) : Bool := decide (m < 18)
/-- A page number (R35): 32 pages in a bank, so 64 in a macro; `REV` and `PAGE` name at most 32, the physical pages are 64. -/
def pageOk (page : Nat) : Bool := decide (page < 64)
/-- A logic die: `AD0`..`AD15`, `ED0`, `ED1`, `HD`, `PD` (R20). -/
def dieOk (die : Nat) : Bool := decide (die < 20)
/-- A paced die: `AD0`..`AD15`, `ED0`, `ED1` (R423). -/
def pacedOk (die : Nat) : Bool := decide (die < 18)
/-- An array die (R20). -/
def arrayDieOk (die : Nat) : Bool := decide (die < 16)
/-- A physical Skink engine (R20). -/
def skinkOk (e : Nat) : Bool := decide (e < 36)
/-- An engine instance (R237): Newt (1) or Toad (6) of an array die, any of the six of an engine die. -/
def instOk (inst : Nat) : Bool :=
  decide ((inst / 8 < 16 ∧ (inst % 8 = 1 ∨ inst % 8 = 6)) ∨ ((inst / 8 = 16 ∨ inst / 8 = 17) ∧ 1 ≤ inst % 8 ∧ inst % 8 ≤ 6))
/-- A Causeway link (R21). -/
def linkOk (l : Nat) : Bool := decide (l < 45)
/-- A Causeway port: an end of a link (R324). -/
def cwyPortOk (p : Nat) : Bool := decide (p < 90)
/-- A DRAM tower (R20). -/
def towerOk (t : Nat) : Bool := decide (t < 8)
/-- An Ethernet port: 16 host ports and the management port (R327). -/
def portOk (p : Nat) : Bool := decide (p < 17)
/-- A partition (R365). -/
def partOk (p : Nat) : Bool := decide (p < 16)
/-- What runs at a level (R390): a partition, or an engine die (16, 17). -/
def targetOk (t : Nat) : Bool := decide (t < 18)
/-- A rail (R398). -/
def railOk (r : Nat) : Bool := decide (r < 24)
/-- An activity counter of Table 14.4. -/
def activityOk (a : Activity) : Bool := railOk a.rail && decide (a.kind < 17) && (match a.part with | none => true | some p => decide (p < 16))
/-- An alert wire (R411). -/
def wireOk (w : Nat) : Bool := decide (w < 8)
/-- A window number (R313). -/
def winOk (w : Nat) : Bool := decide (w < 256)
/-- A credit that an endpoint returns: of a window, a source die and a tower, or, with the number 256, of a core's share of its local pool (R310). -/
def creditOk (win src tower : Nat) : Bool := if win = 256 then coreOk src && tower == 0 else winOk win && dieOk src && towerOk tower
/-- A unit register that a hub write can name (R66, R127, R235, R271, R324, R423). -/
def RegRef.wf : RegRef → Bool
  | .mac c m _ => coreOk c && physOk m
  | .core c _ => coreOk c
  | .skink e _ => skinkOk e
  | .engine k _ => instOk k
  | .cwy q _ => cwyPortOk q
  | .pwr d _ => pacedOk d

/-- The command names units that exist. -/
def Instr.wf : Instr → Bool
  | .mvm core _ | .mvt core _ => coreOk core
  | .preload core n _ | .pageSwitch core n | .productStart core n _ => coreOk core && macroOk n
  | .macroStep core n _ _ | .reverseStep core n _ _ | .repeatStep core n _ _ => coreOk core && macroOk n
  | .checkTriggeredScrub core n _ _ _ => coreOk core && macroOk n
  | .productComplete core n | .drain core n _ => coreOk core && macroOk n
  | .wpgLoad core _ | .wpgFold core _ | .wpgCopy core _ | .wpgErase core _ => coreOk core
  | .rowWrite core n _ _ => coreOk core && macroOk n
  | .pageVerify core n _ _ _ => coreOk core && macroOk n
  | .swp core _ => coreOk core
  | .refreshOperation core m _ => coreOk core && physOk m
  | .refreshIntervalRestore die => arrayDieOk die
  | .filler core m _ _ _ => coreOk core && physOk m
  | .calibrationDue core m _ | .calibration core m _ _ | .calibrationPause core m _ _ => coreOk core && physOk m
  | .patrolRead core m _ _ => coreOk core && physOk m
  | .restore core m page _ => coreOk core && physOk m && pageOk page
  | .laneRebuild core m _ => coreOk core && physOk m
  | .laneTest core m _ _ => coreOk core && physOk m
  | .macCommit core m | .macStepCountLo core m => coreOk core && physOk m
  | .coreCommit core => coreOk core
  | .registerWrite r _ => r.wf
  | .dma core _ | .move core _ | .halSend core _ | .halReceive core _ | .fil core _ _ | .cpy core _ _ => coreOk core
  | .vectorAddInt32 core _ _ | .vectorAddFp32 core _ _ | .scalarAddInt32 core _ _ | .swap32 core _ _ | .swap64 core _ _ => coreOk core
  | .clm core _ _ | .bar core _ | .skt core _ => coreOk core
  | .skinkTile e _ | .skinkDrain e _ | .skinkCommit e | .skinkTilesLo e => skinkOk e
  | .sclNop core _ | .sclEnd core _ | .sclLi core _ | .sclAdd core _ | .sclSub core _ | .sclAnd core _ | .sclOr core _ => coreOk core
  | .sclXor core _ | .sclShl core _ | .sclShr core _ | .sclSra core _ | .sclMul core _ | .sclSlt core _ | .sclSltu core _ => coreOk core
  | .sclLdn core _ | .sclStn core _ | .sclRdreg core _ | .sclBeq core _ | .sclBne core _ | .sclBlt core _ | .sclBge core _ => coreOk core
  | .sclBltu core _ | .sclJmp core _ | .sclWait core _ | .sclWaitb core _ | .sclFence core _ => coreOk core
  | .permute core _ _ | .gather core _ _ | .scatter core _ _ | .compress core _ _ | .rescale core _ _ | .encb4 core _ _ | .decb4 core _ _ => coreOk core
  | .quant core _ _ | .dequant core _ _ | .tos8 core _ _ | .adapt core _ _ | .clipstat core _ _ | .softmax core _ _ | .rmsnorm core _ _ => coreOk core
  | .layernorm core _ _ | .rsum core _ _ | .rmax core _ _ | .mask core _ _ | .gated core _ _ | .spectrum core _ _ | .keypoint core _ _ => coreOk core
  | .generate core _ _ | .verify core _ _ => coreOk core
  | .opsLo inst => instOk inst
  | .remoteWrite core win _ _ _ _ _ => coreOk core && (winOk win || win == 256)
  | .remoteRead core win _ _ _ _ => coreOk core && winOk win
  | .creditReturn p win src tower => partOk p && creditOk win src tower
  | .flit link _ _ | .laneSubstitution link _ => linkOk link
  | .cwyFlitsLo port => cwyPortOk port
  | .rowRemap tower _ | .channelRetire tower _ | .dramPatrol tower _ _ => towerOk tower
  | .arpRequest port _ _ | .neighbourSolicitation port _ _ | .echoRequest port _ _ _ => portOk port
  | .portLinkChange port _ | .sync port _ | .followUp port _ _ | .peerDelay port _ _ _ _ => portOk port
  | .timeInvalid => true
  | .openSession r | .closeSession r | .dread r | .dwrite r | .logRead r | .bulkWrite r _ | .bulkRead r _ => portOk r.port
  | .doorbellSubTail r | .doorbellCmpHead r | .ackMessage r => portOk r.port
  | .sendAck _ | .retransmission _ _ | .complete _ | .event _ _ => true
  | .jobSelection p _ | .jobBoundary p _ | .jobStart p | .timeLimit p | .fault p | .unitsStopped p => partOk p
  | .clearingComplete p => partOk p
  | .kill _ | .flush _ _ | .hold _ | .release _ | .ringCommit _ | .windowOpen _ | .windowClose _ => true
  | .versionBuildComplete p => partOk p
  | .partitionCreate _ | .partitionRemove _ => true
  | .partitionReady p => partOk p
  | .tenantErasure die => arrayDieOk die
  | .fullPlacement _ | .emptyReloadList _ | .tenantCommit _ | .commitDiscard _ _ | .budgetCommit _ | .weightCommit _ => true
  | .paceCommit _ | .railCommit _ | .alertCommit _ | .thermalCommit _ | .arrayMaintenanceCommit _ => true
  | .sramPatrolCommit _ | .dramPatrolCommit _ | .overflowPolicyCommit _ => true
  | .portCommit _ port => portOk port
  | .slpSettingsCommit _ | .timeCommit _ | .queryStored _ | .queryRemeasure _ | .queryShadow _ => true
  | .accumulatorRead _ | .alarmClear _ | .traceCommit _ | .quote _ | .debugCommit _ => true
  | .install _ port | .delete _ port => portOk port
  | .programFlash _ _ | .finish _ _ | .clearTenants _ | .raiseMinimum _ => true
  | .levelControl acts => acts.all activityOk
  | .levelChange t | .railTargetReached t => targetOk t
  | .raiseTimeout t rail => targetOk t && railOk rail
  | .readPout rail _ => railOk rail
  | .shareRecomputation | .budgetOverrun | .budgetShortfall | .unmark => true
  | .monitorTrim die _ => arrayDieOk die
  | .ceilingLower unit => coreOk unit
  | .droop die q | .clampRelease die q => pacedOk die && decide (q < 4)
  | .alertWire wire _ => wireOk wire
  | .alertForceEnd | .temperatureSample _ _ | .correctionWriteBack _ | .sramPatrol _ _ | .strikeExpiry | .watchdog => true
  | .lossRecord ring => decide (ring < 17)
  | .timeRecord | .powerOnReset _ | .warmN | .warmStartUp _ | .referenceLoss | .referenceRestored => true
  | .extest _ | .samplePreload _ | .bypass | .idcode => true
  | .discardedFrame port _ _ => portOk port
  | .controlProcessorFault _ | .porstNLow _ | .epochTreeReady _ _ => true

end Sys2Proof
end

