-- ==== Sys2Proof/Machine/Ops.lean ====
section
/-! DEFINITION. The operations every command shares: sparse tables, memory, access to the units of the state, free values, logs and
alarms, faults, routes and the translation of window offsets. -/

namespace Sys2Proof.Machine

/-! ### Sparse tables -/

/-- The entry at a key, the default where none is listed. -/
def mget {α : Type} (m : Map α) (d : α) (k : Nat) : α :=
  match m with
  | [] => d
  | (j, v) :: rest => if j = k then v else mget rest d k

/-- Sets the entry at a key, between the lower keys and the higher ones; an entry equal to the default is not listed. -/
def mset {α : Type} [DecidableEq α] (m : Map α) (d : α) (k : Nat) (v : α) : Map α :=
  m.filter (fun e => decide (e.1 < k)) ++ (if v = d then [] else [(k, v)]) ++ m.filter (fun e => decide (k < e.1))

/-- Rewrites the entry at a key. -/
def mupd {α : Type} [DecidableEq α] (m : Map α) (d : α) (k : Nat) (f : α → α) : Map α := mset m d k (f (mget m d k))

/-- Is there an entry at the key? -/
def mhas {α : Type} (m : Map α) (k : Nat) : Bool := m.any fun e => e.1 == k

/-- Drops every entry whose key satisfies the test. -/
def mdrop {α : Type} (m : Map α) (f : Nat → Bool) : Map α := m.filter fun e => !f e.1

/-- Rewrites every listed entry of a table, dropping those that become the default. -/
def mmap {α : Type} [DecidableEq α] (m : Map α) (d : α) (f : Nat → α → α) : Map α :=
  m.foldr (fun (e : Nat × α) (t : Map α) => mset t d e.1 (f e.1 e.2)) []

/-! ### Memory -/

/-- Where each memory of the device lies in the one numbering: towers (R319), plazas, die stores, scratchpads of a core, Skink accumulator memories. -/
def towerSize : Nat := 48 * 2 ^ 30
/-- The base of a tower (R319). -/
def towerBase (t : Nat) : Nat := t * towerSize
/-- The plaza of engine die 0 or 1. -/
def plazaBase (e : Nat) : Nat := 2 ^ 40 + e * 2 ^ 30
/-- The die store of an array die. -/
def storeBase (d : Nat) : Nat := 2 ^ 41 + d * 2 ^ 26
/-- The scratchpads of a core: activation memory, then partial sums at 0x40000, staging at 0x60000 (Table 10.7). -/
def coreBase (c : Nat) : Nat := 2 ^ 42 + c * 2 ^ 20

/-- The accumulator memory of a Skink engine, entry n at 4 n (R225). -/
def skinkBase (e : Nat) : Nat := 2 ^ 42 + 2 ^ 40 + e * 2 ^ 18

/-- The SRAM buffer of an engine instance (kind 0), of the `DMA` unit (1) or the fetch (2) of a core, of the port die (3): rows of words from here up
(R431). -/
def bufBase (kind idx : Nat) : Nat := 2 ^ 42 + 2 ^ 41 + kind * 2 ^ 36 + idx * 2 ^ 16

/-- The translation memories of the dies: one word for each page entry of a window, as each die holds it (R317, R431). -/
def transBase : Nat := 2 ^ 42 + 2 ^ 41 + 2 ^ 40
/-- The page entries of a partition's window in the translation memory of a die. -/
def transAt (die p win : Nat) : Nat := transBase + ((die * 16 + p) * 256 + win) * 2 ^ 21

/-- The die of a word of a buffer or of a translation memory. -/
def bufDie (a : Nat) : Nat :=
  if transBase ≤ a then (a - transBase) / 2 ^ 33
  else
    let idx := (a - bufBase 0 0) % 2 ^ 36 / 2 ^ 16
    if a < bufBase 1 0 then idx / 8 else if a < bufBase 3 0 then idx / 272 else 19

/-- The tower of an address of package DRAM. -/
def towerOf (a : Nat) : Nat := a / towerSize

/-- The die whose bank or controller holds an address. -/
def dieOfAddr (a : Nat) : Nat :=
  if a < 2 ^ 40 then (if towerOf a < 4 then 16 else 17)
  else if a < 2 ^ 41 then 16 + (a - 2 ^ 40) / 2 ^ 30
  else if a < 2 ^ 42 then (a - 2 ^ 41) / 2 ^ 26
  else if a < skinkBase 0 then (a - 2 ^ 42) / 2 ^ 20 / 272
  else if a < bufBase 0 0 then 16 + (a - skinkBase 0) / 2 ^ 18 / 18
  else bufDie a

/-- Bytes under one code word: a DRAM beat or an SRAM codeword (R320, R431). -/
def codeSize (a : Nat) : Nat := if a < 2 ^ 40 then 64 else 8

/-- The code word that holds an address. -/
def codeBase (a : Nat) : Nat := a / codeSize a * codeSize a

/-- One byte of memory; an unlisted byte reads 0, as the start-up leaves it (R484, R486). -/
def Memory.read (m : Memory) (a : Nat) : Byte := mget m.cells 0 a

/-- The bytes at `a`, `a + 1`, … -/
def Memory.readN (m : Memory) (a n : Nat) : List Byte := (List.range n).map fun i => m.read (a + i)

/-- The cells that a byte string makes at an address: bytes that are not zero. -/
def cellsOf (a : Nat) : List Byte → List Host.Cell
  | [] => []
  | b :: bs => if b = 0 then cellsOf (a + 1) bs else (a, b) :: cellsOf (a + 1) bs

/-- Replaces `n` cells from `a` by the given ones. -/
def spliceCells (cells : List Host.Cell) (a n : Nat) (mid : List Host.Cell) : List Host.Cell :=
  cells.filter (fun c => decide (c.1 < a)) ++ mid ++ cells.filter (fun c => decide (a + n ≤ c.1))

/-- Code words wholly inside a range. -/
def codeInside (b a n : Nat) : Bool := decide (a ≤ b ∧ b + codeSize b ≤ a + n)

/-- Code words that a range touches. -/
def codeTouches (b a n : Nat) : Bool := decide (b < a + n ∧ a < b + codeSize b)

/-- Stores bytes; a whole code word written over is sound again (R432), a word written since its corrected read needs no write-back (R431). -/
def Memory.write (m : Memory) (a : Nat) (bs : List Byte) : Memory :=
  { cells := spliceCells m.cells a bs.length (cellsOf a bs), bad := m.bad.filter (fun b => !codeInside b a bs.length),
    soft := m.soft.filter (fun b => !codeTouches b a bs.length) }

/-- A clear: zeros with valid check bits over a range (R149, R216, R376). -/
def Memory.clear (m : Memory) (a n : Nat) : Memory :=
  { cells := spliceCells m.cells a n [], bad := m.bad.filter (fun b => !codeTouches b a n), soft := m.soft.filter (fun b => !codeTouches b a n) }

/-- Rising keys. -/
def rising : List Nat → Bool
  | [] => true
  | [_] => true
  | a :: b :: rest => decide (a < b) && rising (b :: rest)

/-- The canonical form of memory: addresses strictly rising, no zero byte listed. -/
def Memory.wf (m : Memory) : Bool := rising (m.cells.map Prod.fst) && m.cells.all fun c => decide (c.2 ≠ 0)

/-- The status of an uncorrectable code word: 0x0309 in an SRAM (R432), 0x0307 in package DRAM (R320). Above bit 16, which `statusOf` cuts
off, stands where it lies: the tower (1..8), which `State.badTower` counts, the die of a plaza, die store or translation memory (20 + die), the core of
a scratchpad (100 + c) or the engine of an accumulator memory (5000 + e), which R439 charges. -/
def badStatus (b : Nat) : Nat :=
  if b < 2 ^ 40 then 0x0307 + 65536 * (towerOf b + 1)
  else if b < 2 ^ 42 then 0x0309 + 65536 * (20 + dieOfAddr b)
  else if b < skinkBase 0 then 0x0309 + 65536 * (100 + (b - 2 ^ 42) / 2 ^ 20)
  else if b < bufBase 0 0 then 0x0309 + 65536 * (5000 + (b - skinkBase 0) / 2 ^ 18)
  else 0x0309 + 65536 * (20 + bufDie b)

/-- The status of an uncorrectable word in a buffer: the engine instance (6000 + inst), the core or the port die is where it lies. -/
def bufStatus (kind idx : Nat) : Nat := 0x0309 + 65536 * (if kind = 0 then 6000 + idx else if kind = 3 then 39 else 100 + idx)

/-- The status of a residue that failed in an engine instance, or in a codec of a die (6500 + die), which it names so (R430). -/
def residueStatus (codec : Bool) (idx : Nat) : Nat := 0x0303 + 65536 * (if codec then 6500 + idx else 6000 + idx)

/-- The status of a beat check that a port, crossbar or codec finds in disagreement (9), or the beat's destination (Table 15.6). -/
def beatStatus (port : Bool) : Nat := 0x0308 + if port then 65536 * 9 else 0

/-- The status proper. -/
def statusOf (e : Nat) : Nat := e % 65536

/-- The die whose controller or bank found a fault (Table 15.1): that of the memory, or the die given. -/
def originDie (e die : Nat) : Nat :=
  let o := e / 65536
  if o = 0 ∨ o = 9 then die else if o ≤ 8 then dieOfAddr (towerBase (o - 1)) else if o < 100 then o - 20 else if o < 5000 then (o - 100) / 272
  else if o < 6000 then 16 + (o - 5000) / 18 else if o < 6500 then (o - 6000) / 8 else o - 6500

/-- The unit that a status's strike is charged to, as `FaultRec.charge` has it: that of the place the status names, or the one given (R439). -/
def originCharge (e charge : Nat) : Nat :=
  let o := e / 65536
  if o < 100 then charge else if o < 5000 then 1 + (100000 + (o - 100)) else if o < 6000 then 1 + (200000 + (o - 5000))
  else if o < 6500 then 1 + (300000 + (o - 6000)) else 1 + (400000 + (o - 6500))

/-- The status of a read that meets an uncorrectable code word. -/
def Memory.badAt (m : Memory) (a n : Nat) : Option Nat :=
  match m.bad.find? (fun b => codeTouches b a n) with
  | none => none
  | some b => some (badStatus b)

/-- The status of a write that covers part of an uncorrectable code word (R432). -/
def Memory.badPart (m : Memory) (a n : Nat) : Option Nat :=
  match m.bad.find? (fun b => codeTouches b a n && !codeInside b a n) with
  | none => none
  | some b => some (badStatus b)

/-- Marks a code word uncorrectable. -/
def Memory.spoil (m : Memory) (a : Nat) : Memory :=
  { m with bad := if m.bad.contains (codeBase a) then m.bad else codeBase a :: m.bad }

/-! ### The answer of a command -/

/-- A command's next state: its effect on everything but the queue. -/
def done (s s' : State) : Host.Outcome State Fault Refusal := .next { s' with pending := s.pending, harm := s.harm }

/-- A command that names existing units has its effect; any other stops. -/
def act (ok : Bool) (s : State) (s' : State) : Host.Outcome State Fault Refusal := if ok then done s s' else .fault .noSuchUnit

/-! ### Units of the state -/

def State.core (s : State) (c : Nat) : Core := mget s.cores Core.reset c
def State.setCore (s : State) (c : Nat) (v : Core) : State := { s with cores := mset s.cores Core.reset c v }
def State.updCore (s : State) (c : Nat) (f : Core → Core) : State := s.setCore c (f (s.core c))
/-- The key of a physical macro. -/
def macKey (c m : Nat) : Nat := c * 18 + m
def State.mac (s : State) (k : Nat) : Macro := mget s.macros Macro.reset k
def State.setMac (s : State) (k : Nat) (v : Macro) : State := { s with macros := mset s.macros Macro.reset k v }
def State.updMac (s : State) (k : Nat) (f : Macro → Macro) : State := s.setMac k (f (s.mac k))
def State.skink (s : State) (e : Nat) : Skink := mget s.skinks Skink.reset e
def State.setSkink (s : State) (e : Nat) (v : Skink) : State := { s with skinks := mset s.skinks Skink.reset e v }
def State.updSkink (s : State) (e : Nat) (f : Skink → Skink) : State := s.setSkink e (f (s.skink e))
def State.engine (s : State) (i : Nat) : Engine := mget s.engines Engine.reset i
def State.updEngine (s : State) (i : Nat) (f : Engine → Engine) : State := { s with engines := mupd s.engines Engine.reset i f }
/-- A direction of a link: `dir` true is the receiving port of the second die of `linkEnds`. -/
def linkKey (l : Nat) (dir : Bool) : Nat := 2 * l + (if dir then 1 else 0)
def State.link (s : State) (k : Nat) : LinkDir := mget s.links LinkDir.reset k
def State.updLink (s : State) (k : Nat) (f : LinkDir → LinkDir) : State := { s with links := mupd s.links LinkDir.reset k f }
def State.part (s : State) (p : Nat) : Partition := mget s.parts Partition.reset p
def State.setPart (s : State) (p : Nat) (v : Partition) : State := { s with parts := mset s.parts Partition.reset p v }
def State.updPart (s : State) (p : Nat) (f : Partition → Partition) : State := s.setPart p (f (s.part p))
def State.ring (s : State) (r : Nat) : Ring := mget s.rings Ring.reset r
def State.setRing (s : State) (r : Nat) (v : Ring) : State := { s with rings := mset s.rings Ring.reset r v }
def State.updRing (s : State) (r : Nat) (f : Ring → Ring) : State := s.setRing r (f (s.ring r))
def State.tower (s : State) (t : Nat) : Tower := mget s.towers Tower.reset t
def State.updTower (s : State) (t : Nat) (f : Tower → Tower) : State := { s with towers := mupd s.towers Tower.reset t f }
def State.session (s : State) (n : Nat) : Option Session := (s.slp.sessions.find? fun e => e.1 == n).map Prod.snd
def State.port (s : State) (p : Nat) : Port := mget s.slp.ports Port.reset p
def State.updPort (s : State) (p : Nat) (f : Port → Port) : State :=
  { s with slp := { s.slp with ports := mupd s.slp.ports Port.reset p f } }
def State.updHub (s : State) (f : Hub → Hub) : State := { s with hub := f s.hub }
def State.updPower (s : State) (f : Power → Power) : State := { s with power := f s.power }
def State.updSpares (s : State) (f : Spares → Spares) : State := { s with spares := f s.spares }
def State.setMem (s : State) (m : Memory) : State := { s with mem := m }

/-- The job in hand of a partition, rewritten where there is one. -/
def State.updJob (s : State) (p : Nat) (f : Job → Job) : State := s.updPart p fun q => { q with job := q.job.map f }

/-- The state of a partition's job (Table 13.2), 0 with none. -/
def State.jobState (s : State) (p : Nat) : Nat := match (s.part p).job with | none => 0 | some j => j.state

/-- The key of a dictionary value: index, instance (a partition, a port, 0), sub-index. -/
def dkey (index inst sub : Nat) : Nat := (index * 65536 + inst) * 256 + sub

/-- The bytes of a dictionary value in force; empty where none has been written. -/
def State.dbytes (s : State) (index inst sub : Nat) : List Byte := mget s.dict [] (dkey index inst sub)

/-- A dictionary value in force as a number, or its default. -/
def State.dval (s : State) (index inst sub dflt : Nat) : Nat :=
  match s.dbytes index inst sub with
  | [] => dflt
  | bs => leNat bs

/-- The physical array die of a core. -/
def coreDie (c : Nat) : Nat := c / 272

/-- The array dies of a partition: 0x2000:01 in force. -/
def State.partDies (s : State) (p : Nat) : List Nat := (List.range 16).filter fun d => (s.dval 0x2000 p 1 0).testBit d

/-- The partition exists (0x2000:11 not 0). -/
def State.exists_ (s : State) (p : Nat) : Bool := (s.part p).state != 0

/-- The partitions that exist. -/
def State.partsHere (s : State) : List Nat := (List.range 16).filter fun p => s.exists_ p

/-- The partition that holds an array die. -/
def State.dieOwner (s : State) (d : Nat) : Option Nat := s.partsHere.find? fun p => (s.partDies p).contains d

/-- The key of an activity counter: rail, partition or 16 for the overhead, kind of event. -/
def activityKey (rail who kind : Nat) : Nat := (rail * 17 + who) * 17 + kind

/-- Events of Table 14.4 count in the activity counter of their rail and partition (R399, R401). -/
def State.tally (s : State) (rail : Nat) (part : Option Nat) (kind n : Nat) : State :=
  let k := activityKey rail (part.getD 16) kind
  s.updPower fun w => { w with counts := mset w.counts 0 k (mget w.counts 0 k + n) }

/-- Events in the macros of a core count on its die's rail for the partition that holds the die. -/
def State.tallyCore (s : State) (c kind n : Nat) : State := s.tally (coreDie c) (s.dieOwner (coreDie c)) kind n

/-- The physical macro that serves a logical one (R128). A `PHYS_j` of 18..31, which names no macro (R130), is taken modulo 18 (DESIGN CHOICE, log
entry 94). -/
def State.macroOf (s : State) (c n : Nat) : Nat := macKey c ((s.core c).cfg.macroMap.getD n 0 % 18)

/-! ### Free values -/

/-- The next free byte. -/
def State.freeByte (s : State) : Byte × State := (Config.freeByte s.fresh, { s with fresh := s.fresh + 1 })
/-- The next free word. -/
def State.freeWord (s : State) : Word × State := (Config.freeWord s.fresh, { s with fresh := s.fresh + 1 })
/-- The next free choice. -/
def State.freeBool (s : State) : Bool × State := (Config.freeBool s.fresh, { s with fresh := s.fresh + 1 })
/-- The next `n` free bytes. -/
def State.freeBytes (s : State) (n : Nat) : List Byte × State :=
  ((List.range n).map fun i => Config.freeByte (s.fresh + i), { s with fresh := s.fresh + n })

/-! ### Logs and alarms -/

/-- A record of the present tick for a partition's ring, or for the device's (R472); it enters its ring when the tick ends (R473). -/
def State.log (s : State) (ring : Option Nat) (cls code : Nat) (data : List Byte) : State :=
  let r : LogRec := { cls := cls, part := ring.getD 255, code := code, seq := 0, tick := s.hub.tick, data := data }
  match ring with
  | none => { s with hub := { s.hub with log := { s.hub.log with due := s.hub.log.due ++ [r] } } }
  | some p => s.updPart p fun q => { q with log := { q.log with due := q.log.due ++ [r] } }

/-- `SOURCE` of an alarm (Table 17.3): die, partition (15 when none) and unit number. -/
def alarmSource (die : Nat) (part : Option Nat) (unit : Nat) : Nat := die % 32 * 2048 + part.getD 15 % 16 * 128 + unit % 128

/-- The source of what the hub finds: `HD`, unit 0 (Table 17.3). -/
def hubSource : Nat := alarmSource 18 none 0

/-- One occurrence of an alarm: its latch and its log record (R469, Table 17.5). -/
def State.alarm (s : State) (n detail source : Nat) : State :=
  let a := mget s.hub.alarms Alarm.reset n
  let count := satAdd 0xFFFFFFFF a.count 1
  let b : Alarm :=
    { raised := true, count := count, first := if a.raised then a.first else s.hub.tick, last := s.hub.tick, detail := detail, source := source }
  ({ s with hub := { s.hub with alarms := mset s.hub.alarms Alarm.reset n b } }).log none 2 n
    (leBytes 2 detail ++ leBytes 2 source ++ leBytes 4 count ++ List.replicate 8 0)

/-- A trace record of a kind, where the partition's mask selects it (R475). -/
def State.trace (s : State) (p kind : Nat) (data : List Byte) : State :=
  if (s.dval 0x7020 p 2 0).testBit (kind - 1) then s.log (some p) 7 kind (data ++ List.replicate (16 - data.length) 0) else s

/-- Replace-me (R28, R389): raised once, until power-on reset. -/
def State.replaceMe (s : State) : State :=
  if s.hub.replaceMe then s else (s.updHub fun h => { h with replaceMe := true }).alarm 12 0 hubSource

/-- The alarm of an integrity status (Table 15.7). -/
def integrityAlarm (status : Nat) : Option Nat :=
  if status = 0x0302 ∨ status = 0x0207 then some 5
  else if status = 0x0309 then some 6
  else if status = 0x0307 then some 7
  else if status = 0x0303 then some 9
  else if status = 0x0304 ∨ status = 0x0305 ∨ status = 0x0306 ∨ status = 0x0308 then some 10
  else none

/-- The counter of Table 15.9 that an integrity status advances. -/
def State.countIntegrity (s : State) (status : Nat) : State :=
  if status = 0x0309 then s.updSpares fun x => { x with sramUncorr := satAdd 0xFFFFFFFF x.sramUncorr 1 }
  else if status = 0x0303 then s.updSpares fun x => { x with residues := satAdd 0xFFFFFFFF x.residues 1 }
  else if status = 0x0308 then s.updSpares fun x => { x with beats := satAdd 0xFFFFFFFF x.beats 1 }
  else s

/-- An integrity fault's alarm and counter (R441); nothing for another status. -/
def State.integrity (s : State) (status source : Nat) : State :=
  match integrityAlarm status with
  | none => s
  | some a => (s.countIntegrity status).alarm a status source

/-! ### Faults of jobs -/

/-- `SOURCE` of a fault's alarm: the die of the unit that detected it, which is the controller or bank where a memory's code failed (Tables
15.1, 17.3). -/
def faultSource (part : Option Nat) (die : Nat) (f : FaultRec) : Nat :=
  let d := originDie f.status die
  alarmSource d part
    (if f.status / 65536 ≠ 0 ∧ f.status / 65536 ≠ 9 then (Config.unitNumber d 8 (f.status / 65536)).toNat
     else if f.unit = 0 then 0 else (Config.unitNumber die f.unit (16 * f.y + f.x)).toNat)

/-- An uncorrectable read of package DRAM counts at its tower (Table 10.8). -/
def State.badTower (s : State) (e : Nat) : State :=
  if e / 65536 = 0 ∨ 8 < e / 65536 then s else s.updTower (e / 65536 - 1) fun t => { t with uncorr := satAdd 0xFFFFFFFF t.uncorr 1 }

/-- The record of a fault as its unit reports it: a beat check that disagrees at a port, crossbar or codec names `UNIT` 6 (Table 15.6), the unit
charged is that of the place the status names (R439). -/
def FaultRec.reported (g : FaultRec) : FaultRec :=
  { g with status := statusOf g.status, unit := if g.status / 65536 = 9 then 6 else g.unit, charge := originCharge g.status g.charge }

/-- A unit of a partition reports a fault; the device samples it, with its alarm, at the next tick boundary (R467). `die` is the physical die. -/
def State.raise (s : State) (p : Nat) (die : Nat) (g : FaultRec) : State :=
  (s.badTower g.status).updPart p fun q =>
    { q with faults := q.faults ++ [{ g.reported with source := faultSource (some p) die { g with unit := g.reported.unit } }] }

/-- The record of a fault at a core (Table 11.11). -/
def coreFault (k : Core) (status unit pc : Nat) : FaultRec :=
  { status := status, unit := unit, die := k.dieLog, x := k.x, y := k.y, pc := pc, charge := 0, source := 0 }

/-- The unit that a residue fault of a core's own units strikes: the core (R439). -/
def coreCharge (c status : Nat) : Nat := if status = 0x0303 then 1 + (100000 + c) else 0

/-- A unit of a core reports a fault of the core's job. -/
def State.coreRaise (s : State) (c status unit pc : Nat) : State :=
  match (s.core c).part with
  | none => s
  | some p => s.raise p (coreDie c) { coreFault (s.core c) status unit pc with charge := coreCharge c status }

/-- A macro of a core reports a fault; an uncorrectable array pattern and a residue mismatch are charged to the macro (R439). -/
def State.macroRaise (s : State) (c k status pc : Nat) : State :=
  match (s.core c).part with
  | none => s
  | some p => s.raise p (coreDie c) { coreFault (s.core c) status 2 pc with charge := if status = 0x0302 ∨ status = 0x0303 then 1 + k else 0 }

/-- A refusal stops issue, and `CORE_FAULT` keeps the job's first: the refused instruction's place and the status (R129, R148). -/
def State.stopIssue (s : State) (c status pc : Nat) : State :=
  s.updCore c fun k =>
    if k.faultValid then { k with state := 6 }
    else { k with state := 6, faultValid := true, faultPc := pc % 2 ^ 15, faultStatus := statusOf status }

/-- A refusal in the sequencer (R148): issue stops, `CORE_FAULT` keeps the first status, the job faults. -/
def State.refuse (s : State) (c status : Nat) : State := (s.stopIssue c status (s.core c).pc).coreRaise c status 1 (s.core c).pc

/-- An instruction completes: its token counter rises, or faults the job at its limit (R147). -/
def State.signal (s : State) (c sig pc : Nat) : State :=
  if sig = 0 then s
  else
    let n := mget (s.core c).tokens 0 sig
    if n = 65535 then s.coreRaise c 0x0107 1 pc
    else s.updCore c fun k => { k with tokens := mset k.tokens 0 sig (n + 1) }

/-! ### Residues (R429, R430) -/

/-- A value modulo 7. -/
def residue (v : Int) : Nat := (v % 7).toNat

/-- The error of the value computed at a place. -/
def State.errorAt (s : State) (place : Nat) : Int := match s.harm.err with | some (i, d) => if i = place then d else 0 | none => 0

/-- A value as its unit computes it, held against the residue that its operands give: none where they disagree. -/
def State.computed (s : State) (place : Nat) (v : Int) : Option Int :=
  let w := v + s.errorAt place
  if residue w = residue v then some w else none

/-- Some value of the operation in hand disagrees with its residue. -/
def State.residueFails (s : State) : Bool := match s.harm.err with | some (_, d) => residue d != 0 | none => false

/-- A table of values as its unit holds it, tested against their residues: none where one disagrees. -/
def State.tested (s : State) (m : Map Int) : Option (Map Int) :=
  match s.harm.err with
  | none => some m
  | some (i, _) => (s.computed i (mget m 0 i)).map fun v => mset m 0 i v

/-- Places of the values that sequencer and translation adders compute (R429). -/
abbrev placeSeq : Nat := 2 ^ 18
abbrev placeTranslate : Nat := 2 ^ 19

/-- An address as its adder computes it. -/
def State.address (s : State) (place a : Nat) : Option Nat := (s.computed place a).map Int.toNat

/-! ### Buffers (R431 to R433) -/

/-- The sub-array of a buffer (kinds 0 to 3), or of a die's translation memory (4): each memory is one (Table 15.2). -/
def bufSub (kind idx : Nat) : Nat := 2 ^ 25 + kind * 2 ^ 13 + idx

/-- What an access through a buffer meets: a buffer with no columns left serves nothing (R433); a word that the command in hand reads with an
uncorrectable pattern faults (R432). What passes through writes the words of a buffer anew, so no pattern stays in one. -/
def State.bufferFault (s : State) (kind idx : Nat) : Option Nat :=
  if s.spares.dead.contains (bufSub kind idx) then some 0x0140
  else if s.harm.sram.any fun e => decide (2 ≤ e.2.length ∧ e.1 / 2 ^ 16 = bufBase kind idx / 2 ^ 16) then some (bufStatus kind idx)
  else none

/-! ### Beats in flight (R425, R426) -/

/-- One byte into a CRC-32C register, polynomial 0x1EDC6F41 reflected. -/
def crcByte (c : Nat) (b : Byte) : Nat :=
  (List.range 8).foldl (fun c _ => if c % 2 = 1 then (c / 2) ^^^ 0x82F63B78 else c / 2) (c ^^^ b.toNat)

/-- CRC-32C of a byte string (R86). -/
def crc32c (bs : List Byte) : Nat := bs.foldl crcByte 0xFFFFFFFF ^^^ 0xFFFFFFFF

/-- The 64-byte beats that some bytes at an address fill, the bytes not written taken as zero (R425). -/
def beatsOf (a fuel : Nat) (bs : List Byte) : List (List Byte) :=
  match fuel with
  | 0 => []
  | fuel + 1 =>
    if bs.isEmpty then []
    else
      let k := 64 - a % 64
      let b := List.replicate (a % 64) 0 ++ bs.take k
      (b ++ List.replicate (64 - b.length) 0) :: beatsOf 0 fuel (bs.drop k)

/-- The beat checks of bytes in flight: CRC-32C over each beat (R425). -/
def beatChecks (a : Nat) (bs : List Byte) : List Nat := (beatsOf a (bs.length / 64 + 2) bs).map crc32c

/-- What the next access over the fabric suffers. -/
def State.struck (s : State) : Option (Bool × List Byte) := match s.harm.beat with | some (0, e) => some e | _ => none

/-- Bytes as they arrive: what was sent, or, where the access in hand suffers, what a checker finds of it. Every checker on the way holds the beats
against the checks generated where they were sent; 0x0308 where one disagrees (R309, R426). -/
def State.arrived (s : State) (a : Nat) (bs : List Byte) : Except Nat (List Byte) :=
  match s.struck with
  | none => .ok bs
  | some (port, flips) =>
    let got := (List.range bs.length).map fun i => bs.getD i 0 ^^^ flips.getD i 0
    if beatChecks a got = beatChecks a bs then .ok got else .error (beatStatus port)

/-- One access over the fabric is done. -/
def State.crossed (s : State) : State :=
  match s.harm.beat with
  | none => s
  | some (n, e) => { s with harm := { s.harm with beat := if n = 0 then none else some (n - 1, e) } }

/-! ### Routes -/

/-- The link between two neighbouring dies, if there is one (Table 1.2). -/
def linkBetween (a b : Nat) : Option Nat :=
  (List.range Config.numLinks).find? fun l => Config.linkEnds l == (a, b) || Config.linkEnds l == (b, a)

/-- The dies from column `x` to column `x'` of a grid row, both included. -/
def rowDies (y x x' : Nat) : List Nat :=
  if x ≤ x' then (List.range (x' - x + 1)).map fun i => 4 * y + x + i else (List.range (x - x' + 1)).map fun i => 4 * y + x - i

/-- The dies from row `y` to row `y'` of a grid column, both included. -/
def colDies (x y y' : Nat) : List Nat :=
  if y ≤ y' then (List.range (y' - y + 1)).map fun i => 4 * (y + i) + x else (List.range (y - y' + 1)).map fun i => 4 * (y - i) + x

/-- The dies that a route from an array die to any other die passes (R22). -/
def routeFromArray (a b : Nat) : List Nat :=
  if b < 16 then rowDies (a / 4) (a % 4) (b % 4) ++ (colDies (b % 4) (a / 4) (b / 4)).drop 1
  else if b = 16 then rowDies (a / 4) (a % 4) 0 ++ [16]
  else if b = 17 then rowDies (a / 4) (a % 4) 3 ++ [17]
  else if b = 18 then colDies (a % 4) (a / 4) 0 ++ [18]
  else colDies (a % 4) (a / 4) 3 ++ [19]

/-- The dies of a route (R22). -/
def routeDies (a b : Nat) : List Nat :=
  if a = b then [a]
  else if a < 16 then routeFromArray a b
  else if b < 16 then (routeFromArray b a).reverse
  else if (a = 16 ∧ b = 17) ∨ (a = 17 ∧ b = 16) then [a, 18, b]
  else [a, b]

/-- The links along a list of neighbouring dies. -/
def linksAlong : List Nat → List Nat
  | a :: b :: rest => (match linkBetween a b with | none => [] | some l => [l]) ++ linksAlong (b :: rest)
  | _ => []

/-- The links of a route, in order (R22). -/
def route (a b : Nat) : List Nat := linksAlong (routeDies a b)

/-- A link either of whose directions is down is down whole (R308). -/
def State.linkDown (s : State) (l : Nat) : Bool := (s.link (2 * l)).state == 0 || (s.link (2 * l + 1)).state == 0

/-- Does the route, either way, cross a link that is down (0x0601)? -/
def State.routeDown (s : State) (a b : Nat) : Bool := (route a b).any s.linkDown || (route b a).any s.linkDown

/-! ### Windows -/

/-- Page size (Table 10.6). -/
def pageSize (psz : Nat) : Nat := if psz = 0 then 2 ^ 16 else if psz = 1 then 2 ^ 21 else 2 ^ 26

/-- The kinds of access that `RIGHTS` names, as its bits. -/
abbrev rRD : Nat := 0
abbrev rWR : Nat := 1
abbrev rATOM : Nat := 2
abbrev rHRD : Nat := 3
abbrev rHWR : Nat := 4

def State.window (s : State) (p w : Nat) : Window := mget (s.part p).windows Window.reset w

/-- R316: the place of a window offset, or the status of the fault. -/
def translate (w : Window) (off kind : Nat) : Except Nat Nat :=
  if !w.isOpen then .error 0x0401
  else if w.size ≤ off then .error 0x0402
  else if !w.rights.testBit kind then .error 0x0403
  else .ok (w.pages.getD (off / pageSize w.psz) 0 + off % pageSize w.psz)

/-- The places of `n` bytes of a window from an offset, page by page; `fuel` bounds the pages. -/
def windowExtents (w : Window) (kind fuel off n : Nat) : Except Nat (List (Nat × Nat)) :=
  match fuel with
  | 0 => .ok []
  | fuel + 1 =>
    if n = 0 then .ok []
    else
      match translate w off kind with
      | .error e => .error e
      | .ok a =>
        let ps := pageSize w.psz
        let k := min n (min (ps - off % ps) (w.size - off))
        match windowExtents w kind fuel (off + k) (n - k) with
        | .error e => .error e
        | .ok rest => .ok ((a, k) :: rest)

/-- The status of the first extent of a list that cannot be reached from a die. -/
def State.unreachable (s : State) (die : Nat) (ext : List (Nat × Nat)) : Bool := ext.any fun e => s.routeDown die (dieOfAddr e.1)

/-- Bytes of the extents, or the status of an uncorrectable word. -/
def readExtents (m : Memory) : List (Nat × Nat) → Except Nat (List Byte)
  | [] => .ok []
  | (a, n) :: rest =>
    match m.badAt a n with
    | some e => .error e
    | none =>
      match readExtents m rest with
      | .error e => .error e
      | .ok bs => .ok (m.readN a n ++ bs)

/-- Stores bytes over the extents, or answers the status of a part-written uncorrectable word (R432). -/
def writeExtents (m : Memory) : List (Nat × Nat) → List Byte → Except Nat Memory
  | [], _ => .ok m
  | (a, n) :: rest, bs =>
    match m.badPart a (min n bs.length) with
    | some e => .error e
    | none => writeExtents (m.write a (bs.take n)) rest (bs.drop n)

/-- Channels in service, C (R319). -/
def Tower.channels (t : Tower) : Nat := t.inService.length

/-- The channel that holds a local address: that at position (A div 256) mod C in the order of channels in service (R319). -/
def Tower.channelAt (t : Tower) (a : Nat) : Nat := t.inService.getD (a / 256 % t.channels) 16

/-- The channel address: (A div 256 C) × 256 + A mod 256 (R319). -/
def Tower.channelAddr (t : Tower) (a : Nat) : Nat := a / (256 * t.channels) * 256 + a % 256

/-- The bytes lie, in part, in a channel in service that has failed with no spare left (R321): position (A div 256) mod C (R319). -/
def State.inFailedChannel (s : State) (a n : Nat) : Bool :=
  let t := s.tower (towerOf a)
  let lo := a % towerSize / 256
  decide (a < 2 ^ 40) && (List.range (min t.channels ((a % towerSize + n + 255) / 256 - lo))).any fun i => t.failed.contains (t.channelAt ((lo + i) * 256))

/-- The status of a read of extents that meets such a channel: it faults each job reading it under R320. -/
def State.failedRead (s : State) (kind : Nat) (ext : List (Nat × Nat)) : Option Nat :=
  if kind = rWR ∨ kind = rHWR then none
  else match ext.find? fun e => s.inFailedChannel e.1 e.2 with
    | none => none
    | some e => some (badStatus e.1)

/-- What a read of `n` page entries meets in the translation memory of a die (R431 to R433). -/
def State.entryFault (s : State) (die p win off n : Nat) : Option Nat :=
  if s.spares.dead.contains (bufSub 4 die) then some 0x0140
  else s.mem.badAt (transAt die p win + 8 * (off / pageSize (s.window p win).psz)) (8 * n)

/-- The extents of `n` bytes of a partition's window, seen from a die: the offset as the translation adders give it (R429), translation, page entries,
rights and route checked (R308, R316, R431). -/
def State.windowAt (s : State) (die p win off n kind : Nat) : Except Nat (List (Nat × Nat)) :=
  match s.address placeTranslate off with
  | none => .error 0x0303
  | some off =>
    match windowExtents (s.window p win) kind (n / 2 ^ 16 + 2) off n with
    | .error e => .error e
    | .ok ext =>
      match s.entryFault die p win off ext.length with
      | some e => .error e
      | none =>
        if s.unreachable die ext then .error 0x0601
        else match s.failedRead kind ext with
          | some e => .error e
          | none => .ok ext

/-- Reads bytes of a partition's window from a die, to which they come as beats (R425, R426). -/
def State.readWindow (s : State) (die p win off n kind : Nat) : Except Nat (List Byte) :=
  match s.windowAt die p win off n kind with
  | .error e => .error e
  | .ok ext => match readExtents s.mem ext with | .error e => .error e | .ok bs => s.arrived ((ext.headD (0, 0)).1) bs

/-- Writes bytes of a partition's window from a die. -/
def State.writeWindow (s : State) (die p win off : Nat) (bs : List Byte) (kind : Nat) : Except Nat State :=
  match s.windowAt die p win off bs.length kind with
  | .error e => .error e
  | .ok ext =>
    match writeExtents s.mem ext bs with
    | .error e => .error e
    | .ok m => .ok (s.setMem m)

end Sys2Proof.Machine
end

