-- ==== Sys2Proof/Machine/Float.lean ====
section
/-! DEFINITION. Binary floating point, exact and rounded to nearest even: binary32, BF16, FP8 E4M3 and E5M2 (R169, R248). -/

namespace Sys2Proof.Machine

/-- A floating-point value: not a number, an infinity, or (−1)^neg · m · 2^e. -/
inductive FVal where
  | nan
  | inf (neg : Bool)
  | fin (neg : Bool) (m : Nat) (e : Int)
deriving DecidableEq, Repr

/-- A format: precision, exponent of the least subnormal, exponent bits, largest finite magnitude (as mantissa and exponent), infinities kept. -/
structure FFmt where
  p : Nat
  emin : Int
  ebits : Nat
  hasInf : Bool
deriving DecidableEq, Repr

def fp32 : FFmt := { p := 24, emin := -149, ebits := 8, hasInf := true }
def bf16 : FFmt := { p := 8, emin := -133, ebits := 8, hasInf := true }
def e5m2 : FFmt := { p := 3, emin := -16, ebits := 5, hasInf := true }
def e4m3 : FFmt := { p := 4, emin := -9, ebits := 4, hasInf := false }

/-- Width of a format in bits. -/
def FFmt.width (f : FFmt) : Nat := f.p + f.ebits
/-- The largest exponent field. -/
def FFmt.top (f : FFmt) : Nat := 2 ^ f.ebits - 1

/-- The value of a bit pattern. E4M3 has no infinity: only the pattern with every exponent and mantissa bit set is not a number. -/
def FFmt.decode (f : FFmt) (b : Nat) : FVal :=
  let neg := b.testBit (f.width - 1)
  let ef := b / 2 ^ (f.p - 1) % 2 ^ f.ebits
  let mf := b % 2 ^ (f.p - 1)
  if f.hasInf && ef == f.top then (if mf = 0 then .inf neg else .nan)
  else if !f.hasInf && ef == f.top && mf == 2 ^ (f.p - 1) - 1 then .nan
  else if ef = 0 then .fin neg mf f.emin
  else .fin neg (mf + 2 ^ (f.p - 1)) (f.emin + ef - 1)

/-- Number of significant bits. -/
def bitLen (m : Nat) : Nat := if m = 0 then 0 else Nat.log2 m + 1

/-- The mantissa and exponent of m · 2^e rounded to nearest even in a format; `sticky` says that something below the last bit of m was cut. -/
def FFmt.roundParts (f : FFmt) (m : Nat) (e : Int) (sticky : Bool) : Nat × Int :=
  let q := max (e + bitLen m - f.p) f.emin
  if q ≤ e then (m * 2 ^ (e - q).toNat, q)
  else
    let sh := (q - e).toNat
    let k := m / 2 ^ sh
    let r := m % 2 ^ sh
    let half := 2 ^ (sh - 1)
    let up := decide (half < r) || (r == half && (sticky || k % 2 == 1))
    let k := if up then k + 1 else k
    if k = 2 ^ f.p then (k / 2, q + 1) else (k, q)

/-- The bit pattern nearest to a value; what is too large becomes an infinity, or in E4M3 the largest finite value. -/
def FFmt.encodeS (f : FFmt) (v : FVal) (sticky : Bool) : Nat :=
  let s := fun (neg : Bool) => if neg then 2 ^ (f.width - 1) else 0
  match v with
  | .nan => if f.hasInf then f.top * 2 ^ (f.p - 1) + 2 ^ (f.p - 2) else 2 ^ (f.width - 1) - 1
  | .inf neg => s neg + (if f.hasInf then f.top * 2 ^ (f.p - 1) else 2 ^ (f.width - 1) - 2)
  | .fin neg m e =>
    if m = 0 then s neg
    else
      let r := f.roundParts m e sticky
      if r.1 < 2 ^ (f.p - 1) then s neg + r.1
      else
        let ef := (r.2 - f.emin + 1).toNat
        let pat := ef * 2 ^ (f.p - 1) + (r.1 - 2 ^ (f.p - 1))
        let lim := if f.hasInf then f.top * 2 ^ (f.p - 1) else 2 ^ (f.width - 1) - 1
        if lim ≤ pat then s neg + (if f.hasInf then lim else lim - 1) else s neg + pat

def FFmt.encode (f : FFmt) (v : FVal) : Nat := f.encodeS v false

/-- A binary32 pattern's value. -/
def f32 (b : Nat) : FVal := fp32.decode b
/-- The one NaN of the device (R169). -/
def nan32 : Nat := 0x7FC00000
/-- Rounds a value to binary32. -/
def rn32 (v : FVal) : Nat := fp32.encode v

/-- The integer that m · 2^e is, in units of 2^x (x ≤ e). -/
def scaled (neg : Bool) (m : Nat) (e x : Int) : Int := if neg then -((m * 2 ^ (e - x).toNat : Nat) : Int) else (m * 2 ^ (e - x).toNat : Nat)

/-- A value from a signed integer in units of 2^x; a zero takes the sign given. -/
def ofScaled (i x : Int) (zeroNeg : Bool) : FVal := if i = 0 then .fin zeroNeg 0 x else .fin (decide (i < 0)) i.natAbs x

/-- The exact sum. -/
def FVal.add (a b : FVal) : FVal :=
  match a, b with
  | .nan, _ => .nan
  | _, .nan => .nan
  | .inf x, .inf y => if x = y then .inf x else .nan
  | .inf x, _ => .inf x
  | _, .inf y => .inf y
  | .fin x m e, .fin y n f =>
    let z := min e f
    ofScaled (scaled x m e z + scaled y n f z) z (x && y)

def FVal.neg : FVal → FVal
  | .nan => .nan
  | .inf x => .inf (!x)
  | .fin x m e => .fin (!x) m e

/-- The exact product. -/
def FVal.mul (a b : FVal) : FVal :=
  match a, b with
  | .nan, _ => .nan
  | _, .nan => .nan
  | .inf x, .inf y => .inf (x != y)
  | .inf x, .fin y n _ => if n = 0 then .nan else .inf (x != y)
  | .fin x m _, .inf y => if m = 0 then .nan else .inf (x != y)
  | .fin x m e, .fin y n f => .fin (x != y) (m * n) (e + f)

/-- The quotient rounded to a format: 64 more bits than the format needs, and what is cut noted. -/
def FFmt.div (f : FFmt) (a b : FVal) : Nat :=
  match a, b with
  | .nan, _ => f.encode .nan
  | _, .nan => f.encode .nan
  | .inf _, .inf _ => f.encode .nan
  | .inf x, .fin y _ _ => f.encode (.inf (x != y))
  | .fin x _ _, .inf y => f.encode (.fin (x != y) 0 0)
  | .fin x m e, .fin y n g =>
    if n = 0 then (if m = 0 then f.encode .nan else f.encode (.inf (x != y)))
    else if m = 0 then f.encode (.fin (x != y) 0 0)
    else
      let k := 64 + bitLen n
      let num := m * 2 ^ k
      f.encodeS (.fin (x != y) (num / n) (e - g - k)) (num % n != 0)

/-- Integer square root by binary search on bits. -/
def isqrtGo : Nat → Nat → Nat → Nat
  | 0, _, r => r
  | k + 1, n, r =>
    let t := r + 2 ^ k
    if t * t ≤ n then isqrtGo k n t else isqrtGo k n r

def isqrt (n : Nat) : Nat := isqrtGo (bitLen n / 2 + 1) n 0

/-- m · 2^e as an even-exponent square with many bits: its root and whether the root is exact. -/
def sqrtParts (m : Nat) (e : Int) : Nat × Int × Bool :=
  let k : Nat := 80 + (if e % 2 = 0 then 0 else 1)
  let n := m * 2 ^ k
  let r := isqrt n
  (r, (e - k) / 2, r * r != n)

/-- The square root rounded to a format; of a negative value NaN, of −0 itself. -/
def FFmt.sqrt (f : FFmt) (a : FVal) : Nat :=
  match a with
  | .nan => f.encode .nan
  | .inf neg => if neg then f.encode .nan else f.encode (.inf false)
  | .fin neg m e =>
    if m = 0 then f.encode (.fin neg 0 0)
    else if neg then f.encode .nan
    else let r := sqrtParts m e; f.encodeS (.fin false r.1 r.2.1) r.2.2

/-- 1 ÷ √a rounded once: √(1 ÷ a) with the quotient taken to 200 bits. -/
def FFmt.rsqrt (f : FFmt) (a : FVal) : Nat :=
  match a with
  | .nan => f.encode .nan
  | .inf neg => if neg then f.encode .nan else f.encode (.fin false 0 0)
  | .fin neg m e =>
    if m = 0 then f.encode (.inf neg)
    else if neg then f.encode .nan
    else
      let k : Nat := 200 + bitLen m
      let num := 2 ^ k
      let q := num / m
      let x : Int := -e - k
      let adj : Nat := if x % 2 = 0 then 0 else 1
      let q := q * 2 ^ adj
      let r := isqrt q
      f.encodeS (.fin false r ((x - adj) / 2)) (r * r != q || num % m != 0)

/-- Binary32 arithmetic on patterns, each result rounded once. -/
def fadd (a b : Nat) : Nat := rn32 ((f32 a).add (f32 b))
def fsub (a b : Nat) : Nat := rn32 ((f32 a).add (f32 b).neg)
def fmul (a b : Nat) : Nat := rn32 ((f32 a).mul (f32 b))
def fdiv (a b : Nat) : Nat := fp32.div (f32 a) (f32 b)
def fsqrt (a : Nat) : Nat := fp32.sqrt (f32 a)
def frsqrt (a : Nat) : Nat := fp32.rsqrt (f32 a)
/-- a × b + c rounded once. -/
def ffma (a b c : Nat) : Nat := rn32 (((f32 a).mul (f32 b)).add (f32 c))

/-- a < b; false with a NaN. -/
def FVal.lt (a b : FVal) : Bool :=
  match a, b with
  | .nan, _ => false
  | _, .nan => false
  | .inf x, .inf y => x && !y
  | .inf x, _ => x
  | _, .inf y => !y
  | .fin x m e, .fin y n f => let z := min e f; decide (scaled x m e z < scaled y n f z)

def FVal.isNan : FVal → Bool
  | .nan => true
  | _ => false

def flt (a b : Nat) : Bool := (f32 a).lt (f32 b)
def isNan32 (a : Nat) : Bool := (f32 a).isNan

/-- An integer as a value. -/
def FVal.ofInt (i : Int) : FVal := .fin (decide (i < 0)) i.natAbs 0
/-- An integer rounded to binary32. -/
def f32OfInt (i : Int) : Nat := rn32 (FVal.ofInt i)

/-- The integer nearest a finite value, ties to even; 0 for a value that is not finite. -/
def FVal.toIntRne (v : FVal) : Int :=
  match v with
  | .fin neg m e =>
    let k : Nat :=
      if 0 ≤ e then m * 2 ^ e.toNat
      else
        let sh := (-e).toNat
        let q := m / 2 ^ sh
        let r := m % 2 ^ sh
        if decide (2 ^ (sh - 1) < r) || (r == 2 ^ (sh - 1) && q % 2 == 1) then q + 1 else q
    if neg then -(k : Int) else k
  | _ => 0

/-- cos(2πm ÷ 512) rounded to nearest FP32, m from 0 to 128 (R269), computed from the definition. -/
def cosQuarter : List Nat :=
  [0x3F800000, 0x3F7FFB11, 0x3F7FEC43, 0x3F7FD397, 0x3F7FB10F, 0x3F7F84AB, 0x3F7F4E6D, 0x3F7F0E58, 0x3F7EC46D, 0x3F7E70B0, 0x3F7E1324, 0x3F7DABCC, 0x3F7D3AAC] ++
  [0x3F7CBFC9, 0x3F7C3B28, 0x3F7BACCD, 0x3F7B14BE, 0x3F7A7302, 0x3F79C79D, 0x3F791298, 0x3F7853F8, 0x3F778BC5, 0x3F76BA07, 0x3F75DEC6, 0x3F74FA0B, 0x3F740BDD] ++
  [0x3F731447, 0x3F721352, 0x3F710908, 0x3F6FF573, 0x3F6ED89E, 0x3F6DB293, 0x3F6C835E, 0x3F6B4B0C, 0x3F6A09A7, 0x3F68BF3C, 0x3F676BD8, 0x3F660F88, 0x3F64AA59] ++
  [0x3F633C5A, 0x3F61C598, 0x3F604621, 0x3F5EBE05, 0x3F5D2D53, 0x3F5B941A, 0x3F59F26A, 0x3F584853, 0x3F5695E5, 0x3F54DB31, 0x3F531849, 0x3F514D3D, 0x3F4F7A1F] ++
  [0x3F4D9F02, 0x3F4BBBF8, 0x3F49D112, 0x3F47DE65, 0x3F45E403, 0x3F43E200, 0x3F41D870, 0x3F3FC767, 0x3F3DAEF9, 0x3F3B8F3B, 0x3F396842, 0x3F373A23, 0x3F3504F3] ++
  [0x3F32C8C9, 0x3F3085BB, 0x3F2E3BDE, 0x3F2BEB4A, 0x3F299415, 0x3F273656, 0x3F24D225, 0x3F226799, 0x3F1FF6CB, 0x3F1D7FD1, 0x3F1B02C6, 0x3F187FC0, 0x3F15F6D9] ++
  [0x3F13682A, 0x3F10D3CD, 0x3F0E39DA, 0x3F0B9A6B, 0x3F08F59B, 0x3F064B82, 0x3F039C3D, 0x3F00E7E4, 0x3EFC5D27, 0x3EF6E0CB, 0x3EF15AEA, 0x3EEBCBBB, 0x3EE63375] ++
  [0x3EE0924F, 0x3EDAE880, 0x3ED53641, 0x3ECF7BCA, 0x3EC9B953, 0x3EC3EF15, 0x3EBE1D4A, 0x3EB8442A, 0x3EB263EF, 0x3EAC7CD4, 0x3EA68F12, 0x3EA09AE5, 0x3E9AA086] ++
  [0x3E94A031, 0x3E8E9A22, 0x3E888E93, 0x3E827DC0, 0x3E78CFCC, 0x3E6C9A7F, 0x3E605C13, 0x3E541501, 0x3E47C5C2, 0x3E3B6ECF, 0x3E2F10A2, 0x3E22ABB6, 0x3E164083] ++
  [0x3E09CF86, 0x3DFAB273, 0x3DE1BC2E, 0x3DC8BD36, 0x3DAFB680, 0x3D96A905, 0x3D7B2B74, 0x3D48FB30, 0x3D16C32C, 0x3CC90AB0, 0x3C490E90, 0x00000000]

/-- COS[m] of the table 0x9040:07 by the symmetries of the cosine (R269). -/
def cosine (m : Nat) : Nat :=
  if m ≤ 128 then cosQuarter.getD m 0
  else if m ≤ 256 then 2 ^ 31 + cosQuarter.getD (256 - m) 0
  else if m < 384 then 2 ^ 31 + cosQuarter.getD (m - 256) 0
  else cosQuarter.getD (512 - m) 0

end Sys2Proof.Machine
end

