-- ==== Sys2Proof/Machine/Array.lean ====
section
/-! DEFINITION. The cells of a page, its checks and codes, and the arithmetic of a step (R35 to R51, R102 to R104). -/

namespace Sys2Proof.Machine

/-! ### Cells -/

/-- The key of a word site. -/
def siteKey (row lane : Nat) : Nat := row * 256 + lane
def Page.cell (p : Page) (row lane : Nat) : Nat := (mget p.cells 0 (siteKey row lane)).toNat
/-- The value `P` − `N` of a word (R38). -/
def cellVal (c : Nat) : Int := (c % 16 : Nat) - (c / 16 % 16 : Nat)
/-- `I[1:0]`. -/
def cellIdx (c : Nat) : Nat := c / 256 % 4
def Page.val (p : Page) (row lane : Nat) : Int := cellVal (p.cell row lane)
/-- The word that holds a value with an index (R38, R47). -/
def cellOf (v : Int) (idx : Nat) : BitVec 10 :=
  BitVec.ofNat 10 (idx % 4 * 256 + (if v < 0 then (-v).toNat % 16 * 16 else v.toNat % 16))

/-- The word sites of one row, as stored. -/
def Page.rowSites (p : Page) (row : Nat) : List (Nat × Nat) :=
  (p.cells.filter fun e => decide (e.1 / 256 = row)).map fun e => (e.1 % 256, e.2.toNat)

/-- Flips one stored cell and keeps the list of wrong positions of the codewords, which leave out the check lane and the check row (R50). -/
def Page.flip (p : Page) (u : Upset) : Page :=
  let q := if 5 ≤ u.word then p else { p with errs := if p.errs.contains u then p.errs.erase u else u :: p.errs }
  if u.word < 4 ∧ u.pos < 512 then
    { q with cells := mupd q.cells 0 (siteKey u.row (64 * u.word + u.pos / 8)) fun c => c ^^^ (1 <<< (u.pos % 8)) }
  else if u.word = 4 ∧ u.pos < 512 then
    { q with cells := mupd q.cells 0 (siteKey u.row (u.pos / 2)) fun c => c ^^^ (1 <<< (8 + u.pos % 2)) }
  else if u.word = 5 then { q with chkLane := mupd q.chkLane 0 u.row fun c => c ^^^ (1 <<< (u.pos % 16)) }
  else if u.word = 6 then { q with chkRow := mupd q.chkRow 0 (u.pos / 16) fun c => c ^^^ (1 <<< (u.pos % 16)) }
  else q

/-- What the surroundings do to the cells before they are read: positions of the page's own rows and words. -/
def Page.upset (p : Page) (ups : List Upset) : Page :=
  (ups.filter fun u => decide (u.row < 256 ∧ u.word < 7 ∧
    (u.word < 5 → u.pos < 533) ∧ (u.word = 5 → u.pos < 16) ∧ (u.word = 6 → u.row = 0 ∧ u.pos < 257 * 16 ∧ (u.pos / 16 < 256 → u.pos % 16 < 10)))).foldl Page.flip p

/-- The word a lane's cells held when last written: what its code words describe. -/
def Page.trueCell (p : Page) (row lane : Nat) : Nat :=
  (p.errs.filter fun u => u.row == row).foldl (fun c u =>
    if u.word < 4 ∧ u.pos < 512 ∧ 64 * u.word + u.pos / 8 = lane then c ^^^ (1 <<< (u.pos % 8))
    else if u.word = 4 ∧ u.pos < 512 ∧ u.pos / 2 = lane then c ^^^ (1 <<< (8 + u.pos % 2)) else c) (p.cell row lane)

/-- The lane a code position belongs to; 256 for a code cell. -/
def laneOf (u : Upset) : Nat :=
  if 512 ≤ u.pos then 256 else if u.word < 4 then 64 * u.word + u.pos / 8 else u.pos / 2

/-- The positions of a lane's codeword bits at which two words differ, by their exclusive or. -/
def laneErrs (row lane x : Nat) : List Upset :=
  ((List.range 8).filter x.testBit).map (fun b => { row := row, word := lane / 64, pos := 8 * (lane % 64) + b }) ++
    ((List.range 2).filter fun b => x.testBit (8 + b)).map (fun b => { row := row, word := 4, pos := 2 * lane + b })

/-- One lane's cell of a row becomes `c`, its codewords staying those of the word last written. -/
def Page.putCell (p : Page) (row lane c : Nat) : Page :=
  { p with cells := mset p.cells 0 (siteKey row lane) (BitVec.ofNat 10 c),
           errs := p.errs.filter (fun u => !(u.row == row && decide (u.word < 5) && laneOf u == lane)) ++
             laneErrs row lane (c ^^^ p.trueCell row lane) }

/-- A lane passes from one word site to another, in every row and in the check row: the site it leaves keeps its cells, the site it takes brings its
own; the codewords go on describing the words last written (R53, R58). -/
def Page.moveLane (p : Page) (lane old new : Nat) : Page :=
  let swap := fun (p : Page) (r : Nat) (c : BitVec 10) => mset (mset p.idle 0 (r * 512 + new) 0) 0 (r * 512 + old) c
  let p := (List.range 256).foldl (fun p r =>
    { (p.putCell r lane (mget p.idle 0 (r * 512 + new)).toNat) with idle := swap p r (BitVec.ofNat 10 (p.cell r lane)) }) p
  { p with chkRow := mset p.chkRow 0 lane ((mget p.idle 0 (256 * 512 + new)).setWidth 16),
           idle := swap p 256 ((mget p.chkRow 0 lane).setWidth 10) }

/-- A row-page counts as restored (R61). -/
def Page.restore (p : Page) (rows : List Nat) : Page :=
  { p with restored := p.restored ++ rows.filter fun r => !p.restored.contains r }

/-! ### The array code (R53, R97) -/

/-- Wrong positions of one codeword. -/
def Page.wrong (p : Page) (row word : Nat) : List Upset := p.errs.filter fun u => u.row == row && u.word == word

/-- What decoding a row found. -/
structure Decoded where
  page : Page
  corrected : Bool
  lanes : List Nat
  uncorrectable : Bool
  fresh : Nat
deriving DecidableEq, Repr

/-- One codeword: up to two wrong bits are corrected, three are uncorrectable; of four or more the spec states no outcome, so a free
value decides between detection, no finding and a wrong correction at free positions (R53). -/
def decodeWord (d : Decoded) (row word : Nat) : Decoded :=
  let w := d.page.wrong row word
  if w.isEmpty then d
  else if w.length ≤ 2 then
    { d with page := w.foldl Page.flip d.page, corrected := true, lanes := d.lanes ++ w.map laneOf }
  else if w.length = 3 then { d with uncorrectable := true }
  else
    let f := (Config.freeWord d.fresh).toNat
    if f % 3 = 0 then { d with uncorrectable := true, fresh := d.fresh + 1 }
    else if f % 3 = 1 then { d with fresh := d.fresh + 1 }
    else
      let us : List Upset := [{ row := row, word := word, pos := f / 3 % 533 }, { row := row, word := word, pos := f / 2048 % 533 }]
      { d with page := us.foldl Page.flip d.page, corrected := true, lanes := d.lanes ++ us.map laneOf, fresh := d.fresh + 1 }

/-- The five codewords of a row, read and corrected (R53, R54). -/
def decodeRow (p : Page) (fresh row : Nat) : Decoded :=
  (List.range 5).foldl (fun d w => decodeWord d row w)
    { page := p.restore [row], corrected := false, lanes := [], uncorrectable := false, fresh := fresh }

/-- Rows that hold a wrong position in a codeword: the only ones a decoding can change. -/
def Page.suspects (p : Page) : List Nat := (List.range 256).filter fun r => p.errs.any fun u => u.row == r && decide (u.word < 5)

/-! ### Check lane and check row (R49, R50) -/

/-- The residue modulo 127. -/
def mod127 (i : Int) : Nat := (i % 127).toNat

/-- The check-lane word of a physical row, from the cells (R49). -/
def Page.laneResidue (p : Page) (row : Nat) : BitVec 16 :=
  if p.sparse24 then
    let g := row / 2
    let sites := p.rowSites (2 * g) ++ p.rowSites (2 * g + 1)
    let r := fun j => mod127 ((sites.filter fun e => cellIdx e.2 == j).foldl (fun a e => a + cellVal e.2) 0)
    BitVec.ofNat 16 (r (2 * (row % 2)) + 256 * r (2 * (row % 2) + 1))
  else BitVec.ofNat 16 (mod127 ((p.rowSites row).foldl (fun a e => a + cellVal e.2) 0))

/-- Sums by key of a list of contributions. -/
def sumsBy (xs : List (Nat × Int)) : Map Int := xs.foldl (fun m e => mset m 0 e.1 (mget m 0 e.1 + e.2)) []

/-- The check row of the lanes' sums; key 256 is the check lane's site (R50). -/
def checkRow (sums : Map Int) : Map (BitVec 16) :=
  let lanes := sums.foldl (fun m e => mset m 0 e.1 (BitVec.ofNat 16 (mod127 e.2))) []
  mset lanes 0 256 (BitVec.ofNat 16 (mod127 (sums.foldl (fun a e => a + e.2) 0)))

/-- The check row from the cells (R50). -/
def Page.rowResidue (p : Page) : Map (BitVec 16) := checkRow (sumsBy (p.cells.map fun e => (e.1 % 256, cellVal e.2.toNat)))

/-- Recomputes every check word from the weights as they stand (R54). -/
def Page.recheck (p : Page) : Page :=
  { p with chkLane := (List.range 256).foldl (fun m r => mset m 0 r (p.laneResidue r)) [], chkRow := p.rowResidue }

/-- Are the check words those of the weights? -/
def Page.checksOk (p : Page) : Bool :=
  p.chkRow == p.rowResidue && (List.range 256).all fun r => mget p.chkLane 0 r == p.laneResidue r

/-! ### Pages as dense weights, and their CRC (R86) -/

/-- Logical rows of a page (R47, R86). -/
def Page.rows (p : Page) : Nat := if p.sparse24 then 512 else 256

/-- The dense logical weight at a logical row and lane. -/
def Page.weight (p : Page) (j lane : Nat) : Int :=
  if p.sparse24 then
    [2 * (j / 4), 2 * (j / 4) + 1].foldl (fun a q =>
      let c := p.cell q lane
      if cellIdx c = j % 4 then a + cellVal c else a) 0
  else p.val j lane

/-- The byte string whose CRC is the page's (R86). -/
def Page.image (p : Page) : List Byte :=
  ((List.range p.rows).flatMap fun j => (List.range 256).map fun l => BitVec.ofInt 8 (p.weight j l)) ++
    [BitVec.ofNat 8 (p.wfmt % 8 + (if p.sparse24 then 8 else 0))]

/-- The page CRC. -/
def Page.crcNow (p : Page) : Word := BitVec.ofNat 32 (crc32c p.image)

/-- Bytes into a CRC register. -/
def crcBytes (c : Nat) (bs : List Byte) : Nat := bs.foldl crcByte c

/-- The bytes of logical rows in a page's byte string (R86). -/
def rowsImage (rows : List (List Int)) : List Byte := rows.flatMap fun r => r.map fun v => BitVec.ofInt 8 v

/-- The page CRC from the register over all its rows and its format (R86). -/
def crcDone (reg wfmt : Nat) (sparse : Bool) : Word :=
  BitVec.ofNat 32 (crcByte reg (BitVec.ofNat 8 (wfmt % 8 + (if sparse then 8 else 0))) ^^^ 0xFFFFFFFF)

/-- Largest magnitude of a format: W4 and W8 slices 15, W2 3, WT 1 (Table 2.2, R90). -/
def fmtMax (wfmt : Nat) : Int := if wfmt = 2 then 3 else if wfmt = 3 then 1 else 15

/-! ### Input vectors (Table 2.3) -/

/-- Bits of an element of an input format. -/
def ifmtBits (f : Nat) : Nat := 8 >>> (f / 2)
/-- Is the format two's complement? -/
def ifmtSigned (f : Nat) : Bool := f % 2 == 1

/-- Unpacks `n` elements of an input format, lower rows in lower bits (R41). -/
def unpackInput (f n : Nat) (bs : List Byte) : List Nat :=
  let b := ifmtBits f
  (List.range n).map fun i => (bs.getD (i * b / 8) 0).toNat / 2 ^ (i * b % 8) % 2 ^ b

/-- x' of R157: the element shifted right by σ, arithmetically for a two's-complement format. -/
def shiftInput (f sigma x : Nat) : Nat :=
  let b := ifmtBits f
  if ifmtSigned f ∧ 2 ^ (b - 1) ≤ x then (2 ^ b - 1) - ((2 ^ b - 1 - x) >>> sigma) else x >>> sigma

/-- Groups of at most 64, in order; one empty group where nothing is active (R43). -/
def chunk64 (fuel : Nat) (xs : List Nat) : List (List Nat) :=
  match fuel with
  | 0 => [[]]
  | fuel + 1 => if xs.length ≤ 64 then [xs] else xs.take 64 :: chunk64 fuel (xs.drop 64)

/-- Active physical rows of a plane (R43, R48). -/
def activeRows (p : Page) (x : List Nat) (k b : Nat) : List Nat :=
  let on := fun j => decide (j < k) && (x.getD j 0).testBit b
  if p.sparse24 then
    (List.range 256).filter fun r => (List.range 4).any fun i => on (4 * (r / 2) + i)
  else (List.range 256).filter on

/-- Active physical lanes of a plane of a reverse product (R102). -/
def activeLanes (p : Page) (y : List Nat) (k b : Nat) : List Nat :=
  (List.range 256).filter fun l => let o := if p.wfmt = 1 then l / 2 else l; decide (o < k) && (y.getD o 0).testBit b

/-- The groups of a plane of a product. -/
def planeGroups (rev : Bool) (p : Page) (x : List Nat) (k b : Nat) : List (List Nat) :=
  chunk64 8 (if rev then activeLanes p x k b else activeRows p x k b)

/-- What a step senses: the values of its outputs and whether its check passes. -/
structure Sensed where
  vals : Map Int
  pass : Bool
deriving DecidableEq, Repr

/-- A step with an empty group: every sum is 0 and it passes, whatever disturbs it (R43, R51, R104). -/
def Sensed.empty : Sensed := { vals := [], pass := true }

/-- A forward step (R44, R47, R51): lane sums through the input select, disturbed as the surroundings say (lane 256: the check
lane), and the check. -/
def forwardStep (p : Page) (x : List Nat) (k b : Nat) (group : List Nat) (dist : List Disturb) : Sensed :=
  if group.isEmpty then Sensed.empty else
  let on := fun j => decide (j < k) && (x.getD j 0).testBit b
  let fed := p.cells.filter fun e =>
    group.contains (e.1 / 256) && (!p.sparse24 || on (4 * (e.1 / 256 / 2) + cellIdx e.2.toNat))
  let sums := sumsBy ((fed.map fun e => (e.1 % 256, cellVal e.2.toNat)) ++
    (dist.filter fun d => decide (d.lane < 256)).map fun d => (d.lane, d.delta))
  let chk := fun r =>
    let w := (mget p.chkLane 0 r).toNat
    if p.sparse24 then
      let j := 4 * (r / 2) + 2 * (r % 2)
      (if on j then w % 128 else 0) + (if on (j + 1) then w / 256 % 128 else 0)
    else w % 128
  let c : Int := group.foldl (fun a r => a + (chk r : Nat)) 0 + (dist.filter fun d => decide (d.lane = 256)).foldl (fun a d => a + d.delta) 0
  { vals := sums, pass := mod127 c == mod127 (sums.foldl (fun a e => a + e.2) 0) }

/-- The lane weight m(l) of a reverse product (R102). -/
def laneWeight (p : Page) (l : Nat) : Int := if p.wfmt = 1 ∧ l % 2 = 1 then 16 else 1

/-- A reverse step (R102, R104): sums by logical row over the lanes of the group. -/
def reverseStep (p : Page) (group : List Nat) (dist : List Disturb) : Sensed :=
  if group.isEmpty then Sensed.empty else
  let fed := p.cells.filter fun e => group.contains (e.1 % 256)
  let row := fun (e : Nat × BitVec 10) => if p.sparse24 then 4 * (e.1 / 256 / 2) + cellIdx e.2.toNat else e.1 / 256
  let sums := sumsBy ((fed.map fun e => (row e, laneWeight p (e.1 % 256) * cellVal e.2.toNat)) ++
    (dist.filter fun d => decide (d.lane < 512)).map fun d => (d.lane, d.delta))
  let c : Int := group.foldl (fun a l => a + laneWeight p l * ((mget p.chkRow 0 l).toNat % 128 : Nat)) 0
  { vals := sums, pass := mod127 c == mod127 (sums.foldl (fun a e => a + e.2) 0) }

/-- The values that enter the accumulators: W8 pairs combined in a forward step (R40, R45). -/
def combine (w8 rev : Bool) (vals : Map Int) : Map Int :=
  if w8 && !rev then sumsBy (vals.map fun e => (e.1 / 2, if e.1 % 2 = 1 then 16 * e.2 else e.2)) else vals

/-- Does a value lie outside 32-bit two's complement? -/
def over32 (v : Int) : Bool := decide (v < -2147483648 ∨ 2147483647 < v)

/-- Adds a plane's values to the accumulators; none when an addition overflows (R45, R157). -/
def accumulate (acc : Map Int) (neg : Bool) (b : Nat) (vals : Map Int) : Option (Map Int) :=
  vals.foldl (fun a e =>
    match a with
    | none => none
    | some m =>
      let v := mget m 0 e.1 + (if neg then -(e.2 * 2 ^ b) else e.2 * 2 ^ b)
      if over32 v then none else some (mset m 0 e.1 v)) (some acc)

/-- Halves every accumulator, rounding toward minus infinity (R157). -/
def halve (m : Map Int) : Map Int := (m.map fun (e : Nat × Int) => (e.1, e.2 / 2)).filter fun (e : Nat × Int) => decide (e.2 ≠ 0)

end Sys2Proof.Machine
end

