-- ==== Sys2Proof/Machine/Regs.lean ====
section
/-! DEFINITION. What a read of a core's register space and of a macro's register block returns (R66 to R74, R112 to R116, R127 to R130,
R177). -/

namespace Sys2Proof.Machine

/-- A Boolean as a bit. -/
def bit (b : Bool) : Nat := if b then 1 else 0

/-- `RATE32` of a macro: forced, or its die is on the 32 ms interval (R60). -/
def State.rate32 (s : State) (c : Nat) (m : Macro) : Bool := m.cfg.force32 || s.spares.rate32.contains (coreDie c)

/-- The physical page that a page number names (R87). -/
def Macro.livePage (m : Macro) (n : Nat) : Nat := if m.cfg.rewritable then n + (if m.liveB then 32 else 0) else n

/-- The macro waits for the page switch of the product at the front of its queue (R36). -/
def Macro.switching (m : Macro) : Bool :=
  match m.queue, m.run with
  | .product i :: _, some r => !r.started && m.active != m.livePage i.page
  | _, _ => false

/-- `STATE` of a macro on which no product runs: a page write, a calibration, or idle. -/
def Macro.idleStatus (m : Macro) : Nat :=
  if !m.writing.isEmpty then 6 else if m.bankA.calibrating != .no || m.bankB.calibrating != .no then 5 else 0

/-- `STATE` of `MAC_STATUS` (Table 2.15), from the work in hand; a refresh operation is a whole command, over when it is. -/
def Macro.status (m : Macro) : Nat :=
  if m.retired && !m.cfg.enable then 7
  else if m.bankA.calibrating == .pause || m.bankB.calibrating == .pause then 5
  else if m.switching then 2
  else match m.run with
    | some r => if r.fail == 2 then 4 else if r.started && !r.finished then 1 else m.idleStatus
    | none => m.idleStatus

/-- One lane map register (Table 2.19). -/
def MacConfig.laneMap (c : MacConfig) (i : Nat) : Nat := mget c.lanes 0 i

/-- Two valid entries of one bank name the same logical lane (R59). -/
def MacConfig.clash (g : MacConfig) : Bool :=
  [0, 4].any fun b =>
    let lanes := ((List.range 4).map fun n => g.laneMap (b + n)).filter fun v => v.testBit 31
    lanes.any fun v => decide (1 < (lanes.filter fun w => w % 256 == v % 256).length)

/-- The entries of a bank's lane maps that serve a lane. -/
def servedBy (lanes : Map Nat) (bank : Bool) (lane : Nat) : List Nat :=
  ((List.range 4).map ((if bank then 4 else 0) + ·)).filter fun i => (mget lanes 0 i).testBit 31 && mget lanes 0 i % 256 == lane

/-- Lane maps without an entry of the bank for a lane. -/
def dropLane (lanes : Map Nat) (bank : Bool) (lane : Nat) : Map Nat := (servedBy lanes bank lane).foldl (fun q i => mset q 0 i 0) lanes

/-- `MAC_PAGE_ATTRn` (Table 2.20). -/
def Page.attr (p : Page) : Nat := bit p.valid * 2 ^ 31 + bit p.sparse24 * 2 ^ 30 + p.wfmt % 8 * 2 ^ 27 + p.gen % 256 * 2 ^ 16

/-- The page of a macro. -/
def Macro.page (m : Macro) (i : Nat) : Page := mget m.pages Page.reset i

/-- Sixteen shadow states from a page number (Table 3.11). -/
def Macro.shadows (m : Macro) (from0 : Nat) : Nat :=
  (List.range 16).foldl (fun a i => a + mget m.shadow 0 (from0 + i) % 4 * 4 ^ i) 0

/-- Thirty-two lost bits from a physical page (R116). -/
def Macro.losts (m : Macro) (from0 : Nat) : Nat := (List.range 32).foldl (fun a i => a + bit (m.page (from0 + i)).lost * 2 ^ i) 0

/-- A bank is overdue once it has been due for 100 ms (R94). -/
def Bank.overdue (b : Bank) (tick : Nat) : Bool := b.due && decide (b.dueTick + 416667 ≤ tick)

/-- A read of a macro's register block; `0` where the block has no register. `MAC_CONFIG` and the lane maps answer the copies in force, `MAC_REFRESH_STAT`
the bank of the last refresh operation (DESIGN CHOICE, log entry 91). -/
def macroReg (s : State) (c : Nat) (m : Macro) (off : Nat) : Nat :=
  let sweep := if m.sweepB then m.bankB else m.bankA
  if off = 0x000 then bit m.cfg.force32 * 4 + bit m.cfg.rewritable * 2 + bit m.cfg.enable
  else if off = 0x008 then m.status * 2 ^ 28 + m.active % 64 * 2 ^ 22 + bit (s.rate32 c m) * 2 ^ 21 + bit m.mapReject * 2 ^ 20
  else if off = 0x00C then
    m.stats.repeats * 2 ^ 16 + m.stats.scrubs * 2 ^ 8 + bit m.stats.uncorr * 8 + bit m.stats.persist * 4 + bit m.stats.corrected * 2
  else if off = 0x010 then
    bit (s.rate32 c m) * 2 ^ 31 + sweep.page % 32 * 2 ^ 22 + bit m.sweepB * 2 ^ 21 + sweep.row % 512 * 2 ^ 12 + sweep.skipped
  else if off = 0x014 then m.stats.steps % 2 ^ 32
  else if off = 0x018 then m.stats.stepsHi
  else if 0x020 ≤ off ∧ off < 0x030 then m.cfg.laneMap ((off - 0x020) / 4)
  else if 0x030 ≤ off ∧ off < 0x040 then m.cfg.laneMap (4 + (off - 0x030) / 4)
  else if off = 0x040 then
    bit m.stats.rejValid * 2 ^ 31 + m.stats.rejPage % 64 * 2 ^ 25 + m.stats.rejRow % 512 * 2 ^ 16 + m.stats.rejLane % 256 * 2 ^ 8 +
      m.stats.rejDetail % 256
  else if off = 0x044 then bit m.liveB * 2 ^ 31 + bit m.armed * 2 ^ 30 + m.stats.swaps
  else if off = 0x048 then m.shadows 0
  else if off = 0x04C then m.shadows 16
  else if off = 0x050 then
    m.stats.cals * 2 ^ 16 + m.stats.pauses * 2 ^ 8 + bit (m.bankB.calibrating != .no) * 8 + bit (m.bankA.calibrating != .no) * 4 +
      bit (m.bankB.overdue s.hub.tick) * 2 + bit (m.bankA.overdue s.hub.tick)
  else if off = 0x054 then m.stats.clamps * 2 ^ 16 + m.stats.verifyRewrites * 2 ^ 8
  else if off = 0x058 then m.stats.patrolCorrected * 2 ^ 16 + m.stats.patrolLost * 2 ^ 8 + min m.bankA.patrols m.bankB.patrols % 256
  else if off = 0x05C then m.losts 0
  else if off = 0x060 then m.losts 32
  else if off = 0x064 then m.sigma % 32 * 2 ^ 27 + m.lastSigma % 32 * 2 ^ 22 + m.stats.rescales
  else if 0x100 ≤ off ∧ off < 0x200 then (m.page ((off - 0x100) / 4)).attr
  else 0

/-- Offsets at which the macro's block has a register (Tables 2.12, 3.8, R177). -/
def macroRegOk (off : Nat) : Bool :=
  off % 4 == 0 && (decide (off < 0x1C) || decide (0x20 ≤ off ∧ off < 0x68) || decide (0x100 ≤ off ∧ off < 0x200))

/-- Offsets at which a core's register space has a register (Table 4.5). -/
def coreRegOk (off : Nat) : Bool :=
  off % 4 == 0 && (decide (off < 0x40) || decide (0x44 ≤ off ∧ off ≤ 0x80) || decide (0x1000 ≤ off ∧ off < 0x1400) ||
    (decide (0x4000 ≤ off ∧ off < 0x6400) && macroRegOk ((off - 0x4000) % 0x200)) ||
    (decide (0x8000 ≤ off ∧ off < 0xA000) && macroRegOk ((off - 0x8000) % 0x200)))

/-- `CORE_ID` once the device has left power-on reset, in which its fields read 0 (Table 4.7). -/
def coreId (c : Nat) (k : Core) : Nat :=
  k.dieLog % 16 * 2 ^ 28 + k.x % 16 * 2 ^ 24 + k.y % 16 * 2 ^ 20 + coreDie c % 16 * 2 ^ 16 + c % 17 * 2 ^ 11 + c % 272 / 17 * 2 ^ 7

/-- `STATE` of `CORE_STATUS` (Table 4.7): clearing while the job or a change of hands clears the core's die (R149, R376), asleep on a die of no partition
(R492), else what the sequencer does. -/
def State.coreState (s : State) (c : Nat) : Nat :=
  let d := coreDie c
  if s.parts.any fun e => e.2.clearing.contains d then 7
  else match s.dieOwner d with
    | none => if s.hub.phase = .running then 8 else (s.core c).state
    | some p => match (s.part p).job with
      | some j => if j.state = 4 ∧ !j.cleared then 7 else (s.core c).state
      | none => (s.core c).state

/-- `CORE_PSUM_BUSY` (R122). -/
def Core.busyBits (k : Core) : Nat := (List.range 16).foldl (fun a i => a + bit (decide (mget k.busy 0 i ≠ 0)) * 2 ^ i) 0

/-- One word of a handle entry (Table 4.4). -/
def Handle.word (h : Handle) (i : Nat) : Nat :=
  if i = 0 then h.base % 2 ^ 32
  else if i = 1 then h.win % 256 * 2 ^ 16 + h.base / 2 ^ 32 % 2 ^ 16
  else if i = 2 then h.size % 2 ^ 32
  else bit h.valid * 2 ^ 31 + h.kind % 8 * 2 ^ 28

/-- Handle entry `n` of a core. -/
def CoreConfig.handle (g : CoreConfig) (n : Nat) : Handle := mget g.handles Handle.reset n

/-- A read of a core's register space (Table 4.5): write-only registers and empty offsets read 0, the registers that a commit stages answer the copies in
force (DESIGN CHOICE, log entry 91). -/
def coreReg (s : State) (c off : Nat) : Nat :=
  let k := s.core c
  if off = 0x00 then (if s.hub.phase = .porst then 0 else coreId c k)
  else if off = 0x04 then 0x40000
  else if off = 0x08 then 0x20000
  else if off = 0x0C then 0x10000
  else if off = 0x10 then 32 * 2 ^ 26 + 16 * 2 ^ 21 + 8 * 2 ^ 17 + 64 * 2 ^ 10 + 16 * 2 ^ 4
  else if off = 0x14 then 0x40 * 2 ^ 24 + 0x12 * 2 ^ 16 + 0x10 * 2 ^ 8
  else if off = 0x18 then s.coreState c % 16 * 2 ^ 28 + k.pc % 2 ^ 16
  else if off = 0x1C then bit k.faultValid * 2 ^ 31 + k.faultPc % 2 ^ 15 * 2 ^ 16 + k.faultStatus % 2 ^ 16
  else if off = 0x20 then k.cfg.rtlen0 % 2 ^ 32
  else if off = 0x24 then k.cfg.rtlen1 % 2 ^ 32
  else if off = 0x28 then k.busyBits
  else if off = 0x2C then (if k.ran then (Config.conflicts c s.hub.tick s.fresh).toNat else 0)
  else if 0x30 ≤ off ∧ off < 0x40 then
    (List.range 4).foldl (fun a j => a + k.cfg.macroMap.getD ((off - 0x30) / 4 * 4 + j) 0 % 32 * 256 ^ j) 0
  else if 0x44 ≤ off ∧ off < 0x80 then mget k.tokens 0 ((off - 0x40) / 4)
  else if 0x1000 ≤ off ∧ off < 0x1400 then (k.cfg.handle ((off - 0x1000) / 16)).word (off / 4 % 4)
  else if 0x4000 ≤ off ∧ off < 0x6400 then
    macroReg s c (s.mac (macKey c ((off - 0x4000) / 0x200))) ((off - 0x4000) % 0x200)
  else if 0x8000 ≤ off ∧ off < 0xA000 then macroReg s c (s.mac (s.macroOf c ((off - 0x8000) / 0x200))) ((off - 0x8000) % 0x200)
  else 0

/-- The physical macro whose block an offset of a core's register space falls in, with the offset in the block. -/
def macroAtReg (s : State) (c off : Nat) : Option (Nat × Nat) :=
  if 0x4000 ≤ off ∧ off < 0x6400 then some (macKey c ((off - 0x4000) / 0x200), (off - 0x4000) % 0x200)
  else if 0x8000 ≤ off ∧ off < 0xA000 then some (s.macroOf c ((off - 0x8000) / 0x200), (off - 0x8000) % 0x200)
  else none

/-- The site that serves a logical lane of a bank under lane maps: a spare, 256 and up, or its own (R58). -/
def laneSite (lanes : Map Nat) (bank : Bool) (lane : Nat) : Nat :=
  match (List.range 4).find? fun n =>
    (mget lanes 0 ((if bank then 4 else 0) + n)).testBit 31 && mget lanes 0 ((if bank then 4 else 0) + n) % 256 == lane with
  | some n => 256 + n
  | none => lane

/-- A page under new lane maps: the lanes that leave a spare return to their own sites, then the lanes that a spare now serves pass to it. -/
def Page.remap (p : Page) (old new : Map Nat) (bank : Bool) : Page :=
  let moved := (List.range 256).filter fun l => laneSite old bank l != laneSite new bank l
  let p := (moved.filter fun l => decide (256 ≤ laneSite old bank l)).foldl (fun p l => p.moveLane l (laneSite old bank l) l) p
  (moved.filter fun l => decide (256 ≤ laneSite new bank l)).foldl (fun p l => p.moveLane l l (laneSite new bank l)) p

/-- Every page of a macro under new lane maps. -/
def Macro.remap (m : Macro) (lanes : Map Nat) : Macro :=
  if lanes = m.cfg.lanes then m
  else { m with pages := m.pages.map fun (e : Nat × Page) => (e.1, e.2.remap m.cfg.lanes lanes (decide (32 ≤ e.1))) }

/-- The configuration and lane maps that a commit took act together (R58, R68). -/
def Macro.applyCommit (m : Macro) : Macro :=
  match m.committed with
  | none => m
  | some g => { m.remap g.lanes with cfg := g, committed := none, retired := !g.enable }

/-- The core's partition is at a job boundary: no job of it runs, stops or clears. -/
def State.atBoundary (s : State) (c : Nat) : Bool := match (s.core c).part with | none => true | some p => decide (s.jobState p ≤ 1)

/-- A read of `MAC_STEP_COUNT_LO` latches the high half (R72). -/
def State.latchSteps (s : State) (k : Nat) : State :=
  s.updMac k fun m => { m with stats := { m.stats with stepsHi := m.stats.steps / 2 ^ 32 % 2 ^ 32 } }

end Sys2Proof.Machine
end

