-- ==== Sys2Proof/Machine/Operands.lean ====
section
/-! DEFINITION. Tile instructions as the sequencer fetches them, their common header, their operands, and the issue every class shares
(R117, R124 to R132, R145, R148). -/

namespace Sys2Proof.Machine

/-- What each entry of a partition's `counters` counts. -/
abbrev cJobsOk : Nat := 1
abbrev cJobsBad : Nat := 2
abbrev cRestarts : Nat := 3
abbrev cHits : Nat := 4
abbrev cMisses : Nat := 5
abbrev cRepeats : Nat := 6
abbrev cLongsum : Nat := 7
/-- 0x9020:01 to :05 are entries 8 to 12, 0x9030:01 to :04 entries 13 to 16, 0x9050:01 to :07 entries 17 to 23. -/
abbrev cB4Groups : Nat := 8
abbrev cB4Clips : Nat := 9
abbrev cZrHeaders : Nat := 10
abbrev cZrEscapes : Nat := 11
abbrev cWideBytes : Nat := 12
abbrev cAudits : Nat := 13
abbrev cMisses9030 : Nat := 14
abbrev cRelaxed : Nat := 15
abbrev cExceeded : Nat := 16
abbrev cNewtTile : Nat := 17
abbrev cVerified : Nat := 18
abbrev cTos8Low : Nat := 19
abbrev cTos8High : Nat := 20
abbrev cFrames : Nat := 21
abbrev cZeroFrames : Nat := 22
abbrev cGenerated : Nat := 23
/-- The largest U64. -/
abbrev u64Max : Nat := 2 ^ 64 - 1

/-- Adds to a partition's counter, saturating at `max`. -/
def State.count (s : State) (p key n max : Nat) : State :=
  s.updPart p fun q => { q with counters := mset q.counters 0 key (satAdd max (mget q.counters 0 key) n) }

/-! ### Scalar registers -/

/-- s0 reads 0 (R131). -/
def Core.reg (k : Core) (r : Nat) : Word := if r = 0 then 0 else mget k.regs 0 r
/-- Writes to s0 are discarded. -/
def Core.setReg (k : Core) (r : Nat) (v : Word) : Core := if r = 0 then k else { k with regs := mset k.regs 0 r v }
def State.setReg (s : State) (c r : Nat) (v : Word) : State := s.updCore c fun k => k.setReg r v

/-! ### Fields of the common header (Table 4.9) -/

def fOpcode (w : Nat) : Nat := field w 127 120
def fSig (w : Nat) : Nat := field w 119 116
def fGuard (w : Nat) : Nat := field w 115 114
def fGreg (w : Nat) : Nat := field w 113 109
def fXA (w : Nat) : Nat := field w 108 104
def fXB (w : Nat) : Nat := field w 103 99
/-- `FUNC` of a scalar instruction (Table 4.16). -/
def fFunc (w : Nat) : Nat := field w 98 93

/-- Opcodes of Table 4.10. -/
def opcodeOk (op : Nat) : Bool := [0x10, 0x11, 0x12, 0x13, 0x20, 0x30, 0x31, 0x40, 0x41, 0x42, 0x50, 0x51, 0x60].contains op
/-- Functions of Table 4.17. -/
def funcOk (f : Nat) : Bool :=
  decide (f ≤ 0x0D) || decide (0x10 ≤ f ∧ f ≤ 0x12) || decide (0x18 ≤ f ∧ f ≤ 0x1D) || decide (0x20 ≤ f ∧ f ≤ 0x22)
/-- Is the instruction defined (0x0101 otherwise)? -/
def insDefined (w : Nat) : Bool := opcodeOk (fOpcode w) && (fOpcode w != 0x60 || funcOk (fFunc w))

/-- The effective offset: field plus index register, modulo 2^32 (R125). -/
def effOff (k : Core) (off x : Nat) : Nat := (off + (k.reg x).toNat) % 2 ^ 32

/-! ### Operands in memory -/

/-- Base and size of a local memory of a core by `KIND` (R125). -/
def localMem (c kind : Nat) : Nat × Nat :=
  if kind = 0 then (coreBase c, 0x40000) else if kind = 1 then (coreBase c + 0x40000, 0x20000)
  else if kind = 2 then (coreBase c + 0x60000, 0x10000) else (storeBase (coreDie c), 2 ^ 26)

/-- The places of `n` bytes of a local memory from an offset, going round at its end (R125). -/
def localExtents (base size fuel off n : Nat) : List (Nat × Nat) :=
  match fuel with
  | 0 => []
  | fuel + 1 => if n = 0 then [] else
    let a := off % size
    let k := min n (size - a)
    (base + a, k) :: localExtents base size fuel (a + k) (n - k)

/-- The job's legacy cached mode (R298). -/
def State.cached (s : State) (p : Nat) : Bool := match (s.part p).job with | none => false | some j => j.cached

/-- The places of an operand's bytes, `n` from `o.off + extra`: local memories (R125) or the window (R316). -/
def State.extents (s : State) (c : Nat) (o : Operand) (n kind : Nat) : Except Nat (List (Nat × Nat)) :=
  if o.h.kind ≤ 3 then
    let bs := localMem c o.h.kind
    .ok (localExtents bs.1 bs.2 (n / bs.2 + 2) (o.h.base + o.off) n)
  else
    match (s.core c).part with
    | none => .error 0x0401
    | some p => s.windowAt (coreDie c) p o.h.win (o.h.base + o.off) n kind

/-- One line of the die store used as a cache (R298, R299): its bytes, filled from home memory on a miss. -/
def State.cacheLine (s : State) (p die line : Nat) : Except Nat (List Byte × State) :=
  let key := die * 16384 + line / 256 % 16384
  let ways := mget (s.part p).cacheLines [] key
  match ways.find? fun w => w.2 == line with
  | some w =>
    .ok (w.1, (s.updPart p fun q =>
      { q with cacheLines := mset q.cacheLines [] key (w :: ways.filter fun v => v.2 != line) }).count p cHits 1 (2 ^ 64 - 1))
  | none =>
    match s.mem.badAt line 256 with
    | some e => .error e
    | none =>
      let bs := s.mem.readN line 256
      .ok (bs, (s.updPart p fun q => { q with cacheLines := mset q.cacheLines [] key ((bs, line) :: ways.take 15) }).count p cMisses 1 (2 ^ 64 - 1))

/-- A cached read of `n` bytes at an address, line by line. -/
def State.cachedRead (s : State) (p die fuel a n : Nat) : Except Nat (List Byte × State) :=
  match fuel with
  | 0 => .ok ([], s)
  | fuel + 1 =>
    if n = 0 then .ok ([], s)
    else
      match s.cacheLine p die (a / 256 * 256) with
      | .error e => .error e
      | .ok (bs, s) =>
        let k := min n (256 - a % 256)
        match State.cachedRead s p die fuel (a + k) (n - k) with
        | .error e => .error e
        | .ok (more, s) => .ok ((bs.drop (a % 256)).take k ++ more, s)

/-- Cached reads of extents in order. -/
def State.cachedExtents (s : State) (p die : Nat) : List (Nat × Nat) → Except Nat (List Byte × State)
  | [] => .ok ([], s)
  | (a, n) :: rest =>
    match s.cachedRead p die (n / 256 + 2) a n with
    | .error e => .error e
    | .ok (bs, s) =>
      match State.cachedExtents s p die rest with
      | .error e => .error e
      | .ok (more, s) => .ok (bs ++ more, s)

/-- The first address of some extents. -/
def firstAddr (ext : List (Nat × Nat)) : Nat := (ext.headD (0, 0)).1

/-- An operand of the die store or a window is reached in beats over the mesh; a core's own memories are not (R425). -/
def Operand.far (o : Operand) : Bool := decide (3 ≤ o.h.kind)

/-- Bytes read from afar come to the reader as beats with their checks; one that disagrees faults with 0x0308 (R425, R426). -/
def State.receive (s : State) (far : Bool) (ext : List (Nat × Nat)) (r : Except Nat (List Byte × State)) : Except Nat (List Byte × State) :=
  match r with
  | .error e => .error e
  | .ok (bs, t) => if !far then .ok (bs, t) else match s.arrived (firstAddr ext) bs with | .error e => .error e | .ok got => .ok (got, t.crossed)

/-- Reads `n` bytes of an operand; through the die's cache in cached mode (R298). -/
def State.readOp (s : State) (c : Nat) (o : Operand) (n : Nat) : Except Nat (List Byte × State) :=
  match s.extents c o n rRD with
  | .error e => .error e
  | .ok ext =>
    s.receive o.far ext <|
      match o.h.kind == 4, (s.core c).part with
      | true, some p =>
        if s.cached p then s.cachedExtents p (coreDie c) ext
        else match readExtents s.mem ext with | .error e => .error e | .ok bs => .ok (bs, s)
      | _, _ => match readExtents s.mem ext with | .error e => .error e | .ok bs => .ok (bs, s)

/-- The writing die's cached lines take the bytes written through (R298). -/
def State.writeThrough (s : State) (p die a : Nat) (bs : List Byte) : State :=
  s.updPart p fun q =>
    { q with cacheLines := q.cacheLines.map fun (e : Nat × List (List Byte × Nat)) =>
        if e.1 / 16384 = die then
          (e.1, e.2.map fun w => ((List.range 256).map fun i =>
            if a ≤ w.2 + i ∧ w.2 + i < a + bs.length then bs.getD (w.2 + i - a) 0 else w.1.getD i 0, w.2))
        else e }

/-- Writes through the lines of several extents. -/
def State.writeThroughAll (s : State) (p die : Nat) : List (Nat × Nat) → List Byte → State
  | [], _ => s
  | (a, n) :: rest, bs => State.writeThroughAll (s.writeThrough p die a (bs.take n)) p die rest (bs.drop n)

/-- Notes the DRAM that a job writes (R374). -/
def State.noteWrite (s : State) (p : Nat) (ext : List (Nat × Nat)) : State :=
  let dram := ext.filter fun e => decide (e.1 < 2 ^ 40)
  if dram.isEmpty then s else s.updJob p fun j => { j with wrote := j.wrote ++ dram }

/-- An atomic drops the line from the issuing die's cache (R298). -/
def State.dropLines (s : State) (p die : Nat) (ext : List (Nat × Nat)) : State :=
  s.updPart p fun q =>
    let kept := q.cacheLines.map (fun (e : Nat × List (List Byte × Nat)) =>
      if e.1 / 16384 = die then (e.1, e.2.filter (fun w => !(ext.any (fun x => decide (x.1 < w.2 + 256 ∧ w.2 < x.1 + x.2))))) else e)
    { q with cacheLines := kept.filter (fun (e : Nat × List (List Byte × Nat)) => !e.2.isEmpty) }

/-- Every line goes, when a scope-1 barrier completes and at job start (R298). -/
def State.dropCache (s : State) (p : Nat) : State := s.updPart p fun q => { q with cacheLines := [] }

/-- Bytes arrive at their extents from a unit of a die: checked as beats when they come from afar (R426), stored, noted when a window names DRAM, and
written through the die's cached lines of the partition (R298, R299, R374). -/
def State.deposit (s : State) (die : Nat) (part : Option Nat) (far window : Bool) (ext : List (Nat × Nat)) (bs : List Byte) : Except Nat State :=
  match if far then s.arrived (firstAddr ext) bs else .ok bs with
  | .error e => .error e
  | .ok bs =>
    match writeExtents s.mem ext bs with
    | .error e => .error e
    | .ok m =>
      let t := if far then (s.setMem m).crossed else s.setMem m
      match part with
      | none => .ok t
      | some p =>
        let t := if window then t.noteWrite p ext else t
        .ok (if t.cached p then t.writeThroughAll p die ext bs else t)

/-- An indivisible access at the bank: the bytes there, replaced by what `f` answers of them; a beat of it whose check disagrees leaves them as they are
(R426). An atomic drops the lines that its die caches of them (R298, R311). -/
def State.exchange (s : State) (die : Nat) (part : Option Nat) (far window : Bool) (ext : List (Nat × Nat)) (f : List Byte → Except Nat (List Byte)) :
    Except Nat (List Byte × State) :=
  match readExtents s.mem ext with
  | .error e => .error e
  | .ok old =>
    match if far then s.arrived (firstAddr ext) old else .ok old with
    | .error e => .error e
    | .ok seen =>
      match f old with
      | .error e => .error e
      | .ok new =>
        match writeExtents s.mem ext new with
        | .error e => .error e
        | .ok m =>
          let t := if far then (s.setMem m).crossed else s.setMem m
          match part with
          | none => .ok (seen, t)
          | some p =>
            let t := if window then t.noteWrite p ext else t
            .ok (seen, if t.cached p then t.dropLines p die ext else t)

/-- Writes bytes of an operand; a window write needs `WR` (R316). R318 gives a crossing mode to DMA moves, engine outputs and host transfers; what other
instructions write into a window of mode `B4` or `WIDE` on another die crosses as it is and counts nothing (DEDUCED, log entry 95). -/
def State.writeOp (s : State) (c : Nat) (o : Operand) (bs : List Byte) : Except Nat State :=
  match s.extents c o bs.length rWR with
  | .error e => .error e
  | .ok ext => s.deposit (coreDie c) (s.core c).part o.far (o.h.kind == 4) ext bs

/-- An atomic access of an operand; through a window it needs `ATOM` (R316). -/
def State.atomicOp (s : State) (c : Nat) (o : Operand) (n : Nat) (f : List Byte → Except Nat (List Byte)) : Except Nat (List Byte × State) :=
  match s.extents c o n rATOM with
  | .error e => .error e
  | .ok ext => s.exchange (coreDie c) (s.core c).part o.far (o.h.kind == 4) ext f

/-! ### Activity (R399, R401) -/

/-- The rail, the kind of event and the number of them that an access of `n` bytes at an address is: beats of package DRAM on the rail of its
interfaces, bank accesses of a plaza, and of a die store or a scratchpad wide beats or, for up to 8 bytes, narrow words (Tables 14.3, 14.4). -/
def accessEvents (a n : Nat) : Nat × Nat × Nat :=
  let beats := (a % 64 + n + 63) / 64
  if a < 2 ^ 40 then (22, 15, beats)
  else if a < 2 ^ 41 then (dieOfAddr a, 11, beats)
  else if n ≤ 8 then (dieOfAddr a, 7, (n + 3) / 4)
  else (dieOfAddr a, 6, beats)

/-- The accesses at some extents count for the partition whose job caused them (R399, R401). -/
def State.tallyAccess (s : State) (part : Option Nat) (ext : List (Nat × Nat)) : State :=
  ext.foldl (fun s e => let x := accessEvents e.1 e.2; s.tally x.1 part x.2.1 x.2.2) s

/-- The access of `n` bytes that an instruction has made at an operand counts. -/
def State.tallyOp (s : State) (c : Nat) (o : Operand) (n kind : Nat) : State :=
  match s.extents c o n kind with
  | .error _ => s
  | .ok ext => s.tallyAccess (s.core c).part ext

/-! ### Credits (R25, R310, R311) -/

/-- The reservation that a write draws on: window, source die and, in package DRAM, tower (R310). -/
def creditKey (win die tower : Nat) : Nat := (win * 32 + die) * 8 + tower

/-- The credits that a core holds of its die store's local pool, for writes through handles of `KIND` 3: four (R310). -/
def poolKey (c : Nat) : Nat := 256 * 256 + 8 * c

/-- A core's writes into its own scratchpads take no credit (R310). -/
def ownScratch (c a : Nat) : Bool := decide (coreBase c ≤ a ∧ a < coreBase c + 0x70000)

/-- The tower of a reservation: in package DRAM each tower has its own (R310). -/
def creditTower (a : Nat) : Nat := if a < 2 ^ 40 then towerOf a else 0

/-- Some place that a write through a window needs a credit for has none left of its reservation: every credit taken by a beat still on its way is
`credits` of the partition (R310, R311). -/
def State.starved (s : State) (p die win : Nat) (ext : List (Nat × Nat)) : Bool :=
  ext.any fun e => decide (0 < mget (s.part p).credits 0 (creditKey win die (creditTower e.1)) ∧
    (s.window p win).credits ≤ mget (s.part p).credits 0 (creditKey win die (creditTower e.1)))

/-- A core's write of `n` bytes at an operand waits for a credit: of its window at the places it goes to, or of the local pool for a handle of `KIND` 3
(R310). The beats of one step are stored within it and their credits are back at its end; only beats still on their way (`REMOTE_WRITE`) hold
credits between steps (DEDUCED, log entry 22). -/
def State.held (s : State) (c : Nat) (o : Operand) (n : Nat) : Bool :=
  match (s.core c).part with
  | none => false
  | some p =>
    if o.h.kind = 3 then n != 0 && decide (4 ≤ mget (s.part p).credits 0 (poolKey c))
    else if o.h.kind = 4 then
      match windowExtents { s.window p o.h.win with rights := 31 } rWR (n / 2 ^ 16 + 2) (o.h.base + o.off) n with
      | .error _ => false
      | .ok ext => s.starved p (coreDie c) o.h.win (ext.filter fun e => !ownScratch c e.1)
    else false

/-! ### Issue -/

/-- The core may issue: no thermal trip has stopped issue (R414), its job runs and it has neither ended, faulted nor reached a barrier (R140, R145, R148, R375). -/
def State.issuing (s : State) (c : Nat) : Bool :=
  let k := s.core c
  s.hub.phase != .tripped && k.inJob && !k.ended && decide (1 ≤ k.state ∧ k.state ≤ 4) &&
    (match k.part with | none => false | some p => s.jobState p == 2)

/-- The 128-bit instruction at the program counter, or the status that faults the fetch (R145, R273): its address goes through the sequencer's adder
(R429), its bytes come as beats and through the fetch buffer (R426, R432). Each is read from the program window as it issues; the 256 instructions that
the buffer may hold ahead (Table 4.21) are not kept (DESIGN CHOICE, log entry 96). -/
def State.fetch (s : State) (c : Nat) : Except Nat Nat :=
  let k := s.core c
  match k.part with
  | none => .error 0x0106
  | some p =>
    match (s.part p).job with
    | none => .error 0x0106
    | some j =>
      if k.segCount ≤ k.pc then .error 0x0106
      else
        match s.address placeSeq (j.progOff + k.segStart + 16 * k.pc) with
        | none => .error 0x0303
        | some a =>
          match s.readWindow (coreDie c) p j.progWin a 16 rRD with
          | .error e => .error e
          | .ok bs => match s.bufferFault 2 c with | some e => .error e | none => .ok (leNat bs)

/-- The first condition that holds, with its status: the order of R148. -/
def firstOf : List (Bool × Nat) → Option Nat
  | [] => none
  | (b, e) :: rest => if b then some e else firstOf rest

/-- Do the handles named fail R124? -/
def badHandles (k : Core) (hs : List Nat) : Bool :=
  hs.any fun n => let h := k.cfg.handle n; !h.valid || h.size == 0 || decide (5 ≤ h.kind)

/-- Does a handle's `KIND` lie outside the list? -/
def wrongKind (k : Core) (n : Nat) (kinds : List Nat) : Bool := !kinds.contains (k.cfg.handle n).kind

/-- In cached mode a handle of `KIND` 3 is refused (R298). -/
def cachedKind3 (s : State) (k : Core) (hs : List Nat) : Bool :=
  (match k.part with | none => false | some p => s.cached p) && hs.any fun n => (k.cfg.handle n).kind == 3

/-- Does the guard skip the instruction (R132)? -/
def guardSkips (k : Core) (w : Nat) : Bool :=
  (fGuard w == 1 && decide (k.cfg.rtlen0 ≤ (k.reg (fGreg w)).toNat)) || (fGuard w == 2 && decide (k.cfg.rtlen1 ≤ (k.reg (fGreg w)).toNat))

/-- Issue moves on to the next instruction. -/
def State.advance (s : State) (c : Nat) : State := s.updCore c fun k => { k with pc := k.pc + 1, state := 1 }

/-- An instruction that a queue has no room for, or that waits, stalls issue: nothing changes but the state shown (R117, Table 4.7). -/
def State.stall (s : State) (c st : Nat) : State := s.updCore c fun k => { k with state := st }

/-- The issue of one instruction of a class (R148): fetch, definition, the class's checks, the guard, then `go` with the program counter
advanced. `sel` says whether the instruction is one of the command's row; another defined instruction leaves the state alone. `hold` answers
the state to show while the instruction cannot leave the sequencer (a full queue, a wait). -/
def State.issue (s : State) (c : Nat) (sel : Nat → Bool) (checks : Core → Nat → List (Bool × Nat)) (hold : Nat → State → Option Nat)
    (go : Nat → State → State) : State :=
  if !s.issuing c then s
  else
    match s.fetch c with
    | .error e => s.refuse c e
    | .ok w =>
      let k := s.core c
      if !insDefined w then s.refuse c 0x0101
      else if !sel w then s
      else
        match firstOf ((fGuard w == 3, 0x0100) :: checks k w) with
        | some e => s.refuse c e
        | none =>
          if guardSkips k w then (s.advance c).signal c (fSig w) k.pc
          else
            match hold w s with
            | some st => s.stall c st
            | none => go w (s.advance c).crossed

/-- Nothing holds the instruction back. -/
def freely (_ : Nat) (_ : State) : Option Nat := none

/-- The result of a unit's access: on a status the job faults with the unit's code. -/
def State.orFault {α : Type} (s : State) (c unit pc : Nat) (r : Except Nat α) (go : α → State) : State :=
  match r with
  | .error e => s.coreRaise c e unit pc
  | .ok a => go a

/-- Every earlier instruction of the core has completed: all its queues and units are empty (R147, Table 4.17). -/
def State.quiet (s : State) (c : Nat) : Bool :=
  let k := s.core c
  k.dmaQ.isEmpty && k.memQ.isEmpty && k.haloTx.isEmpty && k.haloRx.isEmpty && k.sktQ.isEmpty && k.sktOut == 0 && k.swps.isEmpty &&
    (List.range 18).all fun m => let x := s.mac (macKey c m); x.queue.isEmpty && x.run.isNone && x.drainBuf.isNone && x.writing.isEmpty

end Sys2Proof.Machine
end

