-- ==== Sys2Proof/Machine/Loader.lean ====
section
/-! DEFINITION. The weight loader: pages named and their shadows, source forms, the checks of a segment, rows written, verify and refusal
(R75 to R93). -/

namespace Sys2Proof.Machine

/-! ### Pages named (R87) -/

def Macro.shadowPage (m : Macro) (n : Nat) : Nat := n + (if m.liveB then 0 else 32)
def Macro.updPage (m : Macro) (i : Nat) (f : Page → Page) : Macro := { m with pages := mupd m.pages Page.reset i f }

/-- The physical pages an operation writes (Table 3.1, R89). -/
def Macro.targets (m : Macro) (op n : Nat) (both : Bool) : List Nat :=
  if !m.cfg.rewritable then [n]
  else if op = 3 ∨ both then [n, n + 32]
  else [m.shadowPage n]

/-- A `LOAD` whose live page is invalid writes both banks (R89). -/
def Macro.writesBoth (m : Macro) (op n : Nat) : Bool := m.cfg.rewritable && op == 0 && !(m.page (m.livePage n)).valid

/-- The banks that a list of physical pages lies in. -/
def banksOf (pages : List Nat) : List Bool := [false, true].filter fun b => pages.any fun t => decide (32 ≤ t) == b

/-- The banks that a segment at work writes. -/
def Macro.writeBanks (m : Macro) (w : PageWrite) : List Bool := banksOf (m.targets w.ins.op w.ins.page w.op.both)

/-- The loader is busy with a bank: an earlier segment writes or verifies there (R83). -/
def Macro.bankBusy (m : Macro) (bank : Bool) : Bool := m.writing.any fun w => (m.writeBanks w).contains bank

/-- Rows are still to be written into the bank that holds the active page: no step may start (R83). -/
def Macro.blocked (m : Macro) : Bool :=
  m.writing.any fun w => !w.op.verifying && (m.writeBanks w).contains (decide (32 ≤ m.active))

def Macro.bank (m : Macro) (b : Bool) : Bank := if b then m.bankB else m.bankA
def Macro.setBank (m : Macro) (b : Bool) (v : Bank) : Macro := if b then { m with bankB := v } else { m with bankA := v }

/-- A bank performs a step, a read or a write in this tick (R95). -/
def Macro.useBank (m : Macro) (b : Bool) (tick : Nat) : Macro := m.setBank b { m.bank b with used := tick }

/-- Is the page of a segment in 2:4 form? A `LOAD` says so itself, the others take the live page's format (R136). -/
def WpgIns.is24 (i : WpgIns) (m : Macro) : Bool := if i.op = 0 then i.sparse else (m.page (m.livePage i.page)).sparse24
/-- The weight format of a segment. -/
def WpgIns.fmt (i : WpgIns) (m : Macro) : Nat := if i.op = 0 then i.wfmt else (m.page (m.livePage i.page)).wfmt

/-! ### Rows of a page and of a source -/

/-- Spreads word sites over the 256 lanes of a row. -/
def spread (fuel lane : Nat) (sites : List (Nat × Nat)) : List Nat :=
  match fuel with
  | 0 => []
  | fuel + 1 =>
    match sites with
    | (l, v) :: rest => if l = lane then v :: spread fuel (lane + 1) rest else 0 :: spread fuel (lane + 1) ((l, v) :: rest)
    | [] => 0 :: spread fuel (lane + 1) []

/-- The 256 words of a physical row. -/
def Page.rowCells (p : Page) (row : Nat) : List Nat := spread 256 0 (p.rowSites row)

/-- The 256 dense weights of a logical row. -/
def Page.logicalRow (p : Page) (j : Nat) : List Int :=
  if p.sparse24 then
    let v := fun c => if cellIdx c = j % 4 then cellVal c else 0
    List.zipWith (fun a b => v a + v b) (p.rowCells (2 * (j / 4))) (p.rowCells (2 * (j / 4) + 1))
  else (p.rowCells j).map cellVal

/-- An int8 byte. -/
def int8 (b : Byte) : Int := b.toInt

/-- A 5-bit two's-complement value. -/
def int5 (v : Nat) : Int := (BitVec.ofNat 5 v).toInt

/-- The two entries of a C24 word: value and index (Table 3.2). -/
def c24 (w : Nat) : List (Int × Nat) := [(int5 (w % 32), w / 32 % 4), (int5 (w / 128 % 32), w / 4096 % 4)]

/-- The words of two bytes each. -/
def pairs16 : List Byte → List Nat
  | a :: b :: rest => (a.toNat + 256 * b.toNat) :: pairs16 rest
  | _ => []

/-- The values a source names at a logical row of a segment (`idx` counts from the segment's first logical row), lane by lane (Table 3.2). -/
def srcRow (form idx : Nat) (bs : List Byte) : List (List Int) :=
  if form = 1 then ((bs.drop (idx * 256)).take 256).map fun b => [((b.toNat % 16 : Nat) : Int), -((b.toNat / 16 : Nat) : Int)]
  else if form = 2 then
    (pairs16 ((bs.drop (idx / 4 * 512)).take 512)).map fun w => ((c24 w).filter fun e => e.2 == idx % 4).map Prod.fst
  else ((bs.drop (idx * 256)).take 256).map fun b => [int8 b]

/-- A value clamped to ±M (R90). -/
def clampTo (m v : Int) : Int := if m < v then m else if v < -m then -m else v

/-- The values a logical row shall hold, as lists of named values per lane: a load's own, a fold's clamped sum, a copy's live weights; `live` holds the
live rows of the segment as they were sensed. -/
def segRow (m : Macro) (i : WpgIns) (live : List (List Int)) (idx : Nat) (bs : List Byte) : List (List Int) :=
  if i.op = 0 then srcRow i.form idx bs
  else if i.op = 2 then (live.getD idx []).map fun v => [v]
  else List.zipWith (fun v d => [clampTo (fmtMax (i.fmt m)) (v + d.foldl (· + ·) 0)]) (live.getD idx []) (srcRow 0 idx bs)

/-- Weights clamped in a logical row of a fold (R90). -/
def clampsIn (m : Macro) (i : WpgIns) (live : List (List Int)) (idx : Nat) (bs : List Byte) : Nat :=
  if i.op = 1 then
    ((List.zipWith (fun v d => v + d.foldl (· + ·) 0) (live.getD idx []) (srcRow 0 idx bs)).filter
      fun v => decide (v < -fmtMax (i.fmt m) ∨ fmtMax (i.fmt m) < v)).length
  else 0

/-- Source bytes of one physical row (Table 3.2); a copy and an erase have none. -/
def WpgIns.rowBytes (i : WpgIns) (m : Macro) : Nat :=
  if 2 ≤ i.op then 0 else if i.is24 m ∧ (i.op = 1 ∨ i.form = 0) then 512 else 256

/-- Logical rows per physical row. -/
def WpgIns.perRow (i : WpgIns) (m : Macro) : Nat := if i.is24 m then 2 else 1

/-- The logical rows of the live page that a fold's or copy's segment covers, as they are sensed (R91). -/
def WpgIns.liveRows (i : WpgIns) (m : Macro) : List (List Int) :=
  if i.op = 1 ∨ i.op = 2 then
    (List.range (i.perRow m * i.nrows)).map fun t => (m.page (m.livePage i.page)).logicalRow (i.perRow m * i.row0 + t)
  else []

/-! ### The checks of a segment (R76 to R80) -/

/-- A finding: status, logical row, lane. -/
structure Finding where
  status : Nat
  row : Nat
  lane : Nat
deriving DecidableEq, Repr

/-- The finding at one lane of a logical row, in the order of Table 3.3; `before` counts the group's non-zero weights of lower rows. -/
def laneFinding (m : Macro) (i : WpgIns) (j lane before : Nat) (vs : List Int) : Option Nat :=
  let nz := vs.any fun v => decide (v ≠ 0)
  let both := decide ((vs.filter fun v => decide (v ≠ 0)).length = 2)
  if i.is24 m && !(i.op == 0 && i.form == 2) && nz && before == 2 then some 0x0201
  else if nz && (decide (i.lrows ≤ j) || decide (i.llanes ≤ lane)) then some 0x0202
  else if i.op == 0 && i.form == 1 && both then some 0x0203
  else if vs.any fun v => decide (v < -fmtMax (i.fmt m) ∨ fmtMax (i.fmt m) < v) then some 0x0204
  else if i.op == 0 && i.form == 2 && both then some 0x0205
  else none

/-- The first finding of a list of lanes. -/
def rowFinding (m : Macro) (i : WpgIns) (j lane : Nat) : List (List Int) → List Nat → Option Finding
  | vs :: rest, bf :: bfs =>
    match laneFinding m i j lane bf vs with
    | some e => some { status := e, row := j, lane := lane }
    | none => rowFinding m i j (lane + 1) rest bfs
  | _, _ => none

/-- Scans logical rows in ascending order; `before` counts non-zero weights of the present group per lane. -/
def scanRows (m : Macro) (i : WpgIns) (live : List (List Int)) (bs : List Byte) (j0 : Nat) : List Nat → List Nat → Option Finding
  | [], _ => none
  | idx :: rest, before =>
    let j := j0 + idx
    let before := if j % 4 = 0 then List.replicate 256 0 else before
    let row := segRow m i live idx bs
    match rowFinding m i j 0 row before with
    | some f => some f
    | none =>
      scanRows m i live bs j0 rest (List.zipWith (fun b vs => if vs.any (fun v => decide (v ≠ 0)) then b + 1 else b) before row)

/-- The open operation on a page, if there is one. -/
def Macro.openOp (m : Macro) (page : Nat) : Option PageOp := m.opsOpen.find? fun o => o.page == page

/-- Operation, form and page type that do not go together (R77). -/
def badForm (i : WpgIns) : Bool :=
  if i.op = 0 then (i.form == 1 && i.sparse) || (i.form == 2 && !i.sparse) || i.form == 3 else i.form != 0

/-- A segment that breaks R78: one that does not continue an open operation, whatever its `FIRST`, among them. One that would run past row 255 is
refused too. -/
def badSegment (m : Macro) (i : WpgIns) : Bool :=
  let o := m.openOp i.page
  let max := if i.is24 m then 512 else 256
  (match o with | some o => o.next != i.row0 | none => false) ||
  (!i.first && (match o with
    | none => true
    | some o => o.op != i.op || (i.op == 0 && (o.wfmt != i.wfmt || o.sparse != i.sparse)) || o.lrows != i.lrows || o.llanes != i.llanes)) ||
  (i.first && i.row0 != 0) || (i.last && i.row0 + i.nrows != 256) || decide (256 < i.row0 + i.nrows) ||
  (i.is24 m && (i.row0 % 2 != 0 || i.nrows % 2 != 0)) || i.lrows == 0 || decide (max < i.lrows) || i.llanes == 0 || decide (256 < i.llanes)

/-- The refusals before the segment's rows are looked at, in the order of R76; those of R77. -/
def wpgEntry (m : Macro) (i : WpgIns) : Option Nat :=
  firstOf [(!m.cfg.enable, 0x0118), (m.cfg.rewritable && decide (32 ≤ i.page), 0x0113),
    ((i.op == 1 || i.op == 2) && !m.cfg.rewritable, 0x0209),
    ((i.op == 1 || i.op == 2) && !(m.page (m.livePage i.page)).valid, 0x0110), (badForm i, 0x0206)]

/-! ### Writing rows (R82, R90) -/

/-- The two words a lane of a 2:4 group gets: its non-zero weights in order, then zeros under the smallest indices left (R47). -/
def layout24 (vs : List Int) : List (Int × Nat) :=
  let idx := vs.zip (List.range 4)
  let nz := (idx.filter fun e => decide (e.1 ≠ 0)).take 2
  let free := (List.range 4).filter fun k => !nz.any fun e => e.2 == k
  nz ++ (free.take (2 - nz.length)).map fun k => ((0 : Int), k)

/-- Replaces the words of one row, in the sites that serve its lanes; the row's cells are as written from now on, and the check row is written with
row 255 (R61, R82). -/
def Page.setRow (p : Page) (row : Nat) (cells : List (BitVec 10)) : Page :=
  let sites := (cells.zip (List.range 256)).filterMap fun e => if e.1 = 0 then none else some (siteKey row e.2, e.1)
  { p with cells := p.cells.filter (fun e => decide (e.1 / 256 < row)) ++ sites ++ p.cells.filter (fun e => decide (row < e.1 / 256)),
           errs := p.errs.filter fun u => u.row != row,
           restored := p.restored ++ (if row = 255 then [row, 256] else [row]).filter fun r => !p.restored.contains r }

/-- The words of a physical row from the logical rows of its group or its own row. -/
def rowWords (sparse : Bool) (p : Nat) (rows : List (List Int)) : List (BitVec 10) :=
  if sparse then
    match rows with
    | [a, b, c, d] =>
      (List.range 256).map fun l =>
        match (layout24 [a.getD l 0, b.getD l 0, c.getD l 0, d.getD l 0])[p % 2]? with
        | some e => cellOf e.1 e.2
        | none => 0
    | _ => []
  else (rows.getD 0 []).map fun v => cellOf v 0

/-- The words that a segment writes into physical row `p` of its page, and into the other row of a 2:4 group (R47, R90). -/
def writtenWords (m : Macro) (i : WpgIns) (live : List (List Int)) (bs : List Byte) (p : Nat) : List (BitVec 10) × List (BitVec 10) :=
  let sum := fun idx => (segRow m i live idx bs).map fun vs => vs.foldl (· + ·) 0
  let sparse := i.is24 m
  let js := if sparse then (List.range 4).map fun t => 4 * (p / 2) + t else [p]
  let rows := js.map fun j => sum (j - i.perRow m * i.row0)
  (rowWords sparse p rows, rowWords sparse (p + 1) rows)

/-- The sums by lane of the weights written so far, with one more row (R50). -/
def addSums (sums : Map Int) (words : List (BitVec 10)) : Map Int :=
  (words.zip (List.range 256)).foldl (fun m e => mset m 0 e.2 (mget m 0 e.2 + cellVal e.1.toNat)) sums

/-- One row write of a `LOAD`, `FOLD` or `COPY` (R82): the row and its check-lane word; with row 255 the check row, of the sums of the rows written
(R50). -/
def writeRow (m : Macro) (w : PageWrite) (bs : List Byte) (q : Page) : Page :=
  let p := w.op.next
  let ws := writtenWords m w.ins w.live bs p
  let q := q.setRow p ws.1
  let other := if w.ins.is24 m then q.setRow (if p % 2 = 0 then p + 1 else p - 1) ws.2 else q
  let q := { q with chkLane := mset q.chkLane 0 p (other.laneResidue p) }
  if p = 255 then { q with chkRow := checkRow (addSums w.op.sums ws.1) } else q

/-- Rows `0..n-1` overwritten with zeros, the check row with row 255; they count as restored (R61, R81, R111). -/
def Page.zeroRows (p : Page) (n : Nat) : Page :=
  let q := p.restore (List.range (if 256 ≤ n then 257 else n))
  { q with cells := p.cells.filter fun e => decide (n ≤ e.1 / 256), chkLane := p.chkLane.filter fun e => decide (n ≤ e.1),
           chkRow := if 256 ≤ n then [] else p.chkRow, errs := p.errs.filter fun u => decide (n ≤ u.row) }

/-- The bytes that a physical row adds to the page's byte string, in the loader's copy: the row's own, or a group's four logical rows with the second
of its two (R84, R86). -/
def rowCrc (m : Macro) (w : PageWrite) (bs : List Byte) : Nat :=
  let sum := fun idx => (segRow m w.ins w.live idx bs).map fun vs => vs.foldl (· + ·) 0
  let p := w.op.next
  if w.ins.is24 m then
    if p % 2 = 0 then w.op.crc
    else crcBytes w.op.crc (rowsImage ((List.range 4).map fun t => sum (4 * (p / 2) + t - 2 * w.ins.row0)))
  else crcBytes w.op.crc (rowsImage [sum (p - w.ins.row0)])

/-- The operation of a segment once the loader has written its next row: the row after it, the CRC and the sums with it. -/
def PageWrite.wrote (m : Macro) (w : PageWrite) (bs : List Byte) (verifying : Bool) : PageOp :=
  { w.op with next := w.op.next + 1, verifying := verifying, crc := rowCrc m w bs,
              sums := addSums w.op.sums (writtenWords m w.ins w.live bs w.op.next).1 }

/-- An erased page (R110, R111): zeros, not valid. The spec does not say what `SPARSE24`, `WFMT` and `GEN` then report: they stay as they were
(DESIGN CHOICE, log entry 83). -/
def Page.erased (p : Page) : Page := { p.zeroRows 256 with valid := false, lost := false, errs := [] }

/-- A page erased whole by a tenant erasure or at start-up: the sites of no lane too (R110, R111). -/
def Page.wiped (p : Page) : Page := { p.erased with idle := [] }

/-- What is left of a page after a refused or aborted operation that had written `n` rows (R81). -/
def Macro.undo (m : Macro) (op page n : Nat) (both : Bool) : Macro :=
  let ts := m.targets op page both
  let m := ts.foldl (fun m t => m.updPage t fun p => { p.zeroRows n with valid := false }) m
  if m.cfg.rewritable then { m with shadow := mset m.shadow 0 page 0 } else m

/-- Records a refusal or a failed verify (R113). -/
def Macro.reject (m : Macro) (page row lane status : Nat) : Macro :=
  { m with stats := { m.stats with rejValid := true, rejPage := page % 64, rejRow := row % 512, rejLane := lane % 256, rejDetail := status % 256 } }

/-- The operations open on a macro: those of the segments at work, then those between segments. -/
def Macro.allOps (m : Macro) : List PageOp := m.writing.map (fun w => w.op) ++ m.opsOpen

/-- The abort of every operation open on a macro when its job faults or is killed (R81, R150). -/
def Macro.abortOps (m : Macro) : Macro :=
  let m := m.allOps.foldl (fun m o => if o.op = 3 then m else m.undo o.op o.page o.next o.both) m
  { m with writing := [], opsOpen := [] }

/-! ### Verify (R84) -/

/-- The outcome of a verify read. -/
structure Verified where
  page : Page
  rewrites : Nat
  finding : Option (Nat × Nat)
  fresh : Nat
  lanes : List Nat
deriving DecidableEq, Repr

/-- The first lane at which a row shows a wrong position: the lane that a finding of the row names (log entry 84). -/
def wrongLane (errs : List Upset) (r : Nat) : Nat := ((errs.find? fun u => u.row == r).map laneOf).getD 0 % 256

/-- One row of a verify: decoded, and where corrected rewritten once and read again, `again` being what the surroundings do to its cells in between
(R84). -/
def verifyRow (again : List Upset) (v : Verified) (r : Nat) : Verified :=
  let d := decodeRow v.page v.fresh r
  let q := if d.corrected then d.page.upset (again.filter fun u => u.row == r) else d.page
  let wrong := d.uncorrectable || (d.corrected && q.errs.any fun u => u.row == r && decide (u.word < 5))
  { page := q, rewrites := if d.corrected then v.rewrites + 1 else v.rewrites,
    finding := match v.finding with
      | some f => some f
      | none => if wrong then some (r, wrongLane (if d.uncorrectable then v.page.errs else q.errs) r) else none,
    fresh := d.fresh, lanes := v.lanes ++ d.lanes }

/-- The verify of a page (R84): every row through the array code, rewriting corrected rows; then every check word and the CRC from the weights read,
against the check words that the loader wrote and the CRC `crc` that it computed. The first row that cannot be made right is the finding; the spec
does not say which row and lane a wrong residue or CRC names (log entry 84). -/
def verifyPage (p : Page) (again : List Upset) (crc : Word) (fresh : Nat) : Verified :=
  let v := p.suspects.foldl (verifyRow again) { page := p.restore (List.range 257), rewrites := 0, finding := none, fresh := fresh, lanes := [] }
  match v.finding with
  | some _ => v
  | none =>
    if v.page.checksOk then (if v.page.crcNow = crc then v else { v with finding := some (0, 0) })
    else
      let r := ((List.range 256).find? fun r => mget v.page.chkLane 0 r != v.page.laneResidue r).getD 0
      { v with finding := some (r, 0) }

end Sys2Proof.Machine
end

