-- ==== Sys2Proof/Machine/Queue.lean ====
section
/-! DEFINITION. A macro's queue: what is decided when an entry reaches its front, completion and failure (R55, R56, R76 to R80, R92, R93,
R105, R117, R137, R147). -/

namespace Sys2Proof.Machine

/-- Head blocks are released, once each for every place in the list (R122). -/
def State.freeBlocks (s : State) (c : Nat) (blocks : List Nat) : State :=
  s.updCore c fun k => { k with busy := blocks.foldl (fun m b => mset m 0 b (mget m 0 b - 1)) k.busy }

/-- An instruction completes: its head blocks are released and its token rises (R122, R147). -/
def State.complete (s : State) (c : Nat) (blocks : List Nat) (sig pc : Nat) : State := (s.freeBlocks c blocks).signal c sig pc

/-- The head blocks that the products of a macro's queue keep busy (R122). -/
def queueBlocks (q : List QEntry) : List Nat := q.flatMap fun e => match e with | .product i => i.blocks | _ => []

/-- A macro reports a fault of its job and drops its queue, which the fault abandons, and with it the head blocks of its products (R122, R148, R150). -/
def State.macFail (s : State) (c k status pc : Nat) : State :=
  ((s.freeBlocks c (queueBlocks (s.mac k).queue)).updMac k fun m => { m with queue := [], run := none, accepted := false }).macroRaise c k status pc

/-- A macro refuses an entry of its queue: the core issues nothing more, and `CORE_FAULT` keeps the first status of the job (R129, R148). -/
def State.macRefuse (s : State) (c k status pc : Nat) : State := (s.stopIssue c status pc).macFail c k status pc

/-- An entry that left the queue before the one numbered `no` has not completed: instructions of one queue complete in program order (R117). -/
def Macro.earlier (m : Macro) (no : Nat) : Bool :=
  (m.writing.any fun w => decide (w.no < no)) || (match m.drainBuf with | some d => decide (d.no < no) | none => false)

/-- The refusals of a product at the front, in the order of R56 and R105. -/
def productRefusal (m : Macro) (i : ProductIns) : Option Nat :=
  let p := m.page (m.livePage i.page)
  let max := if i.rev then (if p.wfmt = 1 then 128 else 256) else (if p.sparse24 then 512 else 256)
  firstOf [(!m.cfg.enable, 0x0118), (m.cfg.rewritable && decide (32 ≤ i.page), 0x0113), (p.lost, 0x0302), (!p.valid, 0x0110),
    (decide (max < i.k), if i.rev then 0x0114 else 0x0111), (decide (6 ≤ i.ifmt), 0x0112)]

/-- Outputs of a product (R134). -/
def outputs (p : Page) (rev : Bool) : Nat :=
  if rev then (if p.sparse24 then 512 else 256) else if p.wfmt = 1 then 128 else 256

/-- A product begins its life at the front of the queue; `no` is its place in the queue's order. -/
def Run.fresh (nout no : Nat) : Run :=
  { x := [], nout := nout, plane := 0, pos := 0, fail := 0, scrubbed := false, preloaded := false, started := false, finished := false, gap := false, no := no }

/-- The refusal of `SWP` (R67, R92, R93). -/
def swpRefusal (m : Macro) : Option Nat :=
  let ops := m.allOps
  let bad := (List.range 32).any fun n =>
    ((m.page (m.livePage n)).valid && !(mget m.shadow 0 n == 1 || mget m.shadow 0 n == 2)) || ops.any fun o => o.page == n
  firstOf [(!m.cfg.enable, 0x0118), (!m.cfg.rewritable, 0x0209), (bad, 0x0208)]

/-- Gives a macro's answer to the oldest `SWP` of the instruction that still waits for it (R137). -/
def answerSwp (n status pc : Nat) : List SwpOp → List SwpOp
  | [] => []
  | o :: rest =>
    if o.pc = pc ∧ o.mask.testBit n ∧ !(o.answers.any fun a => a.1 == n) then { o with answers := o.answers ++ [(n, status)] } :: rest
    else o :: answerSwp n status pc rest

/-- The logical macros that a mask names. -/
def maskBits (mask : Nat) : List Nat := (List.range 16).filter fun n => mask.testBit n

/-- Every named macro has answered. -/
def SwpOp.complete (o : SwpOp) : Bool := (maskBits o.mask).all fun n => o.answers.any fun a => a.1 == n

/-- This macro has answered the `SWP` at the front of its queue, which waits there for the other macros named (R117, R137). -/
def SwpOp.waits (o : SwpOp) (n pc : Nat) : Bool := o.pc == pc && o.answers.any fun a => a.1 == n

/-- A `SWP` that every named macro has answered completes: its entry leaves every queue, and all are armed, or the fault of the lowest-numbered refusal is
reported (R117, R137). -/
def State.finishSwp (s : State) (c : Nat) (o : SwpOp) : State :=
  let s := s.updCore c fun k => { k with swps := k.swps.erase o }
  let s := (maskBits o.mask).foldl (fun s n => s.updMac (s.macroOf c n) fun m =>
    match m.queue with | .swp pc :: rest => if pc = o.pc then { m with queue := rest } else m | _ => m) s
  match (maskBits o.mask).find? fun n => o.answers.any fun a => a.1 == n && a.2 != 0 with
  | some n =>
    let e := ((o.answers.find? fun a => a.1 == n).map Prod.snd).getD 0
    (s.stopIssue c e o.pc).coreRaise c e 2 o.pc
  | none => ((maskBits o.mask).foldl (fun s n => s.updMac (s.macroOf c n) fun m => { m with armed := true }) s).signal c o.sig o.pc

/-- Two free values for a coordinate the spec does not state (R113, for 0x0208 and 0x0209). -/
def State.freeCoord (s : State) : (Nat × Nat × Nat) × State :=
  ((((Config.freeWord s.fresh).toNat % 64, (Config.freeWord (s.fresh + 1)).toNat % 512, (Config.freeWord (s.fresh + 2)).toNat % 256)),
    { s with fresh := s.fresh + 3 })

/-- The operation open on a page, between segments or at work. -/
def Macro.opOn (m : Macro) (page : Nat) : Option PageOp := m.allOps.find? fun o => o.page == page

/-- What a refused segment leaves of its page: the rows that its operation has written are zeros, `VALID` is clear or the shadow state `NONE` (R81). A
no-op changes no page (R79); an `ERASE` refused for its form has written nothing, and an operation open on its page stays open for the job's abort. -/
def Macro.refusePage (m : Macro) (i : WpgIns) : Macro :=
  if i.op = 3 ∨ i.nrows = 0 then m
  else
    let q := match m.opOn i.page with
      | some o => m.undo o.op i.page o.next o.both
      | none => m.undo i.op i.page 0 (m.writesBoth i.op i.page)
    { q with writing := q.writing.filter (fun w => w.op.page != i.page), opsOpen := q.opsOpen.filter fun o => o.page != i.page }

/-- A refused page operation: recorded, what it had written undone, the job faulted (R81, R113). `MAC_LOAD_REJECT` records the statuses 0x02xx,
those whose detail byte Table 3.9 gives; 0x0110, 0x0113 and 0x0118 leave it as it was (DESIGN CHOICE, log entry 84). -/
def State.refuseWpg (s : State) (c k : Nat) (i : WpgIns) (f : Finding) : State :=
  if 0x0201 ≤ f.status ∧ f.status ≤ 0x0207 then
    (s.updMac k fun m => (m.refusePage i).reject i.page f.row f.lane f.status).macRefuse c k f.status i.pc
  else if f.status = 0x0209 then
    let r := s.freeCoord
    (r.2.updMac k fun m => m.reject i.page r.1.2.1 r.1.2.2 f.status).macRefuse c k f.status i.pc
  else s.macRefuse c k f.status i.pc

/-- The first segment of an operation clears the target's `VALID`, or its shadow state (R85). Its attributes `WFMT` and `SPARSE24` take the new format
here already and keep it after a refusal: the spec does not say when they change (DESIGN CHOICE, log entry 83). -/
def Macro.openPage (m : Macro) (i : WpgIns) (both : Bool) : Macro :=
  let fmt := i.fmt m
  let sp := i.is24 m
  let m := (m.targets i.op i.page both).foldl (fun m t => m.updPage t fun p =>
    if i.op = 3 then { p with valid := false } else { p with valid := false, wfmt := fmt, sparse24 := sp }) m
  if m.cfg.rewritable then { m with shadow := mset m.shadow 0 i.page 0 } else m

/-- The page operation of a segment as it starts writing: the open one, or a new one with nothing written. -/
def WpgIns.start (i : WpgIns) (m : Macro) (both : Bool) : PageOp :=
  match m.openOp i.page with
  | some o => if i.op = 3 then { o with op := 3, next := 0, both := both, sums := [] } else o
  | none => { page := i.page, op := i.op, wfmt := i.wfmt, sparse := i.sparse, lrows := i.lrows, llanes := i.llanes, next := 0, both := both,
              verifying := false, crc := 0xFFFFFFFF, sums := [] }

/-- A sound segment leaves the queue and its rows begin to be written (R82, R83): its operation is at work, its target's attributes or shadow state as
R85 says, the live rows that a fold or copy covers sensed, restored and their bank in use (R61, R91, R95). -/
def Macro.takeWpg (m : Macro) (i : WpgIns) (rest : List QEntry) (tick : Nat) : Macro :=
  let both := if i.op = 3 then false else m.writesBoth i.op i.page
  let w : PageWrite := { ins := i, op := i.start m both, no := m.order, live := i.liveRows m }
  let q := if i.first ∨ i.op = 3 then m.openPage i both else m
  let q := if i.op = 1 ∨ i.op = 2 then
      (q.updPage (q.livePage i.page) fun p => p.restore ((List.range i.nrows).map fun r => i.row0 + r)).useBank (decide (32 ≤ q.livePage i.page)) tick
    else q
  { q with queue := rest, order := m.order + 1, writing := m.writing ++ [w], opsOpen := m.opsOpen.filter fun o => o.page != i.page }

/-- The clamps that a fold's segment meets, in its check: they count whether or not the segment is then refused (R90's pseudocode). -/
def segClamps (m : Macro) (i : WpgIns) (bs : List Byte) : Nat :=
  (List.range (i.perRow m * i.nrows)).foldl (fun a t => a + clampsIn m i (i.liveRows m) t bs) 0

/-- A segment at the front of the queue is checked whole and, if sound, leaves it and begins (R78 to R80, R85). -/
def State.beginWpg (s : State) (c k : Nat) (i : WpgIns) (rest : List QEntry) : State :=
  let m := s.mac k
  if i.op = 3 then s.setMac k (m.takeWpg i rest s.hub.tick)
  else if badSegment m i then s.refuseWpg c k i { status := 0x0206, row := i.row0, lane := 0 }
  else
    match s.readOp c i.src (i.rowBytes m * i.nrows) with
    | .error e => s.macFail c k e i.pc
    | .ok (bs, s) =>
      let m := { m with stats := { m.stats with clamps := satAdd 0xFFFF m.stats.clamps (segClamps m i bs) } }
      match scanRows m i (i.liveRows m) bs (i.perRow m * i.row0) (List.range (i.perRow m * i.nrows)) (List.replicate 256 0) with
      | some f => (s.setMac k m).refuseWpg c k i f
      | none => s.setMac k (m.takeWpg i rest s.hub.tick)

/-- A calibration that a bank has begun in a window yields to a product that needs the bank, which remains due (R95). -/
def Macro.yieldBank (m : Macro) (b : Bool) : Macro :=
  if (m.bank b).calibrating = .no then m else m.setBank b { m.bank b with calibrating := .no }

/-- What becomes of the entry at the front of a macro's queue; `n` is the logical macro, `fuel` bounds the entries passed. A product waits behind row
writes into the bank of the active page, a page operation behind those into its own banks (R83); an entry that completes at once waits for those
before it (R117). -/
def State.settle (s : State) (c k n fuel : Nat) : State :=
  match fuel with
  | 0 => s
  | fuel + 1 =>
    let m := s.mac k
    if m.accepted then s
    else
      match m.queue with
      | [] => s
      | .product i :: rest =>
        if m.blocked then s
        else
          match productRefusal m i with
          | some e => s.macRefuse c k e i.pc
          | none =>
            if i.k = 0 then
              if m.earlier m.order then s
              else State.settle ((s.updMac k fun m => { m with queue := rest }).complete c i.blocks i.sig i.pc) c k n fuel
            else
              s.updMac k fun m =>
                { (m.yieldBank (decide (32 ≤ m.livePage i.page))) with
                    accepted := true, order := m.order + 1, run := some (Run.fresh (outputs (m.page (m.livePage i.page)) i.rev) m.order) }
      | .wpg i :: rest =>
        if (banksOf (m.targets i.op i.page (m.writesBoth i.op i.page))).any m.bankBusy then s
        else
          match wpgEntry m i with
          | some e => s.refuseWpg c k i { status := e, row := i.row0, lane := 0 }
          | none =>
            if i.nrows = 0 ∧ i.op ≠ 3 then
              if m.earlier m.order then s else State.settle ((s.updMac k fun m => { m with queue := rest }).signal c i.sig i.pc) c k n fuel
            else State.settle (s.beginWpg c k i rest) c k n fuel
      | .swp pc :: _ =>
        if m.drainBuf.isSome ∨ (s.core c).swps.any fun o => o.waits n pc then s
        else
          match swpRefusal m with
          | none => s.updCore c fun q => { q with swps := answerSwp n 0 pc q.swps }
          | some e =>
            let r := s.freeCoord
            let s := if e = 0x0118 then s
              else r.2.updMac k fun m => m.reject r.1.1 r.1.2.1 (if e = 0x0208 then 0 else r.1.2.2) e
            s.updCore c fun q => { q with swps := answerSwp n e pc q.swps }

/-- Looks at the front of a logical macro's queue, leaving a `SWP` that is answered there. -/
def State.settleOne (s : State) (c n : Nat) : State :=
  s.settle c (s.macroOf c n) n ((s.mac (s.macroOf c n)).queue.length + 1)

/-- The `SWP` instructions that are answered complete one after another, and the queues behind each go on; `fuel` bounds them. -/
def State.settleSwps (s : State) (c fuel : Nat) : State :=
  match fuel with
  | 0 => s
  | fuel + 1 =>
    match (s.core c).swps.find? SwpOp.complete with
    | none => s
    | some o => State.settleSwps ((maskBits o.mask).foldl (fun s n => s.settleOne c n) (s.finishSwp c o)) c fuel

/-- Looks at the front of a logical macro's queue; an answer given there may complete its `SWP`. -/
def State.settleMacro (s : State) (c n : Nat) : State :=
  let t := s.settleOne c n
  if (t.core c).swps = (s.core c).swps then t else t.settleSwps c (s.core c).swps.length

/-- The entry at the front leaves the queue; the next comes to it. -/
def State.popMacro (s : State) (c n : Nat) : State :=
  (s.updMac (s.macroOf c n) fun m => { m with queue := m.queue.drop 1, accepted := false, run := none }).settleMacro c n

/-- Appends an entry to a logical macro's queue. -/
def State.pushMacro (s : State) (c n : Nat) (e : QEntry) : State :=
  (s.updMac (s.macroOf c n) fun m => { m with queue := m.queue ++ [e] }).settleMacro c n

/-- The queue of a logical macro is full (Table 4.1). -/
def State.macFull (s : State) (c n : Nat) : Bool := decide (4 ≤ (s.mac (s.macroOf c n)).queue.length)

end Sys2Proof.Machine
end

