-- ==== Sys2Proof/Machine/Spare.lean ====
section
/-! DEFINITION. The spare policy's charges: lanes, macros, cores and engines (R437 to R440). -/

namespace Sys2Proof.Machine

/-- Ticks of 24 h and of 720 h. -/
def ticks24h : Nat := 360000000000
def ticks720h : Nat := 10800000000000

/-- The core of a macro key. -/
def macCore (k : Nat) : Nat := k / 18

/-- Cores of an array die that serve a partition, its own logical cores and those it took in from other dies (R292). -/
def State.coresServing (s : State) (d : Nat) : Nat := (s.parts.map fun e => (e.2.placement.cores.filter fun x => x.2 / 272 == d).length).sum

/-- Engines of an engine die that serve a partition, those that moved there from the other die too (R293). -/
def State.skinksServing (s : State) (e : Nat) : Nat := (s.parts.map fun q => (q.2.placement.skinks.filter fun x => x.2 / 18 == e).length).sum

/-- Spare cores of an array die not in use (R292, R437): of its 272 cores, 256 serve the die's own logical cores, more where it took in others'. -/
def State.spareCores (s : State) (d : Nat) : Nat := 272 - max 256 (s.coresServing d) - (s.spares.cores.filter fun c => c / 272 == d).length

/-- Spare engines of an engine die not in use: of its 18, 16 serve, more where it took in the other die's. -/
def State.spareSkinks (s : State) (e : Nat) : Nat := 18 - max 16 (s.skinksServing e) - (s.spares.skinks.filter fun k => k / 18 == e).length

/-- How many array dies have fewer than 4 spare cores left, and engine dies, towers and link directions no spare of their kind (Table 15.7). -/
def State.lowKinds (s : State) : Nat :=
  ((List.range 16).filter fun d => decide (s.spareCores d < 4)).length + ([0, 1].filter fun e => s.spareSkinks e == 0).length +
    ((List.range 8).filter fun t => (s.tower t).spareUsed).length + ((List.range 90).filter fun k => decide (4 ≤ (s.link k).spares.length)).length

/-- A kind has run low: the spare alarm (Table 15.7). -/
def State.spareAlarm (s before : State) : State := if before.lowKinds < s.lowKinds then s.alarm 11 0 hubSource else s

/-- Spare lanes of a bank that are left: neither assigned by a valid staged map nor failed in service (R58, R437). -/
def Macro.laneSlots (m : Macro) (bank : Bool) : List Nat :=
  let b := if bank then 4 else 0
  (List.range 4).filter fun n => !(m.staged.laneMap (b + n)).testBit 31 && !m.spent.contains (b + n)

/-- A macro is to be retired: it goes at its partition's next job boundary (R437); its core, when no spare macro of the core is left. -/
def State.failMacro (s : State) (k : Nat) : State :=
  if s.spares.macros.contains k || s.spares.pendingMacros.contains k then s
  else
    let c := macCore k
    let gone := (s.spares.macros ++ s.spares.pendingMacros).filter fun j => macCore j == c
    if 2 ≤ gone.length then
      s.updSpares fun x => { x with pendingCores := if x.pendingCores.contains c then x.pendingCores else x.pendingCores ++ [c],
                                    pendingMacros := x.pendingMacros.filter fun j => macCore j != c }
    else if s.spares.pendingCores.contains c then s
    else s.updSpares fun x => { x with pendingMacros := x.pendingMacros ++ [k] }

/-- A macro is being retired, alone or with its core (R438). -/
def State.retiring (s : State) (k : Nat) : Bool := s.spares.pendingMacros.contains k || s.spares.pendingCores.contains (macCore k)

/-- Failing lanes of a bank: each gets the next spare and its rebuild, or the macro is retired when the spares do not suffice (R437, R440). A spare that
served such a lane has failed with it and serves no other (log entry 84). A decision about a macro that is being retired is discarded (R438). -/
def State.failLanes (s : State) (k : Nat) (bank : Bool) (lanes : List Nat) : State :=
  let m := s.mac k
  let slots := m.laneSlots bank
  let b := if bank then 4 else 0
  if s.retiring k then s
  else if slots.length < lanes.length then s.failMacro k
  else
    let pairs := (slots.zip lanes).map fun e => (b + e.1, e.2)
    s.updMac k fun m =>
      { m with staged := { m.staged with lanes := pairs.foldl (fun q e => mset (dropLane q bank e.2) 0 e.1 (2 ^ 31 + e.2)) m.staged.lanes },
               spent := m.spent ++ lanes.flatMap (servedBy m.staged.lanes bank),
               rebuild := m.rebuild ++ pairs }

/-- A lane's correction in a row-page: three distinct row-pages within 24 h fail the lane (Table 15.4). -/
def State.chargeLane (s : State) (k page row lane : Nat) : State :=
  if 256 ≤ lane then s
  else
    let bank := decide (32 ≤ page)
    let key := (k * 2 + (if bank then 1 else 0)) * 256 + lane
    let rp := page * 512 + row
    let old := (mget s.spares.laneRows [] key).filter fun e => e.1 != rp && decide (s.hub.tick < e.2 + ticks24h)
    let now := old ++ [(rp, s.hub.tick)]
    let served := (List.range 4).any fun n => (s.mac k).staged.laneMap ((if bank then 4 else 0) + n) == 2 ^ 31 + lane
    if 3 ≤ now.length && !served then
      (s.updSpares fun x => { x with laneRows := mset x.laneRows [] key [] }).failLanes k bank [lane]
    else s.updSpares fun x => { x with laneRows := mset x.laneRows [] key now }

/-- The corrections of one row reported to the policy. -/
def State.chargeLanes (s : State) (k page row : Nat) (lanes : List Nat) : State :=
  lanes.foldl (fun s l => s.chargeLane k page row l) s

/-- A strike against a unit (R439); two within 720 h retire it. `unit` is a macro key, a core as 100000 + c, an engine as 200000 + e; an engine instance (300000 on)
or a die's codec (400000 on) has no spare (Table 15.4): its strikes count and are kept. -/
def State.strike (s : State) (unit : Nat) : State :=
  let live := s.spares.strikes.filter fun e => decide (s.hub.tick < e.2)
  let n := (live.filter fun e => e.1 == unit).length + 1
  let s := s.updSpares fun x => { x with strikes := live ++ [(unit, s.hub.tick + ticks720h)], strikesCharged := satAdd 0xFFFFFFFF x.strikesCharged 1 }
  if n < 2 then s
  else if unit < 100000 then s.failMacro unit
  else if unit < 200000 then
    s.updSpares fun x => { x with pendingCores := if x.pendingCores.contains (unit - 100000) ∨ x.cores.contains (unit - 100000) then x.pendingCores
      else x.pendingCores ++ [unit - 100000] }
  else if 300000 ≤ unit then s
  else
    s.updSpares fun x => { x with pendingSkinks := if x.pendingSkinks.contains (unit - 200000) ∨ x.skinks.contains (unit - 200000) then x.pendingSkinks
      else x.pendingSkinks ++ [unit - 200000] }

/-- A page whose cells hold an uncorrectable codeword is lost (R98). It counts in `LOST` when it becomes so: a page found lost again counts no more
(DESIGN CHOICE, log entry 84). -/
def State.losePage (s : State) (k page : Nat) : State :=
  s.updMac k fun m =>
    { (m.updPage page fun p => { p with valid := false, lost := true }) with
        stats := { m.stats with patrolLost := if (m.page page).lost then m.stats.patrolLost else satAdd 255 m.stats.patrolLost 1 } }

end Sys2Proof.Machine
end

