-- ==== Sys2Proof/Machine/Integrity.lean ====
section
/-! DEFINITION. Codes on memories at rest: SRAM words and their sub-arrays, rows and channels of package DRAM, and what befalls the data of a command
(R320, R321, R425, R429 to R435). -/

namespace Sys2Proof.Machine

/-! ### SRAM words (R431 to R435) -/

/-- Words from here up are those of the hub's memories. -/
abbrev hubWords : Nat := 2 ^ 43

/-- The buffer that a word lies in: its kind and number. -/
def bufOf (a : Nat) : Nat × Nat := ((a - bufBase 0 0) / 2 ^ 36, (a - bufBase 0 0) % 2 ^ 36 / 2 ^ 16)

/-- A word of an engine instance's, a `DMA` unit's, a fetch or the port die's buffer. -/
def bufWord (a : Nat) : Bool :=
  decide (bufBase 0 0 ≤ a ∧ a < bufBase 4 0) &&
    decide ((bufOf a).2 < (if (bufOf a).1 = 0 then 144 else if (bufOf a).1 = 3 then 1 else 4352))

/-- A word of a die's translation memory: an entry of a page of a partition's window (R317). -/
def transWord (a : Nat) : Bool := decide (transBase ≤ a ∧ a < transAt 18 0 0)

/-- An SRAM word of a plaza, a die store, a scratchpad, a Skink accumulator memory, a buffer, a translation memory or a hub memory (R431). -/
def sramWord (a : Nat) : Bool :=
  a % 8 == 0 && (bufWord a || transWord a || decide (hubWords ≤ a ∨ (2 ^ 40 ≤ a ∧ a < 2 ^ 40 + 2 ^ 30 ∧ (a - 2 ^ 40) % 2 ^ 30 < 2 ^ 29) ∨
    (2 ^ 40 + 2 ^ 30 ≤ a ∧ a < 2 ^ 40 + 2 ^ 30 + 2 ^ 29) ∨ (2 ^ 41 ≤ a ∧ a < 2 ^ 41 + 2 ^ 30) ∨
    (2 ^ 42 ≤ a ∧ a < 2 ^ 42 + 4352 * 2 ^ 20 ∧ (a - 2 ^ 42) % 2 ^ 20 < 0x70000) ∨ (skinkBase 0 ≤ a ∧ a < skinkBase 36)))

/-- The partition of the core or engine whose memory holds a word, or of the window whose page entry it is. -/
def State.wordPart (s : State) (a : Nat) : Option Nat :=
  if transWord a then some ((a - transBase) / 2 ^ 29 % 16)
  else if bufWord a then (if (bufOf a).1 = 1 ∨ (bufOf a).1 = 2 then (s.core (bufOf a).2).part else none)
  else if 2 ^ 42 ≤ a ∧ a < skinkBase 0 then (s.core ((a - 2 ^ 42) / 2 ^ 20)).part
  else if skinkBase 0 ≤ a ∧ a < hubWords ∧ (s.skink ((a - skinkBase 0) / 2 ^ 18)).enable then some (s.skink ((a - skinkBase 0) / 2 ^ 18)).part else none

/-- The die of a word. -/
def wordDie (a : Nat) : Nat := if hubWords ≤ a then 18 else dieOfAddr a

/-- Bits `lo` up to `hi` of an address. -/
def abits (a hi lo : Nat) : Nat := a / 2 ^ lo % 2 ^ (hi + 1 - lo)

/-- A place in an SRAM: the sub-array (Table 15.2), the row, and which codeword of the row. -/
structure SramPlace where
  sub : Nat
  row : Nat
  code : Nat
deriving DecidableEq, Repr

/-- A word of a core's scratchpads (Table 4.2): one bank is a sub-array. -/
def scratchPlace (a : Nat) : SramPlace :=
  if a < 0x40000 then { sub := abits a 8 4 ^^^ abits a 13 9, row := abits a 17 9, code := abits a 3 3 }
  else if a < 0x60000 then { sub := 32 + (abits a 7 4 ^^^ abits a 11 8), row := abits (a - 0x40000) 16 8, code := abits a 3 3 }
  else { sub := 48 + (abits a 8 6 ^^^ abits a 11 9), row := abits (a - 0x60000) 15 9, code := abits a 5 3 }

/-- A word of a plaza (Table 7.1): rows of one bank that share A[28:23] are a sub-array. -/
def plazaPlace (a : Nat) : SramPlace :=
  { sub := (abits a 13 6 ^^^ abits a 21 14) * 64 + abits a 28 23, row := abits a 28 14, code := abits a 5 3 }

/-- The slice of a die-store address (R302). -/
def storeSlice (a : Nat) : Nat := abits a 13 10 ^^^ abits a 25 22

/-- A word of a die store: rows of one slice that share A[25:22] are a sub-array. The row is what is left of the address above a 64-byte word, of which
the spec gives no order (DEDUCED, log entry 85). -/
def storePlace (a : Nat) : SramPlace :=
  { sub := storeSlice a * 16 + abits a 25 22, row := abits a 21 14 * 16 + abits a 9 6, code := abits a 5 3 }

/-- The sub-array, row and codeword of an SRAM word, sub-arrays numbered through the device. Accumulator memories, buffers, a die's translation memory and
hub memories are one sub-array each, of a row for each codeword (DEDUCED, log entry 85). -/
def sramPlace (a : Nat) : SramPlace :=
  if hubWords ≤ a then { sub := 2 ^ 24, row := a, code := 0 }
  else if transBase ≤ a then { sub := bufSub 4 (bufDie a), row := a, code := 0 }
  else if bufBase 0 0 ≤ a then { sub := bufSub (bufOf a).1 (bufOf a).2, row := abits a 15 3, code := 0 }
  else if skinkBase 0 ≤ a then { sub := 2 ^ 23 + (a - skinkBase 0) / 2 ^ 18, row := abits a 17 3, code := 0 }
  else if 2 ^ 42 ≤ a then let p := scratchPlace ((a - 2 ^ 42) % 2 ^ 20); { p with sub := 2 ^ 20 + (a - 2 ^ 42) / 2 ^ 20 * 64 + p.sub }
  else if 2 ^ 41 ≤ a then let p := storePlace ((a - 2 ^ 41) % 2 ^ 26); { p with sub := 2 ^ 19 + (a - 2 ^ 41) / 2 ^ 26 * 256 + p.sub }
  else let p := plazaPlace (a % 2 ^ 30); { p with sub := (a - 2 ^ 40) / 2 ^ 30 * 2 ^ 14 + p.sub }

/-- A column of a sub-array: 72 bits for each codeword of a row (R431). -/
def columnKey (p : SramPlace) (b : Nat) : Nat := p.sub * 1024 + p.code * 72 + b % 72

/-- The third distinct row that a column corrects within 24 h records it for repair; a column recorded is so until the next
start-up's self-test repairs it, and a repaired one corrects no more (R434). -/
def State.chargeColumn (s : State) (word b : Nat) : State :=
  let p := sramPlace word
  let col := columnKey p b
  let old := (mget s.spares.columns [] col).filter fun e => e.1 != p.row && decide (s.hub.tick < e.2 + ticks24h)
  let now := old ++ [(p.row, s.hub.tick)]
  if s.spares.columnsDue.contains col || s.spares.repaired.contains col then s
  else if 3 ≤ now.length then s.updSpares fun x => { x with columns := mset x.columns [] col [], columnsDue := x.columnsDue ++ [col] }
  else s.updSpares fun x => { x with columns := mset x.columns [] col now }

/-- A corrected word awaits its write-back. -/
def State.softWord (s : State) (a : Nat) : State :=
  s.setMem { s.mem with soft := if s.mem.soft.contains a then s.mem.soft else a :: s.mem.soft }

/-- One wrong bit: the word is corrected and counted (R431, Table 15.9). -/
def State.sramCorrect (s : State) (a b : Nat) : State :=
  (s.updSpares fun x =>
    { x with sramCorrected := min (2 ^ 64 - 1) (x.sramCorrected + 1),
             hubCorrected := if hubWords ≤ a then satAdd 0xFFFFFFFF x.hubCorrected 1 else x.hubCorrected }).softWord a |>.chargeColumn a b

/-! ### Rows and channels of package DRAM (R319 to R321) -/

/-- The row of a beat, with its channel in the low five bits (R319). -/
def Tower.rowKey (t : Tower) (tower beat : Nat) : Nat := Config.dramRow tower (t.channelAddr (beat * 64)) * 32 + t.channelAt (beat * 64)

/-- Spare rows left to a channel: the tower's spare channel has its own (R321). -/
def Tower.rowsLeft (t : Tower) (tower ch : Nat) : Nat := Config.spareRows tower ch - (t.remappedRows.filter fun r => r % 32 == ch).length

/-- Corrections of one read of a row, a spare row in its place included; two corrected bytes in a beat make the row due at once (R321). -/
def Tower.corrections (t : Tower) (key wrong : Nat) : Tower :=
  { t with corrected := satAdd 0xFFFFFFFF t.corrected 1,
           rowReads := mset t.rowReads 0 key (if wrong = 2 then 4 else mget t.rowReads 0 key + 1) }

/-- A beat is read of which so many bytes are wrong: up to two are corrected and written back; more leave a pattern that every reader finds
uncorrectable (R320). -/
def State.dramRead (s : State) (tower beat wrong : Nat) : State :=
  let t := s.tower tower
  if t.channels * 3 * 2 ^ 30 ≤ beat * 64 ∨ wrong = 0 then s
  else if wrong ≤ 2 then (if s.mem.bad.contains (towerBase tower + beat * 64) then s else s.updTower tower fun x => x.corrections (t.rowKey tower beat) wrong)
  else s.setMem (s.mem.spoil (towerBase tower + beat * 64))

/-- A pattern stays in a word: every reader finds it uncorrectable until a write covers the word (R432). What passes through a buffer writes its words
anew, so none stays there (log entry 86). -/
def State.spoilWord (s : State) (word : Nat) : State := if bufWord word then s else s.setMem (s.mem.spoil word)

/-- An SRAM word is read with the wrong bits listed: one is corrected, more leave a pattern that every reader finds uncorrectable (R431, R432). -/
def State.sramRead (s : State) (word : Nat) (wrong : List Nat) : State :=
  if !sramWord word || decide (hubWords ≤ word) then s
  else match wrong with
    | [] => s
    | [b] => s.sramCorrect word b
    | _ => s.spoilWord word

/-! ### Faults found outside a job (R441) -/

/-- Bytes 24..27 of a completion record (Table 11.11). -/
def faultWord (f : FaultRec) : Nat := f.die % 16 * 2 ^ 28 + f.x % 16 * 2 ^ 24 + f.y % 16 * 2 ^ 20 + f.unit % 16 * 2 ^ 16 + f.pc % 2 ^ 16

/-- `PC` of a fault at a unit other than 1..3 has no stated value (Table 11.11): it is free. A fault of no unit names no instruction. -/
def State.freePc (s : State) (f : FaultRec) : FaultRec × State :=
  if f.unit < 4 then (f, s) else ({ f with pc := s.freeWord.1.toNat % 2 ^ 16 }, s.freeWord.2)

/-- The log record of a fault outside any job (Table 17.5; ring, slot and run have no value there and are free). -/
def State.outsideRecord (s : State) (part : Option Nat) (f : FaultRec) : State :=
  let w := s.freePc f
  let r := w.2.freeBytes 5
  r.2.log part 3 (statusOf f.status) (r.1 ++ [0, 0, 0] ++ leBytes 4 (faultWord w.1) ++ leBytes 4 0)

/-- A fault outside any job: its log record and its alarm (R441). -/
def State.outsideFault (s : State) (part : Option Nat) (die : Nat) (f : FaultRec) : State :=
  (s.outsideRecord part f).integrity (statusOf f.status) (faultSource part die f)

/-! ### What befalls the data of a command -/

/-- The command in hand meets what its operand says: wrong beats and words are read so, the rest waits for the unit that meets it. -/
def State.suffer (s : State) (h : Harm) : State :=
  let s := h.dram.foldl (fun s e => s.dramRead e.1 e.2.1 e.2.2) { s with harm := h }
  h.sram.foldl (fun s e => s.sramRead e.1 e.2) s

end Sys2Proof.Machine
end

