-- ==== Sys2Proof/Machine/Narrow.lean ====
section
/-! DEFINITION. The narrow codes: B4 with its S8 scales, group statistics, adaptation and the zero-run form (R181 to R190, R198). -/

namespace Sys2Proof.Machine

/-- Exponent and mantissa of an S8 byte (Table 6.2). -/
def s8E (s : Nat) : Nat := s / 8 % 32
def s8M (s : Nat) : Nat := s % 8

/-- The product L × m of a code at a scale (R183). -/
def b4Product (c s : Nat) : Int := Config.b4Level c * (if s8E s = 0 then s8M s else 8 + s8M s : Nat)

/-- What R183 makes of the product of a code: scaled, rounded and clamped. -/
def b4Scale (s : Nat) (asign : Bool) (t : Int) : Int :=
  let k : Int := (max (s8E s) 1 : Nat) - 25
  let y := if 0 ≤ k then t * 2 ^ k.toNat else (t + 2 ^ ((-k).toNat - 1)) / 2 ^ (-k).toNat
  if asign then max (-128) (min 127 y) else max 0 (min 255 y)

/-- D(c): a code decoded at a scale, to an A8 element (R183). -/
def b4Decode (c s : Nat) (asign : Bool) : Int := b4Scale s asign (b4Product c s)

/-- Is code `a` a better choice than code `b` for element x, where `dec` decodes the codes (R184)? -/
def b4Better (x : Int) (dec : Nat → Int) (a b : Nat) : Bool :=
  let da := (x - dec a).natAbs
  let db := (x - dec b).natAbs
  decide (da < db) || (da == db && decide ((Config.b4Level a).natAbs < (Config.b4Level b).natAbs))

/-- The code of an element (R184); at scale zero every element takes code 8. -/
def b4Encode (x : Int) (dec : Nat → Int) : Nat := (List.range 16).foldl (fun best c => if b4Better x dec c best then c else best) 8

/-- Is the element clipped (R184)? -/
def b4Clipped (x : Int) (dec : Nat → Int) : Bool := decide (dec 15 < x) || decide (x < dec 0)

/-- Rank of a code (Table 6.1). -/
def b4Rank (c : Nat) : Nat := ((c : Int) - 8).natAbs

/-- Group size from `GSIZE` (Table 6.5). -/
def groupSize (gsize : Nat) : Nat := if gsize = 0 then 32 else if gsize = 1 then 64 else 128

/-- Cuts a list into pieces of `n`; the last may be short. -/
def chunks {α : Type} (n fuel : Nat) (xs : List α) : List (List α) :=
  match fuel with
  | 0 => []
  | fuel + 1 => if xs.isEmpty then [] else xs.take n :: chunks n fuel (xs.drop n)

/-- The groups of a tensor's rows, in order (R185). -/
def groupsOf {α : Type} (g : Nat) (rows : List (List α)) : List (List α) := rows.flatMap fun r => chunks g (r.length + 1) r

/-- A byte as an A8 element. -/
def a8 (asign : Bool) (b : Byte) : Int := if asign then b.toInt else b.toNat

/-- An encoded group: codes of its elements and how many were clipped. -/
structure Group where
  codes : List Nat
  clips : Nat
deriving DecidableEq, Repr

/-- Encodes the elements of a group, whose codes decode as `dec` says. -/
def encodeBy (dec : Nat → Int) (xs : List Int) : Group :=
  { codes := xs.map fun x => b4Encode x dec, clips := (xs.filter fun x => b4Clipped x dec).length }

/-- Encodes the elements of a group at its scale. -/
def encodeGroup (s : Nat) (asign : Bool) (xs : List Int) : Group := encodeBy (fun c => b4Decode c s asign) xs

/-- Pads codes with code 8 to whole cells (R193). -/
def padCodes (cs : List Nat) : List Nat := cs ++ List.replicate (ceilDiv cs.length 16 * 16 - cs.length) 8

/-- Two nibbles to the byte, the first in [3:0]; a final 0 nibble pads (R193, R198). -/
def packNibbles : List Nat → List Byte
  | [] => []
  | [a] => [BitVec.ofNat 8 (a % 16)]
  | a :: b :: rest => BitVec.ofNat 8 (a % 16 + 16 * (b % 16)) :: packNibbles rest

/-- The nibbles of a byte string. -/
def nibblesOf (bs : List Byte) : List Nat := bs.flatMap fun b => [b.toNat % 16, b.toNat / 16]

/-- The plain form of a group: scale byte, then codes (R193). -/
def plainGroup (s : Nat) (g : Group) : List Byte := BitVec.ofNat 8 s :: packNibbles (padCodes g.codes)

/-- The statistics entry after a group (R187, Table 6.3); bytes beyond 4 stay. -/
def statUpdate (old : List Byte) (g : Group) : List Byte :=
  let elems := min 65535 (leNat (old.take 2) + g.codes.length)
  let clips := min 65535 (leNat ((old.drop 2).take 2) + g.clips)
  let b4 := (old.getD 4 0).toNat
  let rank := (g.codes.map b4Rank).foldl max (b4 % 16)
  leBytes 2 elems ++ leBytes 2 clips ++ [BitVec.ofNat 8 (b4 / 16 * 16 + rank)]

/-! ### Zero runs (R198) -/

/-- Binomial coefficient. -/
def choose : Nat → Nat → Nat
  | _, 0 => 1
  | 0, _ + 1 => 0
  | n + 1, k + 1 => choose n k + choose n (k + 1)

/-- First header value and extra nibbles for z zeros (Table 6.6). -/
def zrBase : Nat → Nat × Nat
  | 3 => (0, 0) | 4 => (560, 0) | 5 => (2380, 1) | 6 => (2653, 1) | 7 => (3154, 1) | 8 => (3869, 2) | 9 => (3920, 2)
  | 10 => (3965, 2) | 11 => (3997, 2) | 12 => (4015, 2) | 13 => (4023, 2) | 14 => (4026, 2) | 15 => (4027, 1) | 16 => (4028, 0)
  | _ => (4029, 0)

/-- ρ: the rank of the positions of a cell's zeros; `i` counts from 1. -/
def zeroRank (i : Nat) : List Nat → Nat
  | [] => 0
  | p :: rest => choose p i + zeroRank (i + 1) rest

/-- The positions of a cell's zeros. -/
def zeroPositions (cell : List Nat) : List Nat := (List.range 16).filter fun p => cell.getD p 8 == 8

/-- Is the cell sent with a zero-count header (not the escape)? -/
def zrHeader (cell : List Nat) : Bool := decide (3 ≤ (zeroPositions cell).length)

/-- The nibbles of one 16-code cell: header, extra value, non-zero codes; the escape for two zeros or fewer. -/
def zrCell (cell : List Nat) : List Nat :=
  let zs := zeroPositions cell
  if zs.length ≤ 2 then [4029 % 16, 4029 / 16 % 16, 4029 / 256] ++ cell
  else
    let b := zrBase zs.length
    let rho := zeroRank 1 zs
    let h := b.1 + rho / 16 ^ b.2
    let x := rho % 16 ^ b.2
    [h % 16, h / 16 % 16, h / 256] ++ (List.range b.2).map (fun i => x / 16 ^ i % 16) ++ cell.filter fun c => c != 8

/-- The zero-run form of a group. -/
def zrGroup (s : Nat) (g : Group) : List Byte :=
  let cs := padCodes g.codes
  BitVec.ofNat 8 s :: packNibbles ((chunks 16 (cs.length + 1) cs).flatMap zrCell)

/-- The number of zeros that a header names: the last row of Table 6.6 whose first value it reaches; none for a reserved header. -/
def zrCount (h : Nat) : Option Nat :=
  if 4030 ≤ h then none else if h = 4029 then some 0 else some (((List.range 14).filter fun i => decide ((zrBase (i + 3)).1 ≤ h)).length + 2)

/-- The largest p below `bound` with C(p, z) ≤ ρ. -/
def topPosition (z rho bound : Nat) : Nat := (List.range bound).foldl (fun best p => if choose p z ≤ rho then p else best) 0

/-- The positions of rank ρ, the highest first. -/
def unrank : Nat → Nat → List Nat
  | 0, _ => []
  | z + 1, rho => let p := topPosition (z + 1) rho 16; p :: unrank z (rho - choose p (z + 1))

/-- Puts non-zero codes at the positions that hold no zero. -/
def placeZeros (zs : List Nat) : List Nat → List Nat → List Nat
  | [], _ => []
  | p :: ps, cs => if zs.contains p then 8 :: placeZeros zs ps cs else (cs.headD 8) :: placeZeros zs ps (cs.drop 1)

/-- Decodes one cell from the nibble stream; none for a reserved header or a rank out of range (R199). -/
def zrUncell (ns : List Nat) : Option (List Nat × List Nat) :=
  let h := ns.getD 0 0 + 16 * ns.getD 1 0 + 256 * ns.getD 2 0
  match zrCount h with
  | none => none
  | some 0 => some ((ns.drop 3).take 16, ns.drop 19)
  | some z =>
    let b := zrBase z
    let x := (List.range b.2).foldl (fun a i => a + ns.getD (3 + i) 0 * 16 ^ i) 0
    let rho := (h - b.1) * 16 ^ b.2 + x
    if choose 16 z ≤ rho then none
    else
      let rest := ns.drop (3 + b.2)
      some (placeZeros (unrank z rho) (List.range 16) rest, rest.drop (16 - z))

/-- Decodes the cells of a group. -/
def zrUngroup : Nat → List Nat → Option (List Nat)
  | 0, _ => some []
  | cells + 1, ns =>
    match zrUncell ns with
    | none => none
    | some (cell, rest) =>
      match zrUngroup cells rest with
      | none => none
      | some more => some (cell ++ more)

/-- What the receiving codec makes of a group's bytes: the codes of its `g` elements, or a fault with 0x0121 (R193, R199). -/
def wireCodes (zr : Bool) (g : Nat) (bs : List Byte) : Option (List Nat) :=
  if zr then (zrUngroup (ceilDiv g 16) (nibblesOf (bs.drop 1))).map fun cs => cs.take g
  else some ((nibblesOf (bs.drop 1)).take g)

/-- The elements that a group's bytes decode to, at the scale that travels with it (R183). -/
def wireDecode (zr asign : Bool) (g : Nat) (bs : List Byte) : Option (List Int) :=
  (wireCodes zr g bs).map fun cs => cs.map fun c => b4Decode c (bs.headD 0).toNat asign

/-! ### Adaptation (R189) -/

/-- An adaptation record (Table 6.4). -/
structure Adapt where
  thresh : Nat
  raise : Nat
  minCode : Nat
  maxCode : Nat
  decayRank : Nat
  decayN : Nat
  sound : Bool
deriving DecidableEq, Repr

def adaptOf (bs : List Byte) : Adapt :=
  let b := fun i => (bs.getD i 0).toNat
  { thresh := b 0, raise := b 1 % 8, minCode := b 2, maxCode := b 3, decayRank := b 4 % 16, decayN := b 6 + 256 * b 7,
    sound := decide (b 1 / 8 = 0 ∧ b 1 % 8 ≠ 0 ∧ b 2 ≤ b 3 ∧ b 3 ≤ 0xF7 ∧ b 4 / 16 = 0 ∧ b 4 % 16 ≤ 8 ∧ b 5 = 0) && (bs.drop 8).all fun x => x == 0 }

/-- The scale byte and the eight bytes of statistics after an adaptation. -/
def adaptGroup (r : Adapt) (s : Nat) (st : List Byte) : Nat × List Byte :=
  let elems := leNat (st.take 2)
  let clips := leNat ((st.drop 2).take 2)
  let b4 := (st.getD 4 0).toNat
  let quiet := leNat ((st.drop 6).take 2)
  if elems = 0 then (s, st)
  else
    let o : Nat × Nat :=
      if r.thresh * elems < clips * 256 then (max s (min (s + r.raise) r.maxCode), 0)
      else if clips = 0 ∧ b4 % 16 ≤ r.decayRank ∧ r.decayN ≠ 0 then
        let q := min (quiet + 1) 65535
        if r.decayN ≤ q then (min s (max (s - 1) r.minCode), 0) else (s, q)
      else (s, 0)
    (o.1, leBytes 4 0 ++ [BitVec.ofNat 8 (b4 / 16 * 16), st.getD 5 0] ++ leBytes 2 o.2)

end Sys2Proof.Machine
end

