-- ==== Sys2Proof/Machine/Scalar.lean ====
section
/-! DEFINITION. Scalar instructions and the barrier (R140, R145, R146). -/

namespace Sys2Proof.Machine

/-- A scalar instruction of one function. -/
def sclSel (f w : Nat) : Bool := fOpcode w == 0x60 && fFunc w == f

def fRd (w : Nat) : Nat := field w 92 88
def fRa (w : Nat) : Nat := field w 87 83
def fRb (w : Nat) : Nat := field w 82 78
def fH (w : Nat) : Nat := field w 77 72
def fImm (w : Nat) : Nat := field w 63 32

/-- Operand A. -/
def opA (k : Core) (w : Nat) : Word := k.reg (fRa w)
/-- Operand B: register plus immediate, modulo 2^32. -/
def opB (k : Core) (w : Nat) : Word := k.reg (fRb w) + BitVec.ofNat 32 (fImm w)

/-- Header and reserved bits of a scalar instruction (R131, Table 4.16). -/
def sclReserved (w : Nat) : Bool :=
  fSig w != 0 || fXA w != 0 || fXB w != 0 || field w 71 64 != 0 || field w 31 0 != 0

/-- Checks of a function that names no handle. -/
def sclChecks (_ : Core) (w : Nat) : List (Bool × Nat) := [(sclReserved w, 0x0100), (fH w != 0, 0x0104)]

/-- Checks of a branch or jump: the target lies in the segment. -/
def branchChecks (k : Core) (w : Nat) : List (Bool × Nat) :=
  [(sclReserved w, 0x0100), (fH w != 0, 0x0104), (decide (k.segCount ≤ fImm w % 2 ^ 16), 0x0106)]

/-- The offset that `LDN` and `STN` access. -/
def narrowOff (k : Core) (w : Nat) : Nat := ((opA k w).toNat + fImm w) % 2 ^ 32

/-- Checks of `LDN` and `STN`. -/
def narrowChecks (k : Core) (w : Nat) : List (Bool × Nat) :=
  [(sclReserved w, 0x0100), (narrowOff k w % 4 != 0, 0x0102), (badHandles k [fH w], 0x0103), (wrongKind k (fH w) [0, 1, 2], 0x0104)]

/-- What the scalar unit computes goes to a register; a residue that disagrees faults (R429, R430). -/
def State.scalarResult (s : State) (c rd : Nat) (v : Word) : State :=
  match s.computed 0 v.toNat with
  | none => s.coreRaise c 0x0303 1 ((s.core c).pc - 1)
  | some x => s.setReg c rd (BitVec.ofInt 32 x)

/-- A function that writes s[RD] from A and B. -/
def aluStep (c f : Nat) (op : Word → Word → Word) (s : State) : State :=
  s.issue c (sclSel f) sclChecks freely fun w s => s.scalarResult c (fRd w) (op (opA (s.core c) w) (opB (s.core c) w))

/-- A conditional branch on s[RA] and s[RB]. -/
def branchStep (c f : Nat) (taken : Word → Word → Bool) (s : State) : State :=
  s.issue c (sclSel f) branchChecks freely fun w s =>
    if taken (opA (s.core c) w) ((s.core c).reg (fRb w)) then s.updCore c fun k => { k with pc := fImm w % 2 ^ 16 } else s

def execSclNop (core : Nat) (h : Harm) (s : State) : Host.Outcome State Fault Refusal :=
  act (coreOk core) s ((s.suffer h).issue core (sclSel 0x00) sclChecks freely fun _ s => s)

/-! ### Barriers -/

/-- The cores of a partition's job on a logical die, or all of them. -/
def State.participants (s : State) (p : Nat) (scope dieLog : Nat) : List Nat :=
  match (s.part p).job with
  | none => []
  | some j => j.cores.filter fun c => scope == 1 || (s.core c).dieLog == dieLog

/-- The key of a barrier group: logical die, or 16 for the whole job. -/
def barKey (scope dieLog : Nat) : Nat := if scope = 1 then 16 else dieLog

/-- A gathering barrier: identifier and cores arrived, of a group; the identifier 8 stands for none. -/
def State.gathering (s : State) (p key : Nat) : Nat × List Nat := mget (s.part p).barriers (8, []) key

/-- A barrier whose missing participants have all executed `END` cannot complete (R140). -/
def State.barrierDead (s : State) (p key : Nat) : Bool :=
  let g := s.gathering p key
  !g.2.isEmpty &&
    (s.participants p (if key = 16 then 1 else 0) key).all fun c => g.2.contains c || (s.core c).ended

/-- The barrier of a group completes: its participants leave it in this tick (R140, R475), cached lines go (R298). -/
def State.barrierDone (s : State) (p key : Nat) : State :=
  let g := s.gathering p key
  let s := s.updPart p fun q => { q with barriers := mset q.barriers (8, []) key (8, []) }
  let s := g.2.foldl (fun s c => s.updCore c fun k => { k with state := 1 }) s
  let s := if key = 16 ∧ s.cached p then s.dropCache p else s
  s.trace p 3 [BitVec.ofNat 8 g.1, if key = 16 then 1 else 0]

/-- After an arrival or an `END`: a complete group leaves, a dead one faults the job with 0x0108 at one of its waiting cores. -/
def State.settleBarrier (s : State) (p key : Nat) : State :=
  let g := s.gathering p key
  let who := s.participants p (if key = 16 then 1 else 0) key
  if !g.2.isEmpty && who.all (fun c => g.2.contains c) then s.barrierDone p key
  else if s.barrierDead p key then
    match g.2 with
    | [] => s
    | c :: _ => s.coreRaise c 0x0108 1 ((s.core c).pc - 1)
  else s

/-- Does the arrival contradict a barrier that is gathering and that the core takes part in (R140)? The groups that a core takes part in, its die's and
the job's, count as one here: an arrival of either scope while the other's barrier gathers is a mismatch (DEDUCED, log entry 97). -/
def State.barrierClash (s : State) (p dieLog scope id : Nat) : Bool :=
  let d := s.gathering p dieLog
  let j := s.gathering p 16
  (!d.2.isEmpty && (scope == 1 || d.1 != id)) || (!j.2.isEmpty && (scope == 0 || j.1 != id))

/-- Checks of `BAR` (Table 4.13). -/
def barChecks (_ : Core) (w : Nat) : List (Bool × Nat) := [(fSig w != 0 || fXA w != 0 || fXB w != 0 || field w 94 0 != 0, 0x0100)]

/-- A wait for every earlier instruction of the core. -/
def untilQuiet (c : Nat) (_ : Nat) (s : State) : Option Nat := if s.quiet c then none else some 4

/-- The arrival at a barrier. -/
def State.arrive (s : State) (c scope id : Nat) : State :=
  match (s.core c).part with
  | none => s
  | some p =>
    let dl := (s.core c).dieLog
    if s.barrierClash p dl scope id then s.coreRaise c 0x0108 1 ((s.core c).pc - 1)
    else
      let key := barKey scope dl
      let s := s.updCore c fun k => { k with state := 5 }
      let s := s.updPart p fun q => { q with barriers := mset q.barriers (8, []) key (id, (mget q.barriers (8, []) key).2 ++ [c]) }
      s.settleBarrier p key

def execBar (core : Nat) (h : Harm) (s : State) : Host.Outcome State Fault Refusal :=
  act (coreOk core) s ((s.suffer h).issue core (fun w => fOpcode w == 0x50) barChecks (untilQuiet core) fun w s =>
    s.arrive core (field w 98 98) (field w 97 95))

/-! ### Control -/

def execSclEnd (core : Nat) (h : Harm) (s : State) : Host.Outcome State Fault Refusal :=
  act (coreOk core) s ((s.suffer h).issue core (sclSel 0x01) sclChecks freely fun _ s =>
    let s := s.updCore core fun k => { k with ended := true, state := 0 }
    match (s.core core).part with
    | none => s
    | some p => (s.settleBarrier p (s.core core).dieLog).settleBarrier p 16)

/-- A wait on a token counter is satisfied. -/
def tokenReady (k : Core) (w : Nat) : Bool := decide (fImm w / 2 ^ 16 ≤ mget k.tokens 0 (fImm w % 16))

def execSclWait (core : Nat) (h : Harm) (s : State) : Host.Outcome State Fault Refusal :=
  act (coreOk core) s ((s.suffer h).issue core (sclSel 0x20) (fun k w => (fImm w % 16 == 0, 0x0100) :: sclChecks k w)
    (fun w s => if tokenReady (s.core core) w then none else some 2) fun w s =>
      s.updCore core fun k =>
        { k with tokens := mset k.tokens 0 (fImm w % 16) (mget k.tokens 0 (fImm w % 16) - fImm w / 2 ^ 16) })

def execSclWaitb (core : Nat) (h : Harm) (s : State) : Host.Outcome State Fault Refusal :=
  act (coreOk core) s ((s.suffer h).issue core (sclSel 0x21) sclChecks
    (fun w s => if (s.core core).busyBits &&& (fImm w % 2 ^ 16) = 0 then none else some 3) fun _ s => s)

def execSclFence (core : Nat) (h : Harm) (s : State) : Host.Outcome State Fault Refusal :=
  act (coreOk core) s ((s.suffer h).issue core (sclSel 0x22) sclChecks (untilQuiet core) fun _ s => s)

def execSclJmp (core : Nat) (h : Harm) (s : State) : Host.Outcome State Fault Refusal :=
  act (coreOk core) s ((s.suffer h).issue core (sclSel 0x1D) branchChecks freely fun w s =>
    s.updCore core fun k => { k with pc := fImm w % 2 ^ 16 })

def execSclBeq (core : Nat) (h : Harm) (s : State) : Host.Outcome State Fault Refusal :=
  act (coreOk core) s (branchStep core 0x18 (fun a b => a == b) (s.suffer h))
def execSclBne (core : Nat) (h : Harm) (s : State) : Host.Outcome State Fault Refusal :=
  act (coreOk core) s (branchStep core 0x19 (fun a b => a != b) (s.suffer h))
def execSclBlt (core : Nat) (h : Harm) (s : State) : Host.Outcome State Fault Refusal :=
  act (coreOk core) s (branchStep core 0x1A (fun a b => a.slt b) (s.suffer h))
def execSclBge (core : Nat) (h : Harm) (s : State) : Host.Outcome State Fault Refusal :=
  act (coreOk core) s (branchStep core 0x1B (fun a b => !a.slt b) (s.suffer h))
def execSclBltu (core : Nat) (h : Harm) (s : State) : Host.Outcome State Fault Refusal :=
  act (coreOk core) s (branchStep core 0x1C (fun a b => a.ult b) (s.suffer h))

/-! ### Arithmetic -/

def execSclLi (core : Nat) (h : Harm) (s : State) : Host.Outcome State Fault Refusal :=
  act (coreOk core) s ((s.suffer h).issue core (sclSel 0x02) sclChecks freely fun w s => s.setReg core (fRd w) (BitVec.ofNat 32 (fImm w)))
def execSclAdd (core : Nat) (h : Harm) (s : State) : Host.Outcome State Fault Refusal := act (coreOk core) s (aluStep core 0x03 (· + ·) (s.suffer h))
def execSclSub (core : Nat) (h : Harm) (s : State) : Host.Outcome State Fault Refusal := act (coreOk core) s (aluStep core 0x04 (· - ·) (s.suffer h))
def execSclAnd (core : Nat) (h : Harm) (s : State) : Host.Outcome State Fault Refusal := act (coreOk core) s (aluStep core 0x05 (· &&& ·) (s.suffer h))
def execSclOr (core : Nat) (h : Harm) (s : State) : Host.Outcome State Fault Refusal := act (coreOk core) s (aluStep core 0x06 (· ||| ·) (s.suffer h))
def execSclXor (core : Nat) (h : Harm) (s : State) : Host.Outcome State Fault Refusal := act (coreOk core) s (aluStep core 0x07 (· ^^^ ·) (s.suffer h))
def execSclShl (core : Nat) (h : Harm) (s : State) : Host.Outcome State Fault Refusal :=
  act (coreOk core) s (aluStep core 0x08 (fun a b => a <<< (b.toNat % 32)) (s.suffer h))
def execSclShr (core : Nat) (h : Harm) (s : State) : Host.Outcome State Fault Refusal :=
  act (coreOk core) s (aluStep core 0x09 (fun a b => a >>> (b.toNat % 32)) (s.suffer h))
def execSclSra (core : Nat) (h : Harm) (s : State) : Host.Outcome State Fault Refusal :=
  act (coreOk core) s (aluStep core 0x0A (fun a b => a.sshiftRight (b.toNat % 32)) (s.suffer h))
def execSclMul (core : Nat) (h : Harm) (s : State) : Host.Outcome State Fault Refusal := act (coreOk core) s (aluStep core 0x0B (· * ·) (s.suffer h))
def execSclSlt (core : Nat) (h : Harm) (s : State) : Host.Outcome State Fault Refusal :=
  act (coreOk core) s (aluStep core 0x0C (fun a b => if a.slt b then 1 else 0) (s.suffer h))
def execSclSltu (core : Nat) (h : Harm) (s : State) : Host.Outcome State Fault Refusal :=
  act (coreOk core) s (aluStep core 0x0D (fun a b => if a.ult b then 1 else 0) (s.suffer h))

/-! ### Narrow accesses and registers -/

/-- The word operand of `LDN` and `STN`. -/
def narrowOperand (k : Core) (w : Nat) : Operand := { h := k.cfg.handle (fH w), off := narrowOff k w }

/-- The access of `LDN` or `STN` at the offset that the scalar unit computes (R429). -/
def State.narrow {α : Type} (s : State) (c w : Nat) (go : Operand → Except Nat α) : Except Nat α :=
  match s.address 0 (narrowOff (s.core c) w) with
  | none => .error 0x0303
  | some a => go { narrowOperand (s.core c) w with off := a }

/-- A word read, or written, and counted as an access (R399). -/
def State.readNarrow (s : State) (c : Nat) (o : Operand) : Except Nat (List Byte × State) :=
  (s.readOp c o 4).map fun r => (r.1, r.2.tallyOp c o 4 rRD)
def State.writeNarrow (s : State) (c : Nat) (o : Operand) (bs : List Byte) : Except Nat State := (s.writeOp c o bs).map fun t => t.tallyOp c o 4 rWR

def execSclLdn (core : Nat) (h : Harm) (s : State) : Host.Outcome State Fault Refusal :=
  act (coreOk core) s ((s.suffer h).issue core (sclSel 0x10) narrowChecks freely fun w s =>
    s.orFault core 1 ((s.core core).pc - 1) (s.narrow core w fun o => s.readNarrow core o) fun r =>
      r.2.setReg core (fRd w) (BitVec.ofNat 32 (leNat r.1)))

def execSclStn (core : Nat) (h : Harm) (s : State) : Host.Outcome State Fault Refusal :=
  act (coreOk core) s ((s.suffer h).issue core (sclSel 0x11) narrowChecks freely fun w s =>
    s.orFault core 1 ((s.core core).pc - 1)
      (s.narrow core w fun o => s.writeNarrow core o (leBytes 4 ((s.core core).reg (fRb w)).toNat)) id)

/-- A read of the core's register space by the scalar unit; a free value where the space has no register; a read of
`MAC_STEP_COUNT_LO` latches its high half (R72). -/
def readCoreReg (c off : Nat) (s : State) : Word × State :=
  if coreRegOk off then
    (BitVec.ofNat 32 (coreReg s c off),
      match macroAtReg s c off with
      | some (k, 0x014) => s.latchSteps k
      | _ => s)
  else s.freeWord

def execSclRdreg (core : Nat) (h : Harm) (s : State) : Host.Outcome State Fault Refusal :=
  act (coreOk core) s ((s.suffer h).issue core (sclSel 0x12) sclChecks freely fun w s =>
    let r := readCoreReg core (fImm w) s
    r.2.setReg core (fRd w) r.1)

end Sys2Proof.Machine
end

