-- ==== Sys2Proof/Machine/Movement.lean ====
section
/-! DEFINITION. The DMA unit and its moves, the halo exchange, and the memory-operation unit (R138 to R143, R163, R185 to R194, R282 to R288,
R318). -/

namespace Sys2Proof.Machine

/-! ### Fields of records -/

/-- An unsigned field of `n` bytes at a byte offset. -/
def uAt (bs : List Byte) (o n : Nat) : Nat := leNat ((bs.drop o).take n)
/-- A two's-complement field of `n` bytes. -/
def iAt (bs : List Byte) (o n : Nat) : Int := (BitVec.ofNat (8 * n) (uAt bs o n)).toInt
/-- All bytes of a range are zero. -/
def zerosAt (bs : List Byte) (o n : Nat) : Bool := ((bs.drop o).take n).all fun b => b == 0

/-! ### The `DMA` instruction (R138) -/

def dmaOff (k : Core) (w : Nat) : Nat := effOff k (field w 92 75) (fXA w)

/-- Checks of `DMA` (Table 4.13). -/
def dmaChecks (k : Core) (w : Nat) : List (Bool × Nat) :=
  [(field w 66 0 != 0 || fXB w != 0, 0x0100), (dmaOff k w % 64 != 0, 0x0102), (badHandles k [field w 98 93], 0x0103),
   (wrongKind k (field w 98 93) [0], 0x0104)]

/-- `DMA` queues its descriptors, or completes at once with none. -/
def issueDma (c : Nat) (s : State) : State :=
  s.issue c (fun w => fOpcode w == 0x30) dmaChecks (fun w s => if field w 74 67 ≠ 0 ∧ 8 ≤ (s.core c).dmaQ.length then some 1 else none) fun w s =>
    let k := s.core c
    if field w 74 67 = 0 then s.signal c (fSig w) (k.pc - 1)
    else
      s.updCore c fun k =>
        { k with dmaQ := k.dmaQ ++ [{ desc := { h := k.cfg.handle (field w 98 93), off := dmaOff k w }, ndesc := field w 74 67, next := 0,
                                      greg := (k.reg (fGreg w)).toNat, sig := fSig w, pc := k.pc - 1 }] }

def execDma (core : Nat) (h : Harm) (s : State) : Host.Outcome State Fault Refusal := act (coreOk core) s (issueDma core (s.suffer h))

/-! ### Descriptors (Tables 9.4, 9.5) -/

/-- A descriptor's fields; dimension 0 first in each list. -/
structure Desc where
  eng : Nat
  acc : Nat
  srcEs : Nat
  dstEs : Nat
  srcH : Nat
  dstH : Nat
  recH : Nat
  rtdim : Nat
  rtsel : Nat
  stat : Bool
  scl : Bool
  srcOff : Nat
  dstOff : Nat
  recOff : Nat
  statOff : Nat
  pext : List Nat
  vlo : List Nat
  vext : List Nat
  ss : List Int
  ds : List Int
  slots : Nat
  rsvd : Bool
deriving DecidableEq, Repr

/-- A run of two-byte fields. -/
def u16s (bs : List Byte) (o n : Nat) : List Nat := (List.range n).map fun i => uAt bs (o + 2 * i) 2
/-- A run of four-byte signed fields. -/
def i32s (bs : List Byte) (o n : Nat) : List Int := (List.range n).map fun i => iAt bs (o + 4 * i) 4

/-- Does the first slot say that an extension slot follows? -/
def hasExt (b : List Byte) : Bool := (uAt b 0 1).testBit 1

/-- Reads a descriptor from its first slot and, with `EXT`, its extension slot. -/
def descOf (b x : List Byte) : Desc :=
  let ext := hasExt b
  { eng := uAt b 0 1 / 16, acc := uAt b 0 1 / 4 % 4, srcEs := uAt b 1 1 / 32, dstEs := uAt b 1 1 / 4 % 8, srcH := uAt b 2 1 % 64,
    dstH := uAt b 3 1 % 64, recH := uAt b 4 1 % 64, rtdim := uAt b 5 1 / 16 % 8, rtsel := uAt b 5 1 / 4 % 4, stat := (uAt b 5 1).testBit 1,
    scl := (uAt b 5 1).testBit 0, srcOff := uAt b 8 4, dstOff := uAt b 12 4, recOff := uAt b 16 4, statOff := uAt b 20 4,
    pext := u16s b 24 3 ++ (if ext then u16s x 0 2 else [1, 1]), vlo := u16s b 30 3 ++ (if ext then u16s x 4 2 else [0, 0]),
    vext := u16s b 36 3 ++ (if ext then u16s x 8 2 else [1, 1]),
    ss := (if ext then iAt x 32 4 else iAt b 44 2) :: i32s b 48 2 ++ (if ext then i32s x 16 2 else [0, 0]),
    ds := (if ext then iAt x 36 4 else iAt b 46 2) :: i32s b 56 2 ++ (if ext then i32s x 24 2 else [0, 0]),
    slots := if ext then 2 else 1,
    rsvd := (uAt b 0 1).testBit 0 || uAt b 1 1 % 4 != 0 || decide (64 ≤ uAt b 2 1) || decide (64 ≤ uAt b 3 1) || decide (64 ≤ uAt b 4 1) ||
      decide (128 ≤ uAt b 5 1) || !zerosAt b 6 2 || !zerosAt b 42 2 ||
      (ext && (!zerosAt x 12 4 || !zerosAt x 40 24 || uAt b 44 2 != 0 || uAt b 46 2 != 0)) }

/-- The window whose mode a move takes (R318): its destination's, else its source's. -/
def State.moveWindow (s : State) (c : Nat) (d : Desc) : Option Window :=
  let k := s.core c
  let dh := k.cfg.handle d.dstH
  let sh := k.cfg.handle d.srcH
  match k.part with
  | none => none
  | some p => if dh.kind = 4 then some (s.window p dh.win) else if sh.kind = 4 then some (s.window p sh.win) else none

/-- `CROSS` of a window (Table 6.5). -/
def Window.cross (w : Window) : Nat := w.crossing % 4
def Window.gsize (w : Window) : Nat := w.crossing / 4 % 4
def Window.zr (w : Window) : Bool := w.crossing.testBit 4
def Window.asign (w : Window) : Bool := w.crossing.testBit 5

/-- The move is under the `B4` mode of its window. -/
def State.b4Move (s : State) (c : Nat) (d : Desc) : Bool :=
  match s.moveWindow c d with | none => false | some w => w.cross == 1

/-- The destination's window is in `B4` mode. -/
def State.b4Dest (s : State) (c : Nat) (d : Desc) : Bool :=
  let h := (s.core c).cfg.handle d.dstH
  match (s.core c).part with | none => false | some p => h.kind == 4 && (s.window p h.win).cross == 1

/-- R288, and for a move from a `B4` window R318, but for the extension slot beyond `NDESC`. -/
def State.badDesc (s : State) (c : Nat) (d : Desc) : Bool :=
  d.rsvd || decide (7 ≤ d.eng) || d.acc == 3 || decide (5 ≤ d.srcEs) || decide (5 ≤ d.dstEs) || d.rtsel == 3 || decide (5 ≤ d.rtdim) ||
  (d.eng == 0 && (d.srcEs != d.dstEs || (d.acc != 0 && d.srcEs != 3))) ||
  (d.eng != 0 && (d.acc != 0 || d.scl || d.stat || d.statOff != 0)) ||
  (List.range 5).any (fun i => decide (d.pext.getD i 0 < d.vlo.getD i 0 + d.vext.getD i 0)) ||
  (d.slots == 1 && decide (2 < d.rtdim)) || ((s.b4Dest c d || (d.eng == 0 && s.b4Move c d)) && (!d.scl || d.srcEs != 1))

/-- Element size in bytes; half a byte counts as one where an address must be a multiple of it. -/
def esBytes (es : Nat) : Nat := if es = 0 then 1 else 2 ^ (es - 1)

/-- Offsets of a descriptor that are not multiples of what the tables give (0x0102). -/
def misaligned (d : Desc) : Bool :=
  d.srcOff % esBytes d.srcEs != 0 || d.dstOff % esBytes d.dstEs != 0 || d.statOff % 8 != 0 || (d.eng != 0 && d.recOff % 64 != 0)

/-- `VHI` of a dimension (R285). -/
def vhi (k : Core) (greg : Nat) (d : Desc) (i : Nat) : Nat :=
  let hi := d.vlo.getD i 0 + d.vext.getD i 0
  if d.rtsel ≠ 0 ∧ d.rtdim = i then
    let r := if d.rtsel = 1 then k.cfg.rtlen0 else k.cfg.rtlen1
    if greg < r then min hi (r - greg) else 0
  else hi

/-- The valid indices of each dimension, ascending. -/
def validIndices (k : Core) (greg : Nat) (d : Desc) : List (List Nat) :=
  (List.range 5).map fun i => let lo := d.vlo.getD i 0; (List.range (vhi k greg d i - lo)).map fun j => lo + j

/-- Index tuples in address-generation order, dimension 0 innermost. -/
def tuples : List (List Nat) → List (List Nat)
  | [] => [[]]
  | r :: rest => (tuples rest).flatMap fun t => r.map fun i => i :: t

/-- Element number of a tuple under strides, modulo 2^32 (R283). -/
def elementAt (strides : List Int) (t : List Nat) : Nat :=
  ((List.zipWith (fun (i : Nat) (st : Int) => (i : Int) * st) t strides).foldl (· + ·) 0 % 2 ^ 32).toNat

/-- Byte offset of element `n` of a side at `off`, the effective offset modulo 2^32 (R125, R283). -/
def elemOff (off n es : Nat) : Nat := (off + (if es = 0 then n / 2 else n * esBytes es)) % 2 ^ 32

/-- An element's value. -/
def State.getElem (s : State) (c : Nat) (h : Handle) (off es n : Nat) : Except Nat (Nat × State) :=
  match s.readOp c { h := h, off := elemOff off n es } (esBytes es) with
  | .error e => .error e
  | .ok (bs, s) => .ok (if es = 0 then (if n % 2 = 0 then leNat bs % 16 else leNat bs / 16) else leNat bs, s)

/-- Stores an element; the other nibble of a byte keeps its value (R284). -/
def State.putElem (s : State) (c : Nat) (h : Handle) (off es n v : Nat) : Except Nat State :=
  let o : Operand := { h := h, off := elemOff off n es }
  if es = 0 then
    match s.extents c o 1 rWR with
    | .error e => .error e
    | .ok ext =>
      match readExtents s.mem ext with
      | .error e => .error e
      | .ok bs =>
        let b := leNat bs
        s.writeOp c o [BitVec.ofNat 8 (if n % 2 = 0 then b / 16 * 16 + v % 16 else b % 16 + 16 * (v % 16))]
  else s.writeOp c o (leBytes (esBytes es) v)

/-- Adds a 32-bit integer at a bank; on overflow the element stays and the fault is 0x0116 (R163). -/
def addI32 (v : Nat) (old : List Byte) : Except Nat (List Byte) :=
  let t := s32 (leNat old) + s32 v
  if t < -(2 ^ 31) ∨ 2 ^ 31 - 1 < t then .error 0x0116 else .ok (leBytes 4 (u32 t))

/-- Adds an FP32 value at a bank (R142). -/
def addF32 (v : Nat) (old : List Byte) : Except Nat (List Byte) := .ok (leBytes 4 (fadd (leNat old) v))

/-- A value added in place at an operand: `acc` 1 int32, 2 FP32. -/
def State.accAt (s : State) (c : Nat) (o : Operand) (acc v : Nat) : Except Nat State :=
  match s.atomicOp c o 4 (if acc = 1 then addI32 v else addF32 v) with
  | .error e => .error e
  | .ok r => .ok r.2

/-- An element of a move added in place. -/
def State.accElem (s : State) (c : Nat) (h : Handle) (off n acc v : Nat) : Except Nat State := s.accAt c { h := h, off := elemOff off n 3 } acc v

/-- Work that keeps what it has done when it meets a fault: the state reached and the fault's status and unit. -/
abbrev Done := State × Option (Nat × Nat)

/-- Work that goes on unless a fault stopped it. -/
def Done.andThen (d : Done) (f : State → Done) : Done := match d.2 with | none => f d.1 | some _ => d

/-- The result of one access by a unit, in the state before it when it faults. -/
def onward {α : Type} (s : State) (unit : Nat) (r : Except Nat α) (go : α → Done) : Done :=
  match r with | .error e => (s, some (e, unit)) | .ok a => go a

/-- The die that holds an element, with the status of its translation. -/
def State.elemDie (s : State) (c : Nat) (h : Handle) (off es n kind : Nat) : Except Nat Nat :=
  match s.extents c { h := h, off := elemOff off n es } (esBytes es) kind with
  | .error e => .error e
  | .ok [] => .ok (coreDie c)
  | .ok ((a, _) :: _) => .ok (dieOfAddr a)

/-- The dies of an element's two ends. -/
def State.endDies (s : State) (c : Nat) (d : Desc) (p : Nat × Nat) : Except Nat (Nat × Nat) :=
  let k := s.core c
  match s.elemDie c (k.cfg.handle d.srcH) d.srcOff d.srcEs p.1 rRD with
  | .error e => .error e
  | .ok a =>
    match s.elemDie c (k.cfg.handle d.dstH) d.dstOff d.dstEs p.2 (if d.acc = 0 then rWR else rATOM) with
    | .error e => .error e
    | .ok b => .ok (a, b)

/-- Bytes of a wide crossing are counted as they leave their die (R194, Table 6.11). -/
def State.countWide (s : State) (c : Nat) (d : Desc) (p : Nat × Nat) : State :=
  match s.endDies c d p, (s.core c).part with
  | .ok (a, b), some q => if a = b then s else s.count q cWideBytes (esBytes d.srcEs) u64Max
  | _, _ => s

/-- A beat one of whose source checks disagrees stores nothing (R426). -/
def Done.orNothing (s : State) (d : Done) : Done :=
  match d.2 with | some e => if statusOf e.1 = 0x0308 then (s, d.2) else d | none => d

/-- Positions cut where the 64-byte beat of the destination changes. -/
def beatRuns (beat : Nat → Nat) : List (Nat × Nat) → List (List (Nat × Nat))
  | [] => []
  | p :: rest =>
    match beatRuns beat rest with
    | (q :: qs) :: more => if beat p.2 = beat q.2 then (p :: q :: qs) :: more else [p] :: (q :: qs) :: more
    | more => [p] :: more

/-- Moves the elements of a list of positions one by one (R283, R286); `wide` says that the move's window is in `WIDE` mode. -/
def State.moveElems (s : State) (c : Nat) (d : Desc) (wide : Bool) : List (Nat × Nat) → Done
  | [] => (s, none)
  | (a, b) :: rest =>
    let k := s.core c
    onward s 3 (s.getElem c (k.cfg.handle d.srcH) d.srcOff d.srcEs a) fun r =>
      let t := if wide then r.2.countWide c d (a, b) else r.2
      onward t 3 (if d.acc = 0 then t.putElem c (k.cfg.handle d.dstH) d.dstOff d.dstEs b r.1
          else t.accElem c (k.cfg.handle d.dstH) d.dstOff b d.acc r.1) fun s => State.moveElems s c d wide rest

/-- Moves elements beat by beat of the destination: what a beat has taken before one of its source checks disagrees is not stored (R426). -/
def State.moveBeats (s : State) (c : Nat) (d : Desc) (wide : Bool) : List (List (Nat × Nat)) → Done
  | [] => (s, none)
  | run :: rest => (Done.orNothing s (s.moveElems c d wide run)).andThen fun s => State.moveBeats s c d wide rest

/-- The destination beat of element `n` of a move. -/
def State.destBeat (s : State) (c : Nat) (d : Desc) (n : Nat) : Nat :=
  (((s.core c).cfg.handle d.dstH).base + elemOff d.dstOff n d.dstEs) / 64

/-- The elements of a group read from the source. -/
def State.readElems (s : State) (c : Nat) (h : Handle) (off es : Nat) : List Nat → Except Nat (List Nat × State)
  | [] => .ok ([], s)
  | n :: rest =>
    match s.getElem c h off es n with
    | .error e => .error e
    | .ok (v, s) =>
      match State.readElems s c h off es rest with
      | .error e => .error e
      | .ok (vs, s) => .ok (v :: vs, s)

/-- Stores elements at a list of positions. -/
def State.writeElems (s : State) (c : Nat) (h : Handle) (off es acc : Nat) : List (Nat × Nat) → Done
  | [] => (s, none)
  | (n, v) :: rest =>
    onward s 3 (if acc = 0 then s.putElem c h off es n v else s.accElem c h off n acc v) fun s => State.writeElems s c h off es acc rest

/-- The statistics entry of a group is updated at its bank, past any cache (R187). -/
def State.updateStats (s : State) (c : Nat) (o : Operand) (g : Group) : Except Nat State :=
  match s.extents c o 8 rRD with
  | .error e => .error e
  | .ok ext => match readExtents s.mem ext with
    | .error e => .error e
    | .ok old => s.writeOp c o (statUpdate old g)

/-- Counts what the sending codec did with a group (Table 6.11). -/
def State.countGroup (s : State) (p : Nat) (zr : Bool) (g : Group) : State :=
  let cells := chunks 16 (g.codes.length + 1) (padCodes g.codes)
  let heads := (cells.filter zrHeader).length
  let s := ((s.tally 21 (some p) 14 1).count p cB4Groups 1 u64Max).count p cB4Clips g.clips u64Max
  if zr then (s.count p cZrHeaders heads u64Max).count p cZrEscapes (cells.length - heads) u64Max else s

/-- The products of the sixteen codes at a scale, as an encoding codec computes them under residues (R184, R195). -/
def State.codeProducts (s : State) (place scale : Nat) : Option (List Int) := (List.range 16).mapM fun c => s.computed (place + c) (b4Product c scale)

/-- A group through the codecs of two dies: encoded at its scale, sent in the window's form, decoded (R183, R184, R193, R199); the products L × m of
both carry residues (R195). Answers the group as it was encoded, if it was, and what arrives. -/
def State.codec (s : State) (w : Window) (src dst place scale : Nat) (bs : List Byte) : Option Group × Except Nat (List Byte) :=
  if s8E scale = 31 then (none, .error 0x0120)
  else
    match s.codeProducts (place + 256) scale with
    | none => (none, .error (residueStatus true src))
    | some ts =>
      let g := encodeBy (fun c => b4Scale scale w.asign (ts.getD c 0)) (bs.map fun b => a8 w.asign b)
      (some g,
        match wireCodes w.zr bs.length (if w.zr then zrGroup scale g else plainGroup scale g) with
        | none => .error 0x0121
        | some cs =>
          match cs.zipIdx.mapM fun c => s.computed (place + c.2) (b4Product c.1 scale) with
          | none => .error (residueStatus true dst)
          | some ts => .ok (ts.map fun t => BitVec.ofInt 8 (b4Scale scale w.asign t)))

/-- The die of the far end of a group's first crossing element: its source's or its destination's. -/
def State.crossDie (s : State) (c : Nat) (d : Desc) (atSource : Bool) (ps : List (Nat × Nat)) : Nat :=
  match ps with
  | [] => coreDie c
  | e :: _ => match s.endDies c d e with | .ok (a, b) => if atSource then a else b | .error _ => coreDie c

/-- The elements of a group that leave their die under the B4 mode of a window, in order, as they arrive: scale, codes, count, statistics, decoded at the
far side (R184 to R187, R193, R199, R211). -/
def State.crossGroup (s : State) (c : Nat) (d : Desc) (w : Window) (j : Nat) (ps : List (Nat × Nat)) : Done × List Nat :=
  let k := s.core c
  let sh := k.cfg.handle d.recH
  match s.readOp c { h := sh, off := (d.recOff + j) % 2 ^ 32 } 1 with
  | .error e => ((s, some (e, 3)), [])
  | .ok r =>
    match r.2.readElems c (k.cfg.handle d.srcH) d.srcOff 1 (ps.map Prod.fst) with
    | .error e => ((r.2, some (e, 3)), [])
    | .ok v =>
      let y := v.2.codec w (s.crossDie c d true ps) (s.crossDie c d false ps) (512 * j) (leNat r.1) (v.1.map fun x => BitVec.ofNat 8 x)
      let t := match k.part, y.1 with | some p, some g => v.2.countGroup p w.zr g | _, _ => v.2
      match y.2 with
      | .error e => ((t, some (e, 6)), [])
      | .ok out =>
        match y.1, d.stat with
        | some g, true => (onward t 3 (t.updateStats c { h := sh, off := (d.statOff + 8 * j) % 2 ^ 32 } g) fun t => (t, none), out.map fun b => b.toNat)
        | _, _ => ((t, none), out.map fun b => b.toNat)

/-- Do an element's two ends lie on different dies? One whose translation fails is left to the access that finds it. -/
def State.parted (s : State) (c : Nat) (d : Desc) (p : Nat × Nat) : Bool :=
  match s.endDies c d p with | .ok (a, b) => a != b | .error _ => false

/-- Two lists of values put together in the order of marks: `far` where the mark is set, `near` elsewhere. -/
def weave : List Bool → List Nat → List Nat → List Nat
  | true :: ms, near, y :: far => y :: weave ms near far
  | false :: ms, x :: near, far => x :: weave ms near far
  | _, _, _ => []

/-- A group of a B4 move: of its elements, those whose ends lie on one die never pass a codec, the others cross encoded (R192); then all are stored in
address-generation order (R286). Elements of a group that lie on several other dies are encoded and counted together, as one group (DEDUCED, log
entry 100). -/
def State.moveGroup (s : State) (c : Nat) (d : Desc) (w : Window) (j : Nat) (g : List (Nat × Nat)) : Done :=
  let far := g.filter fun p => s.parted c d p
  onward s 3 (s.readElems c ((s.core c).cfg.handle d.srcH) d.srcOff 1 ((g.filter fun p => !s.parted c d p).map Prod.fst)) fun near =>
    let x : Done × List Nat := if far.isEmpty then ((near.2, none), []) else near.2.crossGroup c d w j far
    Done.andThen x.1 fun t => t.writeElems c ((s.core c).cfg.handle d.dstH) d.dstOff 1 0
      ((g.map Prod.snd).zip (weave (g.map fun p => s.parted c d p) near.1 x.2))

/-- The groups of a B4 move, one after another. -/
def State.moveGroups (s : State) (c : Nat) (d : Desc) (w : Window) (j : Nat) : List (List (Nat × Nat)) → Done
  | [] => (s, none)
  | g :: rest => (Done.orNothing s (s.moveGroup c d w j g)).andThen fun s => State.moveGroups s c d w (j + 1) rest

/-- The positions of a descriptor's elements in both sides, in address-generation order, as its address generator forms them under residues (R283,
R429). -/
def State.movePairs (s : State) (d : Desc) (dims : List (List Nat)) : Option (List (Nat × Nat)) :=
  (tuples dims).zipIdx.mapM fun t =>
    match s.computed (2 ^ 20 + 2 * t.2) (elementAt d.ss t.1), s.computed (2 ^ 20 + 2 * t.2 + 1) (elementAt d.ds t.1) with
    | some a, some b => some ((a % 2 ^ 32).toNat, (b % 2 ^ 32).toNat)
    | _, _ => none

/-- Carries out an `ENG` 0 descriptor (R283 to R286, R318), its data through the buffer of the `DMA` unit (R426, R432). -/
def State.runMove (s : State) (c greg : Nat) (d : Desc) : Done :=
  let k := s.core c
  let dims := validIndices k greg d
  let hs := [d.srcH, d.dstH] ++ (if s.b4Move c d then [d.recH] else [])
  match s.movePairs d dims with
  | none => (s, some (0x0303, 3))
  | some pairs =>
    let runs := beatRuns (s.destBeat c d) pairs
    if pairs.isEmpty then (s, none)
    else if badHandles k hs then (s, some (0x0103, 3))
    else if cachedKind3 s k hs then (s, some (0x0104, 3))
    else match s.bufferFault 1 c with
      | some e => (s, some (e, 3))
      | none =>
        match s.moveWindow c d with
        | none => s.moveBeats c d false runs
        | some w =>
          if w.cross = 1 then s.moveGroups c d w 0 (groupsOf (groupSize w.gsize) (chunks (dims.headD []).length (pairs.length + 1) pairs))
          else s.moveBeats c d (w.cross == 2) runs

/-- The descriptor that the DMA unit is about to start, or the status that faults it (R288). -/
def State.nextDesc (s : State) (c : Nat) (o : DmaOp) : Except Nat Desc :=
  match s.readOp c { o.desc with off := (o.desc.off + 64 * o.next) % 2 ^ 32 } 64 with
  | .error e => .error e
  | .ok (b, _) =>
    if hasExt b && decide (o.ndesc ≤ o.next + 1) then .error 0x0150
    else
      match s.readOp c { o.desc with off := (o.desc.off + 64 * (o.next + 1)) % 2 ^ 32 } 64 with
      | .error e => if hasExt b then .error e else let d := descOf b []; if s.badDesc c d then .error 0x0150 else
          if misaligned d then .error 0x0102 else .ok d
      | .ok (x, _) =>
        let d := descOf b x
        if s.badDesc c d then .error 0x0150 else if misaligned d then .error 0x0102 else .ok d

/-- The DMA unit stops at a fault and drops its queue (R148). -/
def State.dmaFail (s : State) (c status unit pc : Nat) : State :=
  (s.updCore c fun k => { k with dmaQ := [] }).coreRaise c status unit pc

/-- A descriptor of the operation at the front is done; after the last the instruction completes (R138, R147). -/
def State.dmaDone (s : State) (c slots : Nat) (o : DmaOp) : State :=
  if o.ndesc ≤ o.next + slots then (s.updCore c fun k => { k with dmaQ := k.dmaQ.drop 1 }).signal c o.sig o.pc
  else s.updCore c fun k => { k with dmaQ := { o with next := o.next + slots } :: k.dmaQ.drop 1 }

/-- A descriptor's work, its completion or its fault. -/
def State.dmaFinish (c slots : Nat) (o : DmaOp) (r : Done) : State :=
  match r.2 with
  | none => r.1.dmaDone c slots o
  | some e => r.1.dmaFail c e.1 e.2 o.pc

/-- The DMA unit starts the descriptor at the front when `sel` takes it; an unsound one faults whichever command finds it. -/
def State.dmaStep (s : State) (c : Nat) (sel : DmaOp → Desc → Bool) (run : DmaOp → Desc → Done) : State :=
  match (s.core c).dmaQ with
  | [] => s
  | o :: _ =>
    match s.nextDesc c o with
    | .error e => s.dmaFail c e 3 o.pc
    | .ok d => if sel o d then State.dmaFinish c d.slots o (run o d) else s

/-- Some element of a move has no credit where it goes; a move of none waits for nothing (R196, R310). -/
def State.moveHeld (s : State) (c greg : Nat) (d : Desc) : Bool :=
  match s.movePairs d (validIndices (s.core c) greg d) with
  | none => false
  | some pairs => pairs.any fun e => s.held c { h := (s.core c).cfg.handle d.dstH, off := elemOff d.dstOff e.2 d.dstEs } (esBytes d.dstEs)

/-- A move of the DMA unit; it waits while its destination has no credit (R310, R311). -/
def moveStep (c : Nat) (s : State) : State :=
  s.dmaStep c (fun o d => d.eng == 0 && !s.moveHeld c o.greg d) fun o d => s.runMove c o.greg d

def execMove (core : Nat) (h : Harm) (s : State) : Host.Outcome State Fault Refusal := act (coreOk core) s (moveStep core (s.suffer h))

/-! ### The halo exchange (R139, R281) -/

/-- Logical place of a neighbour: `DIR` 0 north, 1 east, 2 south, 3 west. -/
def neighbourXY (x y dir : Nat) : Option (Nat × Nat) :=
  if dir = 0 then (if y = 0 then none else some (x, y - 1))
  else if dir = 1 then (if x = 15 then none else some (x + 1, y))
  else if dir = 2 then (if y = 15 then none else some (x, y + 1))
  else (if x = 0 then none else some (x - 1, y))

/-- The key of a logical core in a placement. -/
def logicalKey (dieLog x y : Nat) : Nat := dieLog * 256 + 16 * y + x

/-- The physical core of a logical one; 4352 where none is placed. -/
def Placement.core (pl : Placement) (key : Nat) : Nat := mget pl.cores 4352 key

/-- The physical core next to a core in a direction. -/
def State.neighbour (s : State) (c dir : Nat) : Option Nat :=
  let k := s.core c
  match k.part, neighbourXY k.x k.y dir with
  | some p, some (x, y) =>
    let n := (s.part p).placement.core (logicalKey k.dieLog x y)
    if n = 4352 then none else some n
  | _, _ => none

/-- Moves bytes from the oldest send toward a direction into the oldest receive of the neighbour until one of them runs out. -/
def State.pump (s : State) (c dir fuel : Nat) : State :=
  match fuel with
  | 0 => s
  | fuel + 1 =>
    match s.neighbour c dir with
    | none => s
    | some n =>
      let back := (dir + 2) % 4
      match mget (s.core c).haloTx [] dir, mget (s.core n).haloRx [] back with
      | t :: ts, r :: rs =>
        let len := min t.left r.left
        let fail := fun (e : Nat) => (s.updCore c fun k => { k with haloTx := mset k.haloTx [] dir [] }).coreRaise c e 3 t.pc
        if s.routeDown (coreDie c) (coreDie n) then fail 0x0601
        else
          match s.readOp c { t.loc with off := (t.loc.off + t.done) % 2 ^ 32 } len with
          | .error e => fail e
          | .ok (bs, s) =>
            match (s.arrived t.loc.off bs).bind fun got => s.crossed.writeOp n { r.loc with off := (r.loc.off + r.done) % 2 ^ 32 } got with
            | .error e => fail e
            | .ok s =>
              let tx := if t.left = len then ts else { t with left := t.left - len, done := t.done + len } :: ts
              let rx := if r.left = len then rs else { r with left := r.left - len, done := r.done + len } :: rs
              let s := s.updCore c fun k => { k with haloTx := mset k.haloTx [] dir tx }
              let s := s.updCore n fun k => { k with haloRx := mset k.haloRx [] back rx }
              let s := if t.left = len then s.signal c t.sig t.pc else s
              let s := if r.left = len then s.signal n r.sig r.pc else s
              State.pump s c dir fuel
      | _, _ => s

def halDir (w : Nat) : Nat := field w 98 97
def halLen (w : Nat) : Nat := field w 71 54
def halOff (k : Core) (w : Nat) : Nat := effOff k (field w 89 72) (fXA w)

/-- Checks of `HAL` (Table 4.13). -/
def halChecks (k : Core) (w : Nat) : List (Bool × Nat) :=
  [(field w 53 0 != 0 || fXB w != 0, 0x0100), (halOff k w % 64 != 0 || halLen w % 64 != 0, 0x0102),
   (badHandles k [field w 95 90], 0x0103), (wrongKind k (field w 95 90) [0], 0x0104), ((neighbourXY k.x k.y (halDir w)).isNone, 0x0105)]

/-- The send or receive that an instruction queues. -/
def halOp (k : Core) (w : Nat) : HaloOp :=
  { loc := { h := k.cfg.handle (field w 95 90), off := halOff k w }, left := halLen w, done := 0, sig := fSig w, pc := k.pc - 1 }

/-- `HAL` with `RX` = 0: queued behind the earlier sends of its direction, and sent as far as credits reach (R25). -/
def halSendStep (c : Nat) (s : State) : State :=
  s.issue c (fun w => fOpcode w == 0x31 && field w 96 96 == 0) halChecks
    (fun w s => if halLen w ≠ 0 ∧ 4 ≤ (mget (s.core c).haloTx [] (halDir w)).length then some 1 else none) fun w s =>
      if halLen w = 0 then s.signal c (fSig w) ((s.core c).pc - 1)
      else (s.updCore c fun k => { k with haloTx := mset k.haloTx [] (halDir w) (mget k.haloTx [] (halDir w) ++ [halOp k w]) }).pump c (halDir w) 12

/-- `HAL` with `RX` = 1: grants the neighbour credits for its bytes. -/
def halReceiveStep (c : Nat) (s : State) : State :=
  s.issue c (fun w => fOpcode w == 0x31 && field w 96 96 == 1) halChecks
    (fun w s => if halLen w ≠ 0 ∧ 4 ≤ (mget (s.core c).haloRx [] (halDir w)).length then some 1 else none) fun w s =>
      if halLen w = 0 then s.signal c (fSig w) ((s.core c).pc - 1)
      else
        let s := s.updCore c fun k => { k with haloRx := mset k.haloRx [] (halDir w) (mget k.haloRx [] (halDir w) ++ [halOp k w]) }
        match s.neighbour c (halDir w) with
        | none => s
        | some n => s.pump n ((halDir w + 2) % 4) 12

def execHalSend (core : Nat) (h : Harm) (s : State) : Host.Outcome State Fault Refusal := act (coreOk core) s (halSendStep core (s.suffer h))
def execHalReceive (core : Nat) (h : Harm) (s : State) : Host.Outcome State Fault Refusal := act (coreOk core) s (halReceiveStep core (s.suffer h))

/-! ### The memory-operation unit (R117, R141 to R143, R146) -/

/-- What an operation of the unit comes to: the state after it, or the status of its fault with the state that the fault leaves. -/
abbrev MemRun := MemOp → State → State × Option Nat

/-- The unit carries out an operation: it completes, or the job faults (R147). -/
def State.carry (s : State) (c : Nat) (o : MemOp) (run : MemRun) : State :=
  let r := run o s
  match r.2 with
  | none => r.1.signal c o.sig o.pc
  | some e => r.1.coreRaise c e 3 o.pc

/-- The length or count of an instruction of the unit: `LEN` of `FIL` and `CPY`, `COUNT` of `ATM`, `INC` of `CLM` (Tables 4.14, 4.15). -/
def memLength (w : Nat) : Nat :=
  if fOpcode w = 0x40 then field w 60 29 else if fOpcode w = 0x41 then field w 22 0 else if fOpcode w = 0x42 then field w 33 18 else field w 50 35

/-- The bytes that an instruction of the unit writes at its destination. -/
def memBytes (w : Nat) : Nat :=
  if fOpcode w = 0x51 ∨ (fOpcode w = 0x42 ∧ field w 98 96 = 4) then 8 else if fOpcode w = 0x42 then 4 * memLength w else memLength w

/-- An operation waits for a credit where it writes (R310, R311). -/
def State.memHeld (s : State) (c : Nat) (o : MemOp) : Bool := s.held c o.dst (memBytes o.w)

/-- Issue into the unit's queue of depth 4; an instruction of zero length or count enters no queue and completes at once (R117, R147). With `now` the
unit, its queue empty, carries the operation out in the same step. An operation whose destination has no credit waits in the queue (R310, R311). -/
def State.issueMem (s : State) (c : Nat) (sel : Nat → Bool) (checks : Core → Nat → List (Bool × Nat)) (op : Core → Nat → MemOp) (run : MemRun)
    (now : Bool) : State :=
  s.issue c sel checks (fun w s => if memLength w ≠ 0 ∧ 4 ≤ (s.core c).memQ.length then some 1 else none) fun w s =>
    let o := op (s.core c) w
    if memLength w = 0 then s.signal c o.sig o.pc
    else if now && (s.core c).memQ.isEmpty && !s.memHeld c o then s.carry c o run
    else s.updCore c fun k => { k with memQ := k.memQ ++ [o] }

/-- The operation at the front of the unit's queue is carried out, where it is one of the command's. -/
def State.performMem (s : State) (c : Nat) (sel : Nat → Bool) (run : MemRun) : State :=
  match (s.core c).memQ with
  | [] => s
  | o :: rest => if sel o.w && !s.memHeld c o then (s.updCore c fun k => { k with memQ := rest }).carry c o run else s

/-- A command of the unit's instructions, in its phase. -/
def State.memStep (s : State) (c : Nat) (ph : Carry) (sel : Nat → Bool) (checks : Core → Nat → List (Bool × Nat)) (op : Core → Nat → MemOp)
    (run : MemRun) : State :=
  match ph with
  | .whole => s.issueMem c sel checks op run true
  | .issue => s.issueMem c sel checks op run false
  | .perform => s.performMem c sel run

/-! ### Fill and copy (R141) -/

def filOff (k : Core) (w : Nat) : Nat := effOff k (field w 92 61) (fXA w)
def cpyDstOff (k : Core) (w : Nat) : Nat := effOff k (field w 54 23) (fXB w)

/-- Checks of `FIL` (Table 4.14). -/
def filChecks (s : State) (k : Core) (w : Nat) : List (Bool × Nat) :=
  [(field w 23 0 != 0 || fXB w != 0, 0x0100), (filOff k w % 4 != 0 || field w 60 29 % 4 != 0, 0x0102), (badHandles k [field w 98 93], 0x0103),
   (cachedKind3 s k [field w 98 93], 0x0104)]

/-- A fill as the unit holds it: destination and value. -/
def filOp (k : Core) (w : Nat) : MemOp :=
  { w := w, dst := { h := k.cfg.handle (field w 98 93), off := filOff k w }, src := Operand.reset, v0 := k.reg (field w 28 24), v1 := 0, sig := fSig w,
    pc := k.pc - 1 }

/-- `LEN` bytes of the value (R141). -/
def filRun (c : Nat) : MemRun := fun o s =>
  if field o.w 60 29 = 0 then (s, none)
  else
    match s.writeOp c o.dst (List.replicate (field o.w 60 29 / 4) (leBytes 4 o.v0.toNat)).flatten with
    | .error e => (s, some e)
    | .ok t => (t, none)

def filStep (c : Nat) (ph : Carry) (s : State) : State := s.memStep c ph (fun w => fOpcode w == 0x40) (filChecks s) filOp (filRun c)

def execFil (core : Nat) (ph : Carry) (h : Harm) (s : State) : Host.Outcome State Fault Refusal := act (coreOk core) s (filStep core ph (s.suffer h))

/-- Do two handles name one memory? -/
def State.sameMemory (s : State) (k : Core) (a b : Handle) : Bool :=
  a.kind == b.kind &&
    (a.kind != 4 || a.win == b.win ||
      match k.part with
      | none => true
      | some p =>
        let x := s.window p a.win
        let y := s.window p b.win
        !x.isOpen || !y.isOpen || (x.target == y.target && x.unit == y.unit))

/-- Checks of `CPY` (Table 4.14). -/
def cpyChecks (s : State) (k : Core) (w : Nat) : List (Bool × Nat) :=
  let hs := [field w 98 93, field w 60 55]
  [(filOff k w % 4 != 0 || cpyDstOff k w % 4 != 0 || field w 22 0 % 4 != 0, 0x0102), (badHandles k hs, 0x0103),
   (cachedKind3 s k hs || !s.sameMemory k (k.cfg.handle (field w 98 93)) (k.cfg.handle (field w 60 55)), 0x0104)]

/-- Copies beats of 64 bytes in ascending order; `left` bytes remain from `done`. The beats are counted from the first byte copied, where offsets are no
multiples of 64 (DESIGN CHOICE, log entry 98); past the effective offset 2^32 of a window they go on, since R125 wraps only its sum of field and index
register (DEDUCED, log entry 99). -/
def State.copyBeats (s : State) (c : Nat) (src dst : Operand) (done left fuel : Nat) : Done :=
  match fuel with
  | 0 => (s, none)
  | fuel + 1 =>
    if left = 0 then (s, none)
    else
      let n := min 64 left
      onward s 3 (s.readOp c { src with off := src.off + done } n) fun r =>
        onward r.2 3 (r.2.writeOp c { dst with off := dst.off + done } r.1) fun s =>
          State.copyBeats s c src dst (done + n) (left - n) fuel

/-- A copy as the unit holds it. -/
def cpyOp (k : Core) (w : Nat) : MemOp :=
  { w := w, dst := { h := k.cfg.handle (field w 60 55), off := cpyDstOff k w }, src := { h := k.cfg.handle (field w 98 93), off := filOff k w }, v0 := 0,
    v1 := 0, sig := fSig w, pc := k.pc - 1 }

/-- The status of an outcome at the unit; what was done before a fault stays. -/
def Done.mem (d : Done) : State × Option Nat := (d.1, d.2.map Prod.fst)

/-- `LEN` bytes copied. -/
def cpyRun (c : Nat) : MemRun := fun o s => (s.copyBeats c o.src o.dst 0 (field o.w 22 0) (field o.w 22 0 / 64 + 1)).mem

def cpyStep (c : Nat) (ph : Carry) (s : State) : State := s.memStep c ph (fun w => fOpcode w == 0x41) (cpyChecks s) cpyOp (cpyRun c)

def execCpy (core : Nat) (ph : Carry) (h : Harm) (s : State) : Host.Outcome State Fault Refusal := act (coreOk core) s (cpyStep core ph (s.suffer h))

/-! ### Atomics and claims (R142, R143) -/

def atmOp (w : Nat) : Nat := field w 98 96
def atmCount (w : Nat) : Nat := field w 33 18
def atmDstOff (k : Core) (w : Nat) : Nat := effOff k (field w 89 58) (fXA w)
def atmSrcOff (k : Core) (w : Nat) : Nat := effOff k (field w 51 34) (fXB w)
def atmV (w : Nat) : Nat := field w 17 13
def atmRd (w : Nat) : Nat := field w 12 8

/-- Checks of the vector operations. -/
def vectorChecks (s : State) (k : Core) (w : Nat) : List (Bool × Nat) :=
  let hs := [field w 95 90, field w 57 52]
  [(field w 7 0 != 0, 0x0100), (atmDstOff k w % 4 != 0 || atmSrcOff k w % 4 != 0, 0x0102), (badHandles k hs, 0x0103),
   (wrongKind k (field w 57 52) [0, 1, 2] || cachedKind3 s k hs, 0x0104)]

/-- Checks of the scalar operations: no source operand, one element (R131, R134, R142). -/
def scalarAtmChecks (s : State) (k : Core) (w : Nat) : List (Bool × Nat) :=
  let wide := atmOp w == 4
  [(field w 7 0 != 0 || fXB w != 0 || (wide && (field w 17 13 == 31 || field w 12 8 == 31)), 0x0100),
   (atmDstOff k w % (if wide then 8 else 4) != 0, 0x0102), (badHandles k [field w 95 90], 0x0103),
   (field w 57 52 != 0 || field w 51 34 != 0 || decide (1 < atmCount w) || cachedKind3 s k [field w 95 90], 0x0104)]

/-- An atomic as the unit holds it; its operand registers are read at issue. -/
def atmMem (k : Core) (w : Nat) : MemOp :=
  { w := w, dst := { h := k.cfg.handle (field w 95 90), off := atmDstOff k w }, src := { h := k.cfg.handle (field w 57 52), off := atmSrcOff k w },
    v0 := k.reg (atmV w), v1 := k.reg (atmV w + 1), sig := fSig w, pc := k.pc - 1 }

/-- `ATM` of one operation; 5..7 are reserved and refused in every row. -/
def State.atmStep (s : State) (c op : Nat) (ph : Carry) (run : MemRun) : State :=
  s.memStep c ph (fun w => fOpcode w == 0x42 && (atmOp w == op || decide (5 ≤ atmOp w)))
    (fun k w => (decide (5 ≤ atmOp w), 0x0100) :: (if op ≤ 1 then vectorChecks s k w else scalarAtmChecks s k w)) atmMem
    fun o s => if atmCount o.w = 0 then (s, none) else run o s

/-- Adds `left` elements from `n`, in ascending order: each source element is read when the one before it has been added (R142, R163). Past the
effective offset 2^32 the elements go on as the bytes of a copy do (DEDUCED, log entry 99). -/
def State.addElems (s : State) (c : Nat) (src dst : Operand) (acc n : Nat) : Nat → Done
  | 0 => (s, none)
  | left + 1 =>
    onward s 3 (s.readOp c { src with off := src.off + 4 * n } 4) fun r =>
      onward r.2 3 (r.2.accAt c { dst with off := dst.off + 4 * n } acc (leNat r.1)) fun s => State.addElems s c src dst acc (n + 1) left

/-- A vector add of 32-bit elements from a local source. -/
def vectorAdd (c acc : Nat) : MemRun := fun o s =>
  let n := 4 * atmCount o.w
  (Done.andThen (s.addElems c o.src o.dst acc 0 (atmCount o.w)) fun s => ((s.tallyOp c o.src n rRD).tallyOp c o.dst n rATOM, none)).mem

/-- A scalar operation on one element of `n` bytes; `f` gives the new bytes and `back` stores the old ones, as the operation completes (R146). -/
def scalarAtm (c n : Nat) (f : MemOp → List Byte → Except Nat (List Byte)) (back : MemOp → List Byte → State → State) : MemRun := fun o s =>
  match s.atomicOp c o.dst n (f o) with
  | .error e => (s, some e)
  | .ok r => (back o r.1 (r.2.tallyOp c o.dst n rATOM), none)

/-- The old word goes to s[RD]. -/
def oldWord (c : Nat) (o : MemOp) (bs : List Byte) (s : State) : State := s.setReg c (atmRd o.w) (BitVec.ofNat 32 (leNat bs))

/-- The new bytes of a scalar add, of a swap of 32 bits and of one of 64. -/
def addNew (o : MemOp) (old : List Byte) : Except Nat (List Byte) := addI32 o.v0.toNat old
def swapNew32 (o : MemOp) (_ : List Byte) : Except Nat (List Byte) := .ok (leBytes 4 o.v0.toNat)
def swapNew64 (o : MemOp) (_ : List Byte) : Except Nat (List Byte) := .ok (leBytes 4 o.v0.toNat ++ leBytes 4 o.v1.toNat)

/-- The old double word goes to s[RD] and s[RD + 1]. -/
def oldDouble (c : Nat) (o : MemOp) (bs : List Byte) (s : State) : State :=
  (oldWord c o (bs.take 4) s).setReg c (atmRd o.w + 1) (BitVec.ofNat 32 (leNat (bs.drop 4)))

def execVectorAddInt32 (core : Nat) (ph : Carry) (h : Harm) (s : State) : Host.Outcome State Fault Refusal :=
  act (coreOk core) s ((s.suffer h).atmStep core 0 ph (vectorAdd core 1))
def execVectorAddFp32 (core : Nat) (ph : Carry) (h : Harm) (s : State) : Host.Outcome State Fault Refusal :=
  act (coreOk core) s ((s.suffer h).atmStep core 1 ph (vectorAdd core 2))
def execScalarAddInt32 (core : Nat) (ph : Carry) (h : Harm) (s : State) : Host.Outcome State Fault Refusal :=
  act (coreOk core) s ((s.suffer h).atmStep core 2 ph (scalarAtm core 4 addNew (oldWord core)))
def execSwap32 (core : Nat) (ph : Carry) (h : Harm) (s : State) : Host.Outcome State Fault Refusal :=
  act (coreOk core) s ((s.suffer h).atmStep core 3 ph (scalarAtm core 4 swapNew32 (oldWord core)))
def execSwap64 (core : Nat) (ph : Carry) (h : Harm) (s : State) : Host.Outcome State Fault Refusal :=
  act (coreOk core) s ((s.suffer h).atmStep core 4 ph (scalarAtm core 8 swapNew64 (oldDouble core)))

/-- Checks of `CLM` (Table 4.15). -/
def clmChecks (s : State) (k : Core) (w : Nat) : List (Bool × Nat) :=
  [(field w 24 0 != 0 || fXB w != 0, 0x0100), (filOff k w % 8 != 0, 0x0102), (badHandles k [field w 98 93], 0x0103),
   (wrongKind k (field w 98 93) [3, 4] || cachedKind3 s k [field w 98 93], 0x0104)]

/-- A claim as the unit holds it: counter, epoch expected and limit. -/
def clmOp (k : Core) (w : Nat) : MemOp :=
  { w := w, dst := { h := k.cfg.handle (field w 98 93), off := filOff k w }, src := Operand.reset, v0 := k.reg (field w 60 56), v1 := k.reg (field w 55 51),
    sig := fSig w, pc := k.pc - 1 }

/-- The claim at the bank: status, the value returned, and the counter after it (R143). -/
def claim (epoch limit inc : Nat) (old : List Byte) : Nat × Nat × List Byte :=
  let index := leNat (old.take 4)
  let e := leNat (old.drop 4)
  if e ≠ epoch then (1, e, old)
  else if limit ≤ index then (2, index, old)
  else (0, index, leBytes 4 (min (index + inc) 0xFFFFFFFF) ++ old.drop 4)

/-- The claim performed, its results in the scalar registers; an `INC` of 0 writes none (R143). -/
def clmRun (c : Nat) : MemRun := fun o s =>
  let cl := fun old => claim o.v0.toNat o.v1.toNat (field o.w 50 35) old
  if field o.w 50 35 = 0 then (s, none)
  else
    match s.atomicOp c o.dst 8 fun old => .ok (cl old).2.2 with
    | .error e => (s, some e)
    | .ok r =>
      let a := cl r.1
      (((r.2.tallyOp c o.dst 8 rATOM).setReg c (field o.w 29 25) (BitVec.ofNat 32 a.1)).setReg c (field o.w 34 30) (BitVec.ofNat 32 a.2.1), none)

def clmStep (c : Nat) (ph : Carry) (s : State) : State := s.memStep c ph (fun w => fOpcode w == 0x51) (clmChecks s) clmOp (clmRun c)

def execClm (core : Nat) (ph : Carry) (h : Harm) (s : State) : Host.Outcome State Fault Refusal := act (coreOk core) s (clmStep core ph (s.suffer h))

end Sys2Proof.Machine
end

