-- ==== Sys2Proof/Machine/Fabric.lean ====
section
/-! DEFINITION. Beats and credits between units, Causeway links and package DRAM (R304 to R324). -/

namespace Sys2Proof.Machine

/-! ### Remote writes, remote reads, credits (R310, R311, R316, R318, R426) -/

/-- Bytes of a `WIDE` crossing between two dies are counted (R194, Table 6.11). -/
def State.countCrossing (s : State) (p src dst : Nat) (w : Window) (n : Nat) : State :=
  if w.cross = 2 ∧ src ≠ dst then s.count p cWideBytes n u64Max else s

/-- Work that ends in a value or in a status, with the state that it leaves either way. -/
abbrev Tried (α : Type) := State × Except Nat α

/-- Goes on from a value. -/
def Tried.andThen {α β : Type} (r : Tried α) (f : State → α → Tried β) : Tried β :=
  match r.2 with | .error e => (r.1, .error e) | .ok a => f r.1 a

/-- The groups of a transfer as they cross from die to die: each with the scale that came with it, counted as it is encoded, noted by `note`, and as its
far side decodes it (R184, R187, R193, R211). -/
def crossGroups (p src dst : Nat) (w : Window) (scales : List Nat) (note : Nat → Group → State → Except Nat State) (j : Nat) :
    List (List Byte) → State → Tried (List Byte)
  | [], s => (s, .ok [])
  | bs :: rest, s =>
    let y := s.codec w src dst (512 * j) (scales.getD j (scales.getLastD 0)) bs
    let t := match y.1 with | none => s | some g => s.countGroup p w.zr g
    match y.2, y.1 with
    | .ok out, some g =>
      match note j g t with
      | .error e => (t, .error e)
      | .ok t => Tried.andThen (crossGroups p src dst w scales note (j + 1) rest t) fun t more => (t, .ok (out ++ more))
    | .ok _, none => (t, .ok [])
    | .error e, _ => (t, .error e)

/-- Bytes of a transfer as they come out of the codecs of a `B4` window, the first of which tests their beats' checks before it transforms them (R426);
bytes that carry no scale, or that stay on their die, do not pass a codec (R192). -/
def State.throughB4 (s : State) (p src dst a : Nat) (w : Window) (scales : List Nat) (note : Nat → Group → State → Except Nat State)
    (bs : List Byte) : Tried (List Byte) :=
  if w.cross ≠ 1 ∨ src = dst ∨ scales = [] then (s, .ok bs)
  else match s.arrived a bs with
    | .error e => (s, .error e)
    | .ok bs => crossGroups p src dst w scales note 0 (chunks (groupSize w.gsize) (bs.length + 1) bs) s.crossed

/-- The statistics operand that came with a write beat, a handle and an offset: the entry of each group is updated (R187). -/
def noteStats (c : Nat) (stat : Option (Nat × Nat)) (j : Nat) (g : Group) (s : State) : Except Nat State :=
  match stat with
  | none => .ok s
  | some (h, o) => s.updateStats c { h := (s.core c).cfg.handle h, off := (o + 8 * j) % 2 ^ 32 } g

/-- One more credit of a reservation, or of a core's share of the local pool, is in use. -/
def State.takeCredit (s : State) (p key : Nat) : State :=
  s.updPart p fun q => { q with credits := mset q.credits 0 key (mget q.credits 0 key + 1) }

/-- A write beat of a core's unit into the die store of its die, through a handle of `KIND` 3: against one of the four credits that the core holds of the
local pool (R25, R310). -/
def storeBeat (c p off : Nat) (data : List Byte) (s : State) : State :=
  if s.cached p then s.coreRaise c 0x0104 3 0
  else if 4 ≤ mget (s.part p).credits 0 (poolKey c) then s
  else
    let s := s.takeCredit p (poolKey c)
    let ext := localExtents (storeBase (coreDie c)) (2 ^ 26) 2 off data.length
    match s.deposit (coreDie c) (some p) true false ext data with
    | .error e => s.coreRaise c e 3 0
    | .ok s => s.tallyAccess (some p) ext

/-- One write beat of a core's unit: at most 64 bytes that do not leave their beat. It is translated and checked, takes a credit of its
die's reservation, crosses in its window's mode and is stored; without a credit it waits at its source (R310, R316, R318). The window number 256
stands for the die store of the core's die. A job that stops takes no new credit (R150, R375). -/
def remoteWriteStep (c win off : Nat) (data : List Byte) (scales : List Nat) (stat : Option (Nat × Nat)) (s : State) : State :=
  match (s.core c).part with
  | none => s
  | some p =>
    if data.isEmpty ∨ 64 < off % 64 + data.length ∨ 3 ≤ s.jobState p then s
    else if win = 256 then storeBeat c p off data s
    else
      let die := coreDie c
      let w := s.window p win
      match s.windowAt die p win off data.length rWR with
      | .error e => s.coreRaise c e 3 0
      | .ok ext =>
        let a := firstAddr ext
        let key := creditKey win die (creditTower a)
        let loc := ownScratch c a
        if !loc && decide (w.credits ≤ mget (s.part p).credits 0 key) then s
        else
          let s := if loc then s else s.takeCredit p key
          let r := s.throughB4 p die (dieOfAddr a) a w scales (noteStats c stat) data
          match r.2 with
          | .error e => r.1.coreRaise c e 6 0
          | .ok data =>
            let s := r.1.countCrossing p die (dieOfAddr a) w data.length
            match s.deposit die (some p) (!loc) true ext data with
            | .error e => s.coreRaise c e 3 0
            | .ok s => s.tallyAccess (some p) ext

def execRemoteWrite (core win off : Nat) (data : List Byte) (scales : List Nat) (stat : Option (Nat × Nat)) (h : Harm) (s : State) :
    Host.Outcome State Fault Refusal :=
  act (coreOk core && (winOk win || win == 256)) s (remoteWriteStep core win off data scales stat (s.suffer h))

/-- One read of a core's unit: it is translated and checked, and answered by the destination, through the die's cache in cached mode (R298,
R311, R316, R320); a job that stops reads no more (R375). -/
def remoteReadStep (c win off len : Nat) (scales : List Nat) (s : State) : State :=
  match (s.core c).part with
  | none => s
  | some p =>
    let die := coreDie c
    if 3 ≤ s.jobState p then s
    else match s.windowAt die p win off len rRD with
    | .error e => s.coreRaise c e 3 0
    | .ok ext =>
      let a := firstAddr ext
      match s.receive (!ownScratch c a) ext (if s.cached p then s.cachedExtents p die ext else (readExtents s.mem ext).map fun bs => (bs, s)) with
      | .error e => s.coreRaise c e 3 0
      | .ok r =>
        let t := (if s.cached p then r.2 else r.2.tallyAccess (some p) ext).throughB4 p (dieOfAddr a) die a (s.window p win) scales (fun _ _ s => .ok s) r.1
        match t.2 with
        | .error e => t.1.coreRaise c e 6 0
        | .ok _ => t.1.countCrossing p (dieOfAddr a) die (s.window p win) len

def execRemoteRead (core win off len : Nat) (scales : List Nat) (h : Harm) (s : State) : Host.Outcome State Fault Refusal :=
  act (coreOk core && winOk win) s (remoteReadStep core win off len scales (s.suffer h))

/-- What a credit returned belongs to: the reservation of a window, source die and tower, or, with the window number 256, the local pool's share of the
core that `src` names. -/
def returnKey (win src tower : Nat) : Nat := if win = 256 then poolKey src else creditKey win src tower

/-- The endpoint returns one credit of a source die's reservation, or of a core's share of its local pool (R310). -/
def creditReturnStep (p win src tower : Nat) (s : State) : State :=
  let key := returnKey win src tower
  s.updPart p fun q => { q with credits := mset q.credits 0 key (mget q.credits 0 key - 1) }

def execCreditReturn (p win src tower : Nat) (s : State) : Host.Outcome State Fault Refusal :=
  act (partOk p && creditOk win src tower) s (creditReturnStep p win src tower s)

/-! ### Flits (R305, R306) -/

/-- The other direction of a link. -/
def oppositeKey (k : Nat) : Nat := if k % 2 = 0 then k + 1 else k - 1

/-- A link direction is up, whole or stepped down (Table 10.12), and starts flits unless it drains for a lane substitution (R307). -/
def LinkDir.up (l : LinkDir) : Bool := l.state == 2 || l.state == 3
def LinkDir.flows (l : LinkDir) : Bool := l.up && l.retrain == 0

/-- A data lane in service is charged with a mismatch; the sixteenth within a tick marks it failing (R306, R307). -/
def LinkDir.chargeLane (l : LinkDir) (lane : Nat) : LinkDir :=
  if 64 ≤ lane ∨ l.dead.contains lane then l
  else
    let n := mget l.charge 0 lane + 1
    { l with charge := mset l.charge 0 lane n, failing := if n = 16 ∧ !l.failing.contains lane then l.failing ++ [lane] else l.failing }

/-- The 64-bit words of a flit: word w holds the bits of unit interval w, bit n on lane n (DEDUCED, log entry 22). -/
def flitWords (bs : List Byte) : List Nat := (List.range 34).map fun w => leNat ((bs.drop (8 * w)).take 8)

/-- The parity of every lane over the words of a flit. -/
def laneParity (ws : List Nat) : Nat := ws.foldl (· ^^^ ·) 0

/-- The link check of a flit: CRC-32C over bytes 0..3 and 16..271 (Table 10.2). -/
def flitCrc (bs : List Byte) : Nat := crc32c (bs.take 4 ++ bs.drop 16)

/-- The 272 bytes of a flit as its sender makes them (Table 10.2). -/
def flitBytes (f : SentFlit) (seq ack : Nat) (replay : Bool) : List Byte :=
  let body := f.payload.take 256 ++ List.replicate (256 - f.payload.length) 0
  let head := [BitVec.ofNat 8 (f.vc % 4 * 64 + seq % 64), BitVec.ofNat 8 (bit replay * 64 + ack % 64)] ++ leBytes 2 f.lcred
  let bare := head ++ leBytes 4 (crc32c (head ++ body)) ++ leBytes 8 0 ++ body
  bare.take 8 ++ leBytes 8 (laneParity (flitWords bare)) ++ bare.drop 16

/-- Bytes some of whose bits flip on the lanes. -/
def flipBits (bs : List Byte) (flips : List Nat) : List Byte :=
  if flips.isEmpty then bs
  else bs.zipIdx.map fun e => flips.foldl (fun b i => if i / 8 = e.2 then b ^^^ BitVec.ofNat 8 (2 ^ (i % 8)) else b) e.1

/-- The lanes whose `LPAR` bit disagrees. -/
def badLanes (bs : List Byte) : List Nat := let x := laneParity (flitWords bs); (List.range 64).filter fun n => x.testBit n

/-- A flit whose `LCRC` does not match: it and every later flit are discarded until the sender replays (R306). -/
def LinkDir.mismatch (l : LinkDir) (bad : List Nat) : LinkDir :=
  bad.foldl LinkDir.chargeLane { l with discarding := true, crcErrs := satAdd 0xFFFF l.crcErrs 1 }

/-- How far a sequence number lies before the one next expected, modulo 64. -/
def behind (expect seq : Nat) : Nat := (expect + 64 - seq % 64) % 64

/-- A sound flit at the receiver: the one expected is accepted, one of the 32 before it is a duplicate, any other waits for the replay. -/
def LinkDir.accept (l : LinkDir) (seq : Nat) : LinkDir :=
  if behind l.expect seq = 0 then { l with expect := (l.expect + 1) % 64, discarding := false, flits := min u64Max (l.flits + 1) }
  else if behind l.expect seq ≤ 32 then l
  else { l with discarding := true }

/-- The number of the oldest flit kept. -/
def LinkDir.oldest (l : LinkDir) : Nat := (l.sent + 64 - l.kept.length % 64) % 64

/-- What a sound flit says of the far direction to its sender: the flits acknowledged are kept no longer, and a replay from the flit after them begins
where one is asked for and none runs (R305, R306). It is a count of flits, so that a flit discarded for its place may say it too. -/
def LinkDir.acknowledged (l : LinkDir) (ack : Nat) (replay : Bool) : LinkDir :=
  let n := (ack % 64 + 65 - l.oldest) % 64
  let l := if n ≤ l.kept.length then { l with kept := l.kept.drop n, resend := l.resend - n } else l
  if replay ∧ !l.replaying ∧ l.kept ≠ [] then { l with replaying := true, resend := 0 } else l

/-- Link-level credits come back to their channel, once for each flit accepted: a flit discarded gives none (R306). -/
def LinkDir.credited (l : LinkDir) (lcred : Nat) : LinkDir :=
  { l with lcred := mset l.lcred 0 (lcred / 2 ^ 14 % 4) (mget l.lcred 0 (lcred / 2 ^ 14 % 4) + lcred % 2 ^ 14) }

/-- What the sender starts in a slot: the next flit of a running replay, or a new one while fewer than 32 are unacknowledged; none otherwise. With the
flit and its number, the sender after it. -/
def LinkDir.start (l : LinkDir) (f : SentFlit) : Option (SentFlit × Nat × LinkDir) :=
  if l.replaying then
    match l.kept.drop l.resend with
    | [] => none
    | g :: rest => some (g, l.oldest + l.resend, { l with resend := l.resend + 1, replaying := !rest.isEmpty })
  else if 32 ≤ l.kept.length then none
  else some (f, l.sent, { l with sent := (l.sent + 1) % 64, kept := l.kept ++ [f] })

/-- A flit crosses a link direction: sent with the last number its port received in order, received, checked, accepted in sequence, discarded, or answered
by a replay (R306). -/
def flitStep (k : Nat) (f : Flit) (s : State) : State :=
  let back := s.link (oppositeKey k)
  if !((s.link k).flows && back.flows) then s
  else
    match (s.link k).start { vc := f.vc % 4, lcred := f.lcred % 2 ^ 16, payload := f.payload.take 256 } with
    | none => s
    | some (g, seq, l) =>
      let bs := flipBits (flitBytes g seq (back.expect + 63) back.discarding) f.flips
      let s := (s.updLink k fun _ => l).tally 21 f.cause 13 1
      if flitCrc bs ≠ leNat ((bs.drop 4).take 4) then s.updLink k fun l => l.mismatch (badLanes bs)
      else
        let b0 := (bs.getD 0 0).toNat
        let b1 := (bs.getD 1 0).toNat
        let taken := behind (s.link k).expect (b0 % 64) = 0
        (s.updLink k fun l => l.accept (b0 % 64)).updLink (oppositeKey k) fun l =>
          let l := l.acknowledged b1 (b1.testBit 6)
          if taken then l.credited (leNat ((bs.drop 2).take 2)) else l

def execFlit (link : Nat) (dir : Bool) (f : Flit) (s : State) : Host.Outcome State Fault Refusal :=
  act (linkOk link) s (flitStep (linkKey link dir) f s)

/-! ### Lane substitution and step-down (R307, R308) -/

/-- The die of the receiving port of a link direction. -/
def portDie (k : Nat) : Nat := let e := Config.linkEnds (k / 2); if k % 2 = 0 then e.1 else e.2

/-- A link alarm: [15:8] what happened, [7:0] the link (Table 17.3). -/
def State.linkAlarm (s : State) (k what : Nat) : State :=
  s.alarm 8 (what * 256 + k / 2) (alarmSource (portDie k) none (Config.unitNumber (portDie k) 6 k).toNat)

/-- The failing lanes take the next spares; a spare that itself failed leaves service (64). -/
def LinkDir.substitute (l : LinkDir) : LinkDir :=
  { l with spares := (l.spares.map fun x => if l.failing.contains x then 64 else x) ++ l.failing, failing := [], retrain := 0, state := 2,
           retrains := satAdd 255 l.retrains 1 }

/-- The failing lanes leave service for good. -/
def LinkDir.bury (l : LinkDir) : LinkDir := { l with dead := l.dead ++ l.failing, failing := [], retrain := 0, retrains := satAdd 255 l.retrains 1 }

/-- A link goes down whole (R308). -/
def LinkDir.goDown (l : LinkDir) : LinkDir := { l with state := 0, lanes := 0, down := true }

/-- Failing lanes of a direction, the link drained and retrained for 2 ticks: spares, or a step-down to 32 good lanes, or the link is down (R307,
R308). -/
def laneSubstStep (k : Nat) (s : State) : State :=
  let l := s.link k
  if l.failing.isEmpty ∨ l.retrain < 4 then s
  else if l.lanes = 64 ∧ l.spares.length + l.failing.length ≤ 4 then (s.updLink k LinkDir.substitute).linkAlarm k 1
  else
    let d := l.bury
    if 32 ≤ 64 - d.dead.length then
      ((s.updLink k fun _ => { d with state := 3, lanes := 32, stepped := true }).linkAlarm k 2).replaceMe
    else
      (((s.updLink k fun _ => d.goDown).updLink (oppositeKey k) LinkDir.goDown).linkAlarm k 3).replaceMe

def execLaneSubstitution (link : Nat) (dir : Bool) (s : State) : Host.Outcome State Fault Refusal :=
  act (linkOk link) s ((laneSubstStep (linkKey link dir) s).spareAlarm s)

/-- A hub read of `CWY_FLITS_LO` latches the high half (R324). -/
def cwyFlitsLoStep (port : Nat) (s : State) : State :=
  (s.updLink port fun l => { l with flitsHi := l.flits / 2 ^ 32 % 2 ^ 32 }).updHub fun h => { h with hubRead := (s.link port).flits % 2 ^ 32 }

/-- A read of a Causeway port's register block (Tables 10.11, 10.12); a port is the receiving end of a link direction. -/
def State.cwyReg (s : State) (k off : Nat) : Nat :=
  let l := s.link k
  if off = 0x000 then portDie (oppositeKey k) * 2 ^ 16 + portDie k * 2 ^ 8 + k / 2
  else if off = 0x004 then l.state % 16 * 2 ^ 28 + l.lanes % 128 * 2 ^ 21 + (l.spares.filter fun x => x != 64).length * 2 ^ 18 + bit l.replaying * 2 ^ 17
  else if off = 0x008 then
    (l.spares.zipIdx.map fun e => if e.1 = 64 ∨ 4 ≤ e.2 then 0 else (128 + e.1) * 2 ^ (8 * e.2)).sum
  else if off = 0x00C then l.crcErrs % 2 ^ 16 * 2 ^ 16 + l.retrains % 256 * 2 ^ 8 + l.worst % 64 * 4 + bit l.stepped * 2 + bit l.down
  else if off = 0x010 then l.flits % 2 ^ 32
  else if off = 0x014 then l.flitsHi
  else 0

def execCwyFlitsLo (port : Nat) (s : State) : Host.Outcome State Fault Refusal := act (cwyPortOk port) s (cwyFlitsLoStep port s)

/-! ### Package DRAM (R319 to R322) -/

/-- A row due is copied and switched to a spare row (R321). -/
def rowRemapStep (tower row : Nat) (s : State) : State :=
  let t := s.tower tower
  if 4 ≤ mget t.rowReads 0 row ∧ t.inService.contains (row % 32) ∧ t.rowsLeft tower (row % 32) ≠ 0 then
    s.updTower tower fun t =>
      { t with remapped := satAdd 0xFFFFFFFF t.remapped 1, remappedRows := t.remappedRows ++ [row], rowReads := mset t.rowReads 0 row 0 }
  else s

def execRowRemap (tower row : Nat) (s : State) : Host.Outcome State Fault Refusal := act (towerOk tower) s (rowRemapStep tower row s)

/-- A channel with a row due and no spare row left goes to the tower's spare channel; with none left, its reads fault from now on and the
device asks to be replaced (R28, R321). -/
def channelRetireStep (tower ch : Nat) (s : State) : State :=
  let t := s.tower tower
  if t.rowReads.any (fun e => e.1 % 32 == ch && decide (4 ≤ e.2)) ∧ t.inService.contains ch ∧ t.rowsLeft tower ch = 0 ∧ !t.failed.contains ch then
    let clear (t : Tower) : Tower := { t with rowReads := mdrop t.rowReads fun r => r % 32 == ch }
    if t.spareUsed then (s.updTower tower fun t => { clear t with failed := t.failed ++ [ch] }).replaceMe
    else s.updTower tower fun t => { clear t with spareUsed := true, inService := t.inService.map fun c => if c = ch then 16 else c }
  else s

def execChannelRetire (tower channel : Nat) (s : State) : Host.Outcome State Fault Refusal :=
  act (towerOk tower) s ((channelRetireStep tower channel s).spareAlarm s)

/-- The patrol reads a beat of which so many bytes are wrong; its corrections are treated as those of reads (R320, R322). -/
def dramPatrolStep (tower beat wrong : Nat) (s : State) : State :=
  let a := towerBase tower + beat * 64
  let s := s.updTower tower fun t => { t with patrolBeat := beat + 1 }
  if (s.tower tower).channels * 3 * 2 ^ 30 ≤ beat * 64 then s
  else if 2 < wrong ∨ s.mem.bad.contains a then
    ((s.setMem (s.mem.spoil a)).badTower (badStatus a)).outsideFault none (dieOfAddr a) { FaultRec.reset with status := badStatus a, unit := 7 }
  else s.dramRead tower beat wrong

def execDramPatrol (tower beat wrongBytes : Nat) (s : State) : Host.Outcome State Fault Refusal :=
  act (towerOk tower) s (dramPatrolStep tower beat wrongBytes s)

end Sys2Proof.Machine
end

