-- ==== Sys2Proof/Machine/Lms.lean ====
section
/-! DEFINITION. LMS key pairs and signatures of type `LMS_SHA256_M32_H15` with `LMOTS_SHA256_N32_W8`, as RFC 8554 gives them (R450, R452, R454). -/

namespace Sys2Proof.Machine

/-- A number's bytes, most significant first. -/
def beU32 (v : Nat) : List Byte := (leBytes 4 v).reverse
def beU16 (v : Nat) : List Byte := (leBytes 2 v).reverse

/-- The type codes of the one parameter set that the device signs with: `LMS_SHA256_M32_H15`, `LMOTS_SHA256_N32_W8`. -/
abbrev lmsH15 : Nat := 7
abbrev lmotsW8 : Nat := 4

/-- A key pair: its seed of 32 bytes and its identifier `I` of 16. -/
structure LmsKey where
  seed : List Byte
  ident : List Byte
deriving DecidableEq, Repr

/-- The 32 bytes of a hash. -/
def lmsHash (m : List Byte) : List Byte := let h := sha256 m; (List.range 32).map fun i => h.getD i 0

/-- Element `i` of the one-time private key of leaf q (Appendix A). -/
def LmsKey.secret (k : LmsKey) (q i : Nat) : List Byte := lmsHash (k.ident ++ beU32 q ++ beU16 i ++ [0xFF] ++ k.seed)

/-- So many steps of chain `i` of leaf q, from step `j` on. -/
def LmsKey.chain (k : LmsKey) (q i : Nat) : Nat → Nat → List Byte → List Byte
  | 0, _, x => x
  | n + 1, j, x => LmsKey.chain k q i n (j + 1) (lmsHash (k.ident ++ beU32 q ++ beU16 i ++ [BitVec.ofNat 8 j] ++ x))

/-- The one-time public key of leaf q: the ends of its 34 chains. -/
def LmsKey.oneTime (k : LmsKey) (q : Nat) : List Byte :=
  lmsHash (k.ident ++ beU32 q ++ [0x80, 0x80] ++ (List.range 34).flatMap fun i => k.chain q i 255 0 (k.secret q i))

/-- Node `r` of the tree, so many levels above the leaves. -/
def LmsKey.node (k : LmsKey) : Nat → Nat → List Byte
  | 0, r => lmsHash (k.ident ++ beU32 r ++ [0x82, 0x82] ++ k.oneTime (r - 2 ^ 15))
  | h + 1, r => lmsHash (k.ident ++ beU32 r ++ [0x83, 0x83] ++ LmsKey.node k h (2 * r) ++ LmsKey.node k h (2 * r + 1))

/-- The public key: type codes, `I` and the root, 56 bytes. -/
def LmsKey.pub (k : LmsKey) : List Byte := beU32 lmsH15 ++ beU32 lmotsW8 ++ (List.range 16).map (fun i => k.ident.getD i 0) ++ k.node 15 1

/-- The digits that a message signs: the bytes of its hash under the randomizer C, then its checksum. -/
def LmsKey.digits (k : LmsKey) (q : Nat) (c m : List Byte) : List Nat :=
  let h := (lmsHash (k.ident ++ beU32 q ++ [0x81, 0x81] ++ c ++ m)).map BitVec.toNat
  let sum := (h.map fun x => 255 - x).sum
  h ++ [sum / 256, sum % 256]

/-- The one-time signature of a message by leaf q: type, randomizer, 34 chain elements; 1,124 bytes. -/
def LmsKey.oneTimeSign (k : LmsKey) (q : Nat) (c m : List Byte) : List Byte :=
  let d := k.digits q c m
  beU32 lmotsW8 ++ c ++ (List.range 34).flatMap fun i => k.chain q i (d.getD i 0) 0 (k.secret q i)

/-- The signature of a message by leaf q: leaf number, one-time signature, type, and the 15 nodes beside the leaf's path; 1,612 bytes. -/
def LmsKey.sign (k : LmsKey) (q : Nat) (c m : List Byte) : List Byte :=
  beU32 q ++ k.oneTimeSign q c m ++ beU32 lmsH15 ++ (List.range 15).flatMap fun i =>
    let r := (2 ^ 15 + q) / 2 ^ i
    k.node i (if r % 2 = 0 then r + 1 else r - 1)

end Sys2Proof.Machine
end

