-- ==== Sys2Proof/Machine/Product.lean ====
section
/-! DEFINITION. Products: issue, preload, page switch, start, steps, repeats and scrubs, completion and drain (R41 to R57, R102 to R105,
R133 to R135, R151 to R168). -/

namespace Sys2Proof.Machine

/-! ### Issue (Table 4.11) -/

def pMacro (w : Nat) : Nat := field w 98 95
def pInit (w : Nat) : Nat := field w 75 74
def pDrain (w : Nat) : Nat := field w 73 72
def pInH (w : Nat) : Nat := field w 71 66
def pOutH (w : Nat) : Nat := field w 47 42
def pRqH (w : Nat) : Nat := field w 23 18
def pOutOff (k : Core) (w : Nat) : Nat := effOff k (field w 41 24) (fXB w)
def pInOff (k : Core) (w : Nat) : Nat := effOff k (field w 65 48) (fXA w)

/-- Handles a product names (R124). -/
def productHandles (w : Nat) : List Nat :=
  [pInH w] ++ (if pInit w = 1 ∨ pDrain w ≠ 0 then [pOutH w] else []) ++ (if pDrain w = 2 then [pRqH w] else [])

/-- Issue checks of `MVM` and `MVT` (R133, R134). -/
def productChecks (k : Core) (w : Nat) : List (Bool × Nat) :=
  [(pInit w == 3 || pDrain w == 3, 0x0100),
   (pInOff k w % 64 != 0 || pOutOff k w % 64 != 0 || field w 17 0 % 64 != 0, 0x0102),
   (badHandles k (productHandles w), 0x0103),
   ((pInit w == 1 && pDrain w == 2) || wrongKind k (pInH w) [0] || ((pInit w == 1 || pDrain w == 1) && wrongKind k (pOutH w) [1]) ||
      (pDrain w == 2 && (wrongKind k (pOutH w) [0] || wrongKind k (pRqH w) [0])), 0x0104)]

/-- The head blocks that `n` entries from a partial-sum address touch (R122). -/
def headBlocks (a n : Nat) : List Nat :=
  (List.range 16).filter fun b => (localExtents 0 0x20000 2 a (4 * n)).any fun e => decide (e.1 < (b + 1) * 1024 ∧ b * 1024 < e.1 + e.2)

/-- The product that an instruction queues. Its head blocks are those of the output count that its page's format gives at issue, which an earlier queued
`WPG` can still change (DESIGN CHOICE, log entry 93); with K = 0 it makes no preload and no drain (R55). -/
def productIns (rev : Bool) (m : Macro) (k : Core) (w : Nat) : ProductIns :=
  let out : Operand := { h := k.cfg.handle (pOutH w), off := pOutOff k w }
  let page := field w 94 89
  { rev := rev, page := page, ifmt := field w 88 86, k := field w 85 76, init := pInit w, drain := pDrain w,
    inp := { h := k.cfg.handle (pInH w), off := pInOff k w }, out := out, rq := { h := k.cfg.handle (pRqH w), off := field w 17 0 },
    blocks := if field w 85 76 ≠ 0 ∧ (pInit w = 1 ∨ pDrain w = 1) then headBlocks (out.h.base + out.off) (outputs (m.page (m.livePage page)) rev) else [],
    sig := fSig w, pc := k.pc - 1 }

/-- Issue of a product: into the named macro's queue, its head blocks busy (R117, R122). -/
def issueProduct (c op : Nat) (rev : Bool) (s : State) : State :=
  s.issue c (fun w => fOpcode w == op) productChecks (fun w s => if s.macFull c (pMacro w) then some 1 else none) fun w s =>
    let i := productIns rev (s.mac (s.macroOf c (pMacro w))) (s.core c) w
    (s.updCore c fun k => { k with busy := i.blocks.foldl (fun m b => mset m 0 b (mget m 0 b + 1)) k.busy }).pushMacro c (pMacro w) (.product i)

def execMvm (core : Nat) (h : Harm) (s : State) : Host.Outcome State Fault Refusal := act (coreOk core) s (issueProduct core 0x10 false (s.suffer h))
def execMvt (core : Nat) (h : Harm) (s : State) : Host.Outcome State Fault Refusal := act (coreOk core) s (issueProduct core 0x11 true (s.suffer h))

/-! ### The product at the front -/

/-- The product that a logical macro works on, with its macro's key. -/
def State.working (s : State) (c n : Nat) : Option (Nat × Macro × ProductIns × Run) :=
  let k := s.macroOf c n
  let m := s.mac k
  match m.accepted, m.queue, m.run with
  | true, .product i :: _, some r => some (k, m, i, r)
  | _, _, _ => none

def Macro.setRun (m : Macro) (r : Run) : Macro := { m with run := some r }

/-- 32-bit entries read as integers. -/
def ints32 (n : Nat) (bs : List Byte) : List Int := (List.range n).map fun i => s32 (leNat ((bs.drop (4 * i)).take 4))

/-- A table of integers from a list, by position. -/
def tableOf (xs : List Int) : Map Int := ((List.range xs.length).zip xs).filter fun (e : Nat × Int) => decide (e.2 ≠ 0)

/-- The accumulators take the entries at `OUT` (R152, R153). -/
def preloadStep (c n : Nat) (s : State) : State :=
  match s.working c n with
  | none => s
  | some (k, _, i, r) =>
    if i.init ≠ 1 ∨ r.preloaded ∨ r.started then s
    else
      match s.readOp c i.out (4 * r.nout) with
      | .error e => s.macFail c k e i.pc
      | .ok (bs, s) =>
        s.updMac k fun m => { (m.setRun { r with preloaded := true }) with acc := tableOf (ints32 r.nout bs), sigma := 0 }

def execPreload (core n : Nat) (h : Harm) (s : State) : Host.Outcome State Fault Refusal :=
  act (coreOk core && macroOk n) s (preloadStep core n (s.suffer h))

/-- The active page changes to the one the product names; none when it is active already (R36). -/
def pageSwitchStep (c n : Nat) (s : State) : State :=
  match s.working c n with
  | none => s
  | some (k, m, i, r) =>
    if r.started ∨ m.active = m.livePage i.page then s else (s.updMac k fun m => { m with active := m.livePage i.page }).tallyCore c 2 1

def execPageSwitch (core n : Nat) (s : State) : Host.Outcome State Fault Refusal :=
  act (coreOk core && macroOk n) s (pageSwitchStep core n s)

/-- The product starts once its page is active, its preload, if any, is done and no row is still to be written into the active page's bank (R83): input
register, starting accumulators, entry copy (R57, R152, R156). -/
def productStartStep (c n : Nat) (s : State) : State :=
  match s.working c n with
  | none => s
  | some (k, m, i, r) =>
    if r.started ∨ m.active ≠ m.livePage i.page ∨ (i.init = 1 ∧ !r.preloaded) ∨ m.blocked then s
    else
      let nel := if !i.rev && (m.page m.active).sparse24 then 512 else 256
      match s.readOp c i.inp (nel * ifmtBits i.ifmt / 8) with
      | .error e => s.macFail c k e i.pc
      | .ok (bs, s) =>
        s.updMac k fun m =>
          let m := if i.init = 0 then { m with acc := [], sigma := 0 } else m
          { (m.setRun { r with x := unpackInput i.ifmt nel bs, started := true }) with entry := m.acc }

def execProductStart (core n : Nat) (h : Harm) (s : State) : Host.Outcome State Fault Refusal :=
  act (coreOk core && macroOk n) s (productStartStep core n (s.suffer h))

/-! ### Steps -/

/-- The input of the attempt under way: shifted by the chain's σ (R157). -/
def stepInput (m : Macro) (i : ProductIns) (r : Run) : List Nat := r.x.map (shiftInput i.ifmt m.sigma)

/-- The groups of the plane reached. -/
def stepGroups (m : Macro) (i : ProductIns) (r : Run) : List (List Nat) :=
  planeGroups i.rev (m.page m.active) (stepInput m i r) i.k r.plane

/-- The group of the step. -/
def stepGroup (m : Macro) (i : ProductIns) (r : Run) : List Nat := (stepGroups m i r).getD r.pos []

/-- What the step senses (R44, R102). -/
def senseStep (m : Macro) (i : ProductIns) (r : Run) (dist : List Disturb) : Sensed :=
  if i.rev then reverseStep (m.page m.active) (stepGroup m i r) dist
  else forwardStep (m.page m.active) (stepInput m i r) i.k r.plane (stepGroup m i r) dist

/-- The rows a step senses, and so restores (R61): its group's, or all of them in a reverse step, whose quarters are sensed whether its group is full
or empty (R102, R103). -/
def sensedRows (i : ProductIns) (group : List Nat) : List Nat := if i.rev then List.range 256 else group

/-- Steps a step counts as: a reverse step four (R72). -/
def stepSpan (i : ProductIns) : Nat := if i.rev then 4 else 1

/-- The run after the step of this group has passed: the next group, the next plane, or the end. -/
def Run.next (r : Run) (groups planes : Nat) : Run :=
  if r.pos + 1 < groups then { r with pos := r.pos + 1, fail := 0, gap := false }
  else if r.plane + 1 < planes then { r with plane := r.plane + 1, pos := 0, fail := 0, gap := false }
  else { r with fail := 0, finished := true, gap := false }

/-- The group of the step that follows, none after the last: a failed check discards it, its rows sensed and restored (R46, R61). -/
def nextGroup (m : Macro) (i : ProductIns) (r : Run) : List Nat :=
  let n := r.next (stepGroups m i r).length (ifmtBits i.ifmt)
  if n.finished then [] else stepGroup m i n

/-- The last step of the product has no successor to discard (R46). -/
def lastStep (i : ProductIns) (r : Run) (groups : Nat) : Bool := r.pos + 1 == groups && r.plane + 1 == ifmtBits i.ifmt

/-- A step is issued on a group: its rows sensed and restored, its bank in use, the step counted (R61, R72, R95, R399). -/
def State.issueStep (s : State) (c k : Nat) (i : ProductIns) (group : List Nat) : State :=
  let rows := sensedRows i group
  let s := s.updMac k fun m =>
    let m := (m.updPage m.active fun p => p.restore rows).useBank (decide (32 ≤ m.active)) s.hub.tick
    { m with stats := { m.stats with steps := m.stats.steps + stepSpan i } }
  (s.tallyCore c 0 (stepSpan i)).tallyCore c 1 rows.length

/-- The successor of the step reached, already issued, is discarded: none follows the last step (R46). -/
def State.discardNext (s : State) (c k : Nat) (m : Macro) (i : ProductIns) (r : Run) : State :=
  if lastStep i r (stepGroups m i r).length then s else s.issueStep c k i (nextGroup m i r)

/-- An accumulator overflow: the attempt is abandoned, every entry halved, its residue tested, σ raised and the product repeated, or the job faulted
(R157, R429). -/
def State.overflow (s : State) (c k : Nat) (i : ProductIns) (r : Run) : State :=
  let p := (s.core c).part.getD 0
  let m := s.mac k
  if (s.part p).policy = 1 ∨ m.sigma = 31 then s.macFail c k 0x0115 i.pc
  else
    match s.tested (halve m.entry) with
    | none => s.macFail c k 0x0303 i.pc
    | some e =>
      let s := s.updMac k fun m =>
        { (m.setRun { r with plane := 0, pos := 0, fail := 0, gap := false }) with
            entry := e, acc := e, sigma := m.sigma + 1, stats := { m.stats with rescales := satAdd 0xFFFF m.stats.rescales 1 } }
      (s.count p cRepeats 1 0xFFFFFFFF).updJob p fun j => { j with rescaled := true }

/-- A step that passed enters the accumulators, whose residues are tested at the addition (R45, R46, R429, R430). An overflow and a residue that differs
discard the successor already issued. -/
def State.stepPassed (s : State) (c k : Nat) (i : ProductIns) (r : Run) (vals : Map Int) : State :=
  let m := s.mac k
  let groups := (stepGroups m i r).length
  let neg := ifmtSigned i.ifmt && r.plane + 1 == ifmtBits i.ifmt
  match accumulate m.acc neg r.plane (combine ((m.page m.active).wfmt == 1) i.rev vals) with
  | none => (s.discardNext c k m i r).overflow c k i r
  | some a =>
    match s.tested a with
    | none => (s.discardNext c k m i r).macFail c k 0x0303 i.pc
    | some a => s.updMac k fun m => { (m.setRun (r.next groups (ifmtBits i.ifmt))) with acc := a }

/-- One issue of the step reached: sensed, restored and counted, with the successor that a failed check discards; what that check leads to is `bad`. -/
def State.tryStep (s : State) (c k : Nat) (m : Macro) (i : ProductIns) (r : Run) (dist : List Disturb) (bad : State → State) : State :=
  let sensed := senseStep m i r dist
  let s := s.issueStep c k i (stepGroup m i r)
  if sensed.pass then s.stepPassed c k i r sensed.vals else bad (s.discardNext c k m i r)

/-- No step of a product runs on the macro. -/
def Macro.betweenProducts (m : Macro) : Bool := match m.run with | none => true | some r => !r.started

/-- An operation may take the gap before the product's next step: it is the first there, and no repeat or scrub is due (R62, Table 2.7). -/
def Macro.gapFree (m : Macro) : Bool := match m.run with | some r => !r.gap && r.fail == 0 | none => true

/-- Ticks the job of a core has run. -/
def State.jobAge (s : State) (c : Nat) : Nat :=
  match (s.core c).part with
  | none => 0
  | some p => match (s.part p).job with
    | none => 0
    | some j => if j.state = 2 then s.hub.tick - j.startTick else 0

/-- A bank is to calibrate in a pause: overdue, in a job that has run for more than 2 s, before a step whose gap is free (R62, R96). -/
def State.pauseDue (s : State) (c : Nat) (m : Macro) (bank : Bool) : Bool :=
  (m.bank bank).overdue s.hub.tick && (m.bank bank).calibrating == .no && !m.betweenProducts && decide (8333333 < s.jobAge c) && m.gapFree

/-- A calibration pause holds the product's next step: one is due in its gap, or under way (R62, R96). -/
def State.paused (s : State) (c : Nat) (m : Macro) : Bool :=
  [false, true].any fun b => s.pauseDue c m b || (m.bank b).calibrating == .pause

/-- The step reached is issued for the first time, once no calibration pause is due in its gap; a failed check makes its repeat due (R52, R62). -/
def firstStep (c n : Nat) (rev : Bool) (dist : List Disturb) (s : State) : State :=
  match s.working c n with
  | none => s
  | some (k, m, i, r) =>
    if i.rev ≠ rev ∨ !r.started ∨ r.finished ∨ r.fail ≠ 0 ∨ m.blocked ∨ s.paused c m then s
    else s.tryStep c k m i r dist fun s => s.updMac k fun m => m.setRun { r with fail := 1, gap := false }

def execStep (core n : Nat) (dist : List Disturb) (h : Harm) (s : State) : Host.Outcome State Fault Refusal :=
  act (coreOk core && macroOk n) s (firstStep core n false dist (s.suffer h))
def execReverseStep (core n : Nat) (dist : List Disturb) (h : Harm) (s : State) : Host.Outcome State Fault Refusal :=
  act (coreOk core && macroOk n) s (firstStep core n true dist (s.suffer h))

/-- A check that failed after its scrub: `PERSIST` and 0x0301; the page is the one the lane test will read (R52, R53, R440). -/
def State.persist (s : State) (c k : Nat) (i : ProductIns) : State :=
  (s.updMac k fun m => { m with stats := { m.stats with persist := true }, testPage := some m.active }).macFail c k 0x0301 i.pc

/-- The repeat of a failed step; when it fails too the scrub is due, or, on a page scrubbed already in this product, the job faults
(R52, R53). -/
def repeatStep (c n : Nat) (dist : List Disturb) (s : State) : State :=
  match s.working c n with
  | none => s
  | some (k, m, i, r) =>
    if r.fail ≠ 1 ∨ m.blocked then s
    else
      let m := { m with stats := { m.stats with repeats := satAdd 0xFFFF m.stats.repeats 1 } }
      (s.setMac k m).tryStep c k m i r dist fun s =>
        if r.scrubbed then s.persist c k i else s.updMac k fun m => m.setRun { r with fail := 2, gap := false }

def execRepeat (core n : Nat) (dist : List Disturb) (h : Harm) (s : State) : Host.Outcome State Fault Refusal :=
  act (coreOk core && macroOk n) s (repeatStep core n dist (s.suffer h))

/-- A page read row by row through the array code. -/
structure Scrubbed where
  page : Page
  rows : List (Nat × List Nat)
  bad : Bool
  fresh : Nat
deriving DecidableEq, Repr

/-- Decodes the suspect rows of a page; the sound ones only count as restored (R54). -/
def scrubPage (p : Page) (fresh : Nat) : Scrubbed :=
  p.suspects.foldl (fun v r =>
    let d := decodeRow v.page v.fresh r
    { page := d.page, rows := if d.corrected then v.rows ++ [(r, d.lanes)] else v.rows, bad := v.bad || d.uncorrectable, fresh := d.fresh })
    { page := p.restore (List.range 257), rows := [], bad := false, fresh := fresh }

/-- The check-triggered scrub: the active page is read and corrected, its check words recomputed; then the failing step is issued again
(R52 to R54). -/
def scrubStep (c n : Nat) (ups : List Upset) (dist : List Disturb) (s : State) : State :=
  match s.working c n with
  | none => s
  | some (k, m, i, r) =>
    if r.fail ≠ 2 ∨ m.blocked then s
    else
      let v := scrubPage ((m.page m.active).upset ups) s.fresh
      let r := { r with scrubbed := true }
      let s := { s with fresh := v.fresh }
      let s := s.updMac k fun m =>
        { ((m.updPage m.active fun _ => v.page).setRun r) with
            stats := { m.stats with scrubs := satAdd 255 m.stats.scrubs 1, corrected := m.stats.corrected || !v.rows.isEmpty,
                                    uncorr := m.stats.uncorr || v.bad } }
      let s := (v.rows.foldl (fun s e => s.chargeLanes k m.active e.1 e.2) s).tallyCore c 4 257
      if v.bad then (s.losePage k m.active).macFail c k 0x0302 i.pc
      else
        let s := s.updMac k fun m => m.updPage m.active Page.recheck
        let m := s.mac k
        let m := { m with stats := { m.stats with repeats := satAdd 0xFFFF m.stats.repeats 1 } }
        (s.setMac k m).tryStep c k m i r dist fun s => s.persist c k i

def execCheckTriggeredScrub (core n : Nat) (ups : List Upset) (dist : List Disturb) (h : Harm) (s : State) : Host.Outcome State Fault Refusal :=
  act (coreOk core && macroOk n) s (scrubStep core n ups dist (s.suffer h))

/-! ### Completion and drain -/

/-- A finished product leaves the queue; with a drain, its accumulators are copied to the drain buffer, and the instruction completes with
the drain (R57, R135). One without a drain completes here, after the entries before it (R117). -/
def productCompleteStep (c n : Nat) (s : State) : State :=
  match s.working c n with
  | none => s
  | some (k, m, i, r) =>
    if !r.finished then s
    else if i.drain = 0 then
      if m.earlier r.no then s else (s.complete c i.blocks i.sig i.pc).popMacro c n
    else if m.drainBuf.isSome then s
    else (s.updMac k fun m => { m with drainBuf := some { no := r.no, ins := i, acc := m.acc, sigma := m.sigma, nout := r.nout } }).popMacro c n

/-- A rescale record (Table 5.4). -/
structure Rescale where
  mult : Int
  shift : Nat
  ofmt : Nat
  perLane : Bool
  zero : Int
  lo : Int
  hi : Int
  sound : Bool
deriving DecidableEq, Repr

/-- The 32-bit integer at a byte offset. -/
def i32At (bs : List Byte) (o : Nat) : Int := s32 (leNat ((bs.drop o).take 4))
/-- The byte at an offset. -/
def byteAt (bs : List Byte) (o : Nat) : Nat := (bs.getD o 0).toNat

/-- Reads a record's 64-byte header; unsound where R168 says so. -/
def rescaleOf (bs : List Byte) : Rescale :=
  let lo := i32At bs 12
  let hi := i32At bs 16
  { mult := i32At bs 0, shift := byteAt bs 4 % 64, ofmt := byteAt bs 5 % 8, perLane := byteAt bs 6 % 2 == 1, zero := i32At bs 8, lo := lo, hi := hi,
    sound := decide (byteAt bs 4 / 64 = 0 ∧ byteAt bs 5 / 8 = 0 ∧ byteAt bs 5 % 8 < 6 ∧ byteAt bs 6 / 2 = 0 ∧ byteAt bs 7 = 0 ∧ lo ≤ hi) &&
      (bs.drop 20).all fun b => b == 0 }

/-- Range of an input format (Table 2.3). -/
def fmtLo (f : Nat) : Int := if ifmtSigned f then -(2 ^ (ifmtBits f - 1) : Nat) else 0
def fmtHi (f : Nat) : Int := if ifmtSigned f then (2 ^ (ifmtBits f - 1) : Nat) - 1 else (2 ^ ifmtBits f : Nat) - 1

/-- R166 from the product `p`: add half, shift right. -/
def quotient (p : Int) (sigma : Nat) (rq : Rescale) : Int :=
  if sigma < rq.shift then (p + 2 ^ (rq.shift - sigma - 1)) / 2 ^ (rq.shift - sigma) else p * 2 ^ (sigma - rq.shift)

/-- R166 from the quotient: zero point, clamps, format range. -/
def clampOut (q : Int) (rq : Rescale) : Int :=
  let q := min (max (q + rq.zero) rq.lo) rq.hi
  min (max q (fmtLo rq.ofmt)) (fmtHi rq.ofmt)

/-- R166: the product by the multiplier, then the rest. -/
def requantise (a : Int) (sigma : Nat) (rq : Rescale) (mult : Int) : Int := clampOut (quotient (a * mult) sigma rq) rq

/-- The outputs of a requantisation as the unit computes them: the products at places 1,024 on, each tested by p ≡ a × M, and the quotients at places
2,048 on, each tested by q × 2^E + r ≡ p + 2^(E−1) (mod 7): none where one disagrees (R429). -/
def State.requantised (s : State) (sigma : Nat) (rq : Rescale) (n : Nat) : List Int → List Int → Option (List Int)
  | a :: as, m :: ms =>
    match (s.computed (1024 + n) (a * m)).bind fun p => s.computed (2048 + n) (quotient p sigma rq), State.requantised s sigma rq (n + 1) as ms with
    | some q, some qs => some (clampOut q rq :: qs)
    | _, _ => none
  | _, _ => some []

/-- Packs values of an input format, lower outputs in the lower bits (R41, R167). -/
def packFmt (f : Nat) (xs : List Int) : List Byte :=
  let b := ifmtBits f
  let per := 8 / b
  (List.range (ceilDiv xs.length per)).map fun i =>
    BitVec.ofNat 8 ((List.range per).foldl (fun a j => a + (xs.getD (i * per + j) 0 % 2 ^ b).toNat * 2 ^ (b * j)) 0)

/-- The multipliers of a record, one per output. -/
def multipliers (rq : Rescale) (n : Nat) (bs : List Byte) : List Int :=
  if rq.perLane then (List.range n).map fun o => i32At bs (4 * o) else List.replicate n rq.mult

/-- Writes a drain's outputs, 32-bit or requantised; the accumulators, the products and the quotients of the requantisation are tested against their residues
(R134, R166 to R168, R429). -/
def State.writeDrain (s : State) (c : Nat) (d : DrainBuf) : Except Nat State :=
  match s.tested d.acc with
  | none => .error 0x0303
  | some tested =>
  let acc := (List.range d.nout).map fun o => mget tested 0 o
  if d.ins.drain = 1 then s.writeOp c d.ins.out (acc.flatMap fun a => leBytes 4 (u32 a))
  else
    match s.readOp c d.ins.rq 64 with
    | .error e => .error e
    | .ok (hdr, s) =>
      let rq := rescaleOf hdr
      if !rq.sound then .error 0x0117
      else
        match s.readOp c { d.ins.rq with off := d.ins.rq.off + 64 } (if rq.perLane then 4 * d.nout else 0) with
        | .error e => .error e
        | .ok (bs, s) =>
          match s.requantised d.sigma rq 0 acc (multipliers rq d.nout bs) with
          | none => .error 0x0303
          | some ys => s.writeOp c d.ins.out (packFmt rq.ofmt ys)

/-- The drain buffer is written and the instruction completes, after the entries before it (R117, R135, R160, R165). -/
def drainStep (c n : Nat) (s : State) : State :=
  let k := s.macroOf c n
  match (s.mac k).drainBuf with
  | none => s
  | some d =>
    if (s.mac k).earlier d.no then s
    else
      match s.writeDrain c d with
      | .error e => ((s.freeBlocks c d.ins.blocks).updMac k fun m => { m with drainBuf := none }).macFail c k e d.ins.pc
      | .ok s =>
        ((s.updMac k fun m => { m with drainBuf := none, lastSigma := d.sigma }).complete c d.ins.blocks d.ins.sig d.ins.pc).settleMacro c n

def execDrain (core n : Nat) (h : Harm) (s : State) : Host.Outcome State Fault Refusal :=
  act (coreOk core && macroOk n) s (drainStep core n (s.suffer h))

end Sys2Proof.Machine
end

