-- ==== Sys2Proof/Machine/Pages.lean ====
section
/-! DEFINITION. Page operations: issue of `WPG` and `SWP`, the loader's row writes and the verify that completes a page (R75 to R93, R136,
R137). -/

namespace Sys2Proof.Machine

/-! ### Issue (Table 4.12) -/

def wMacro (w : Nat) : Nat := field w 98 95
def wOp (w : Nat) : Nat := field w 88 87
def wSrcOff (k : Core) (w : Nat) : Nat := effOff k (field w 37 22) (fXA w)

/-- Issue checks of `WPG` (R136); the row fields of an `ERASE` are ignored (R78). -/
def wpgChecks (k : Core) (w : Nat) : List (Bool × Nat) :=
  let h := field w 43 38
  let src := decide (wOp w < 2)
  [(field w 21 0 != 0 || fXB w != 0, 0x0100), (wSrcOff k w % 64 != 0, 0x0102), (src && badHandles k [h], 0x0103),
   ((decide (wOp w ≠ 3) && decide (256 < field w 71 63)) || (!(wOp w == 0) && (field w 84 83 != 0 || field w 82 82 != 0)) ||
      (!src && (h != 0 || field w 37 22 != 0)) || (src && wrongKind k h [2]), 0x0104)]

/-- The segment that an instruction queues. -/
def wpgIns (k : Core) (w : Nat) : WpgIns :=
  { op := wOp w, page := field w 94 89, form := field w 86 85, wfmt := field w 84 83, sparse := field w 82 82 == 1, first := field w 81 81 == 1,
    last := field w 80 80 == 1, row0 := field w 79 72, nrows := field w 71 63, lrows := field w 62 53, llanes := field w 52 44,
    src := { h := k.cfg.handle (field w 43 38), off := wSrcOff k w }, sig := fSig w, pc := k.pc - 1 }

/-- Issue of a page operation into the named macro's queue. -/
def issueWpg (c op : Nat) (s : State) : State :=
  s.issue c (fun w => fOpcode w == 0x12 && wOp w == op) wpgChecks (fun w s => if s.macFull c (wMacro w) then some 1 else none) fun w s =>
    s.pushMacro c (wMacro w) (.wpg (wpgIns (s.core c) w))

def execWpgLoad (core : Nat) (h : Harm) (s : State) : Host.Outcome State Fault Refusal := act (coreOk core) s (issueWpg core 0 (s.suffer h))
def execWpgFold (core : Nat) (h : Harm) (s : State) : Host.Outcome State Fault Refusal := act (coreOk core) s (issueWpg core 1 (s.suffer h))
def execWpgCopy (core : Nat) (h : Harm) (s : State) : Host.Outcome State Fault Refusal := act (coreOk core) s (issueWpg core 2 (s.suffer h))
def execWpgErase (core : Nat) (h : Harm) (s : State) : Host.Outcome State Fault Refusal := act (coreOk core) s (issueWpg core 3 (s.suffer h))

/-! ### Rows -/

/-- The segment that writes a bank of a logical macro, with its macro's key: none where nothing writes there. -/
def State.writing (s : State) (c n : Nat) (bank : Bool) : Option (Nat × Macro × PageWrite) :=
  let k := s.macroOf c n
  let m := s.mac k
  match m.writing.find? fun w => (m.writeBanks w).contains bank with
  | some w => some (k, m, w)
  | none => none

/-- The segment at work goes on as `w'`. -/
def Macro.setWrite (m : Macro) (w w' : PageWrite) : Macro := { m with writing := m.writing.map fun x => if x.no = w.no then w' else x }

/-- The segment at work is done. -/
def Macro.dropWrite (m : Macro) (w : PageWrite) : Macro := { m with writing := m.writing.filter fun x => x.no != w.no }

/-- A segment completes: its token rises, and the queue is looked at again (R85, R147). -/
def State.finishWrite (s : State) (c n : Nat) (w : PageWrite) : State :=
  (((s.updMac (s.macroOf c n) fun m => m.dropWrite w)).signal c w.ins.sig w.ins.pc).settleMacro c n

/-- One row of an erase: zeros in every target (Table 3.1, R111). -/
def Macro.eraseRow (m : Macro) (o : PageOp) : Macro :=
  (m.targets 3 o.page false).foldl (fun m t => m.updPage t fun p =>
    let p := p.setRow o.next (List.replicate 256 0)
    let p := { p with chkLane := mset p.chkLane 0 o.next 0 }
    if o.next = 255 then p.erased else p) m

/-- Both banks that a segment writes are in use in this tick (R95). -/
def Macro.useBanks (m : Macro) (w : PageWrite) (tick : Nat) : Macro := (m.writeBanks w).foldl (fun m b => m.useBank b tick) m

/-- The loader writes the next row of the segment that writes a bank (R82); the last row of a segment completes it, or starts the verify, or completes
an erase (R84, R85), the entries before it done (R117). -/
def rowWriteStep (c n : Nat) (bank : Bool) (s : State) : State :=
  match s.writing c n bank with
  | none => s
  | some (k, m, w) =>
    let i := w.ins
    let o := w.op
    if o.verifying then s
    else if i.op = 3 then
      if o.next = 255 ∧ m.earlier w.no then s
      else
        let s := (s.updMac k fun m => ((m.eraseRow o).useBanks w s.hub.tick).setWrite w { w with op := { o with next := o.next + 1 } }).tallyCore c 5
          (m.targets 3 o.page false).length
        if o.next < 255 then s
        else
          (s.updMac k fun m =>
            { m with shadow := if m.cfg.rewritable then mset m.shadow 0 i.page 0 else m.shadow,
                     noRestore := m.noRestore.filter fun p => p % 32 != i.page % 32 }).finishWrite c n w
    else
      let ends := decide (o.next + 1 = i.row0 + i.nrows)
      if ends && !i.last && m.earlier w.no then s
      else
        match s.readOp c i.src (i.rowBytes m * i.nrows) with
        | .error e => s.macFail c k e i.pc
        | .ok (bs, s) =>
          let next := w.wrote m bs (ends && i.last)
          let s := s.updMac k fun m =>
            (((m.targets i.op i.page o.both).foldl (fun q t => q.updPage t (writeRow m w bs)) m).useBanks w s.hub.tick).setWrite w
              { w with op := next }
          let s := s.tallyCore c 5 (m.targets i.op i.page o.both).length
          if ends && !i.last then (s.updMac k fun m => { m with opsOpen := m.opsOpen ++ [next] }).finishWrite c n w
          else if ends then s.settleMacro c n
          else s

def execRowWrite (core n : Nat) (bank : Bool) (h : Harm) (s : State) : Host.Outcome State Fault Refusal :=
  act (coreOk core && macroOk n) s (rowWriteStep core n bank (s.suffer h))

/-! ### Verify -/

/-- A page complete after a clean verify (R84, R98). -/
def Page.completed (p : Page) (clearLost : Bool) : Page :=
  { p with valid := true, gen := (p.gen + 1) % 256, crc := p.crcNow, lost := if clearLost then false else p.lost }

/-- The shadow state an operation leaves (Table 3.5). -/
def shadowAfter (op : Nat) (both : Bool) : Nat := if op = 2 ∨ (op = 0 ∧ both) then 1 else 2

/-- Verifies the targets one after another; the first finding ends it. -/
def verifyTargets (s : State) (k : Nat) (crc : Word) (ups again : List Upset) : List Nat → Option (Nat × Nat) × State
  | [] => (none, s)
  | t :: rest =>
    let v := verifyPage (((s.mac k).page t).upset ups) again crc s.fresh
    let s := { s with fresh := v.fresh }
    let s := s.updMac k fun m =>
      { (m.updPage t fun _ => v.page) with
          stats := { m.stats with verifyRewrites := satAdd 255 m.stats.verifyRewrites v.rewrites } }
    match v.finding with
    | some f => (some f, s)
    | none => verifyTargets s k crc [] [] rest

/-- After the last row the page is read whole: complete, or refused with 0x0207 (R84, R89, Table 3.5), the entries before it done (R117). The row that
0x0207 names is the first logical row of the physical one found (log entry 84). -/
def pageVerifyStep (c n : Nat) (bank : Bool) (ups again : List Upset) (s : State) : State :=
  match s.writing c n bank with
  | none => s
  | some (k, m, w) =>
    let i := w.ins
    let o := w.op
    if !o.verifying ∨ m.earlier w.no then s
    else
      let ts := m.targets i.op i.page o.both
      let s := s.tallyCore c 4 (257 * ts.length)
      match verifyTargets s k (crcDone o.crc (i.fmt m) (i.is24 m)) ups again ts with
      | (some f, s) =>
        let row := if i.is24 m then 2 * f.1 else f.1
        s.refuseWpg c k i { status := 0x0207, row := row, lane := f.2 }
      | (none, s) =>
        (s.updMac k fun m =>
          let q := ts.foldl (fun m t => m.updPage t fun p => p.completed (i.op == 0)) m
          { (q.useBanks w s.hub.tick) with
              shadow := if m.cfg.rewritable then mset m.shadow 0 i.page (shadowAfter i.op o.both) else m.shadow,
              noRestore := m.noRestore.filter fun p => !ts.contains p }).finishWrite c n w

def execPageVerify (core n : Nat) (bank : Bool) (ups again : List Upset) (s : State) : Host.Outcome State Fault Refusal :=
  act (coreOk core && macroOk n) s (pageVerifyStep core n bank ups again s)

/-! ### Swap -/

/-- Issue checks of `SWP` (Table 4.13). -/
def swpChecks (_ : Core) (w : Nat) : List (Bool × Nat) := [(fXA w != 0 || fXB w != 0 || field w 82 0 != 0, 0x0100)]

/-- `SWP`: one entry in the queue of every named macro; an empty mask completes at once (R137). -/
def issueSwp (c : Nat) (s : State) : State :=
  s.issue c (fun w => fOpcode w == 0x13) swpChecks
    (fun w s => if (maskBits (field w 98 83)).any fun n => s.macFull c n then some 1 else none) fun w s =>
      let mask := field w 98 83
      let pc := (s.core c).pc - 1
      if mask = 0 then s.signal c (fSig w) pc
      else
        let s := s.updCore c fun k => { k with swps := k.swps ++ [{ mask := mask, answers := [], sig := fSig w, pc := pc }] }
        (maskBits mask).foldl (fun s n => s.pushMacro c n (.swp pc)) s

def execSwp (core : Nat) (h : Harm) (s : State) : Host.Outcome State Fault Refusal := act (coreOk core) s (issueSwp core (s.suffer h))

end Sys2Proof.Machine
end

