-- ==== Sys2Proof/Machine/Maint.lean ====
section
/-! DEFINITION. The maintenance of a macro: refresh, filler, calibration, patrol, restore, lane test and rebuild (R36, R60 to R62, R94 to
R101, R407, R440). -/

namespace Sys2Proof.Machine

/-- The partition that owns a core's die state, if any. -/
def State.partOf (s : State) (c : Nat) : Option Nat := (s.core c).part

/-! ### Refresh (R60, R61) -/

/-- The next row-page of a sweep: 257 rows of a page, then the next page. -/
def sweepNext (page row : Nat) : Nat × Nat := if row < 256 then (page, row + 1) else ((page + 1) % 32, 0)

/-- One refresh operation of a bank's sweep: row-pages already restored are passed over, the first that is not is restored (R60, R61); a
complete sweep keeps its count of row-pages passed over (Table 2.17). Each bank has its sweep; of the two, the bank of the last refresh operation holds
"the sweep's current position" that `MAC_REFRESH_STAT` reports (R71; DESIGN CHOICE, log entry 91). -/
def refreshFrom (fuel : Nat) (bank : Bool) (m : Macro) : Macro :=
  match fuel with
  | 0 => { m with sweepB := bank }
  | fuel + 1 =>
    let b := m.bank bank
    let phys := b.page + (if bank then 32 else 0)
    let hit := (m.page phys).restored.contains b.row
    let nx := sweepNext b.page b.row
    let skips := if hit then b.skips + 1 else b.skips
    let wrap := nx == (0, 0)
    let m := if hit then m.updPage phys fun p => { p with restored := p.restored.erase b.row } else m
    let m := m.setBank bank { b with page := nx.1, row := nx.2, skips := if wrap then 0 else skips, skipped := if wrap then min 4095 skips else b.skipped }
    if hit then refreshFrom fuel bank m else { m with sweepB := bank }

/-- The gap is used (R62). -/
def Macro.useGap (m : Macro) : Macro := { m with run := m.run.map fun r => { r with gap := true } }

/-- A refresh operation: alongside steps in the bank without the active page; in the active page's bank in a gap between two steps, one to a gap
(R61, R62). -/
def Macro.refresh (m : Macro) (bank : Bool) : Macro :=
  if m.betweenProducts ∨ bank ≠ decide (32 ≤ m.active) then refreshFrom 8224 bank m else (refreshFrom 8224 bank m).useGap

/-- An operation may start: alongside steps, or in a gap; the bank's refresh waits during a calibration pause (R61, R62, R96). -/
def Macro.refreshOpen (m : Macro) (bank : Bool) : Bool :=
  (m.betweenProducts || bank != decide (32 ≤ m.active) || m.gapFree) && (m.bank bank).calibrating != .pause

/-- The physical page that the sweep of a bank last restored a row of: the one before its next row-page. -/
def Macro.sweptPage (m : Macro) (bank : Bool) : Nat :=
  let b := m.bank bank
  (if b.row = 0 then (b.page + 31) % 32 else b.page) + (if bank then 32 else 0)

/-- The page switches of a refresh operation: one to another page of the active page's bank and one back, which leave the active page what it was
(R61). -/
def Macro.refreshSwitches (m : Macro) (bank : Bool) : Nat :=
  if bank = decide (32 ≤ m.active) ∧ (m.refresh bank).sweptPage bank ≠ m.active then 2 else 0

/-- One refresh operation on a macro, counted when it starts, with its page switches (R61, R62, Table 14.4). -/
def refreshStep (c m : Nat) (bank : Bool) (s : State) : State :=
  let x := s.mac (macKey c m)
  if x.refreshOpen bank then ((s.setMac (macKey c m) (x.refresh bank)).tallyCore c 2 (x.refreshSwitches bank)).tallyCore c 3 1 else s

def execRefreshOperation (core m : Nat) (bank : Bool) (s : State) : Host.Outcome State Fault Refusal :=
  act (coreOk core && physOk m) s (refreshStep core m bank s)

/-- Hottest sensor of a die, hundredths of a degree. -/
def State.temp (s : State) (die : Nat) : Int := s.power.temps.getD die 0

/-- A die returns to the 64 ms interval once its sensors have read 83 °C or less for 1 ms (R60). -/
def intervalRestoreStep (die : Nat) (s : State) : State :=
  if s.spares.rate32.contains die ∧ Config.msTicks ≤ mget s.power.coolTicks 0 die then
    s.updSpares fun x => { x with rate32 := x.rate32.filter fun d => d != die }
  else s

def execRefreshIntervalRestore (die : Nat) (s : State) : Host.Outcome State Fault Refusal :=
  act (arrayDieOk die) s (intervalRestoreStep die s)

/-! ### Patrol (R97, R98) -/

/-- The next row-page of a patrol; a whole bank patrolled counts (Table 3.12). -/
def Bank.patrolNext (b : Bank) : Bank :=
  let nx := sweepNext b.patrolPage b.patrolRow
  { b with patrolPage := nx.1, patrolRow := nx.2, patrols := if nx = (0, 0) then b.patrols + 1 else b.patrols }

/-- A row-page read through the array code: corrected and rewritten, or its page lost (R98). -/
def State.patrolRow (s : State) (c k : Nat) (bank : Bool) (ups : List Upset) : State :=
  let m := s.mac k
  let b := m.bank bank
  let page := b.patrolPage + (if bank then 32 else 0)
  let d := decodeRow ((m.page page).upset ups) s.fresh b.patrolRow
  let s := { s with fresh := d.fresh }
  let s := (s.updMac k fun m => ((m.updPage page fun _ => d.page).setBank bank b.patrolNext).useBank bank s.hub.tick).tallyCore c 4 1
  let s :=
    if d.corrected then
      (s.updMac k fun m => { m with stats := { m.stats with patrolCorrected := satAdd 0xFFFF m.stats.patrolCorrected 1 } }).chargeLanes k page
        b.patrolRow d.lanes
    else s
  if d.uncorrectable then (s.losePage k page).outsideFault (s.partOf c) (coreDie c) (coreFault (s.core c) 0x0302 2 0) else s

/-- A patrol read, between products only (R97). -/
def patrolStep (c m : Nat) (bank : Bool) (ups : List Upset) (s : State) : State :=
  if (s.mac (macKey c m)).betweenProducts then s.patrolRow c (macKey c m) bank ups else s

def execPatrolRead (core m : Nat) (bank : Bool) (ups : List Upset) (s : State) : Host.Outcome State Fault Refusal :=
  act (coreOk core && physOk m) s (patrolStep core m bank ups s)

/-- Another core of a core's job still runs. -/
def State.othersRun (s : State) (c p : Nat) : Bool := s.cores.any fun e => e.1 != c && e.2.part == some p && e.2.inJob && !e.2.ended

/-- A core whose macros do filler: it waits at a barrier, or has ended while others of its job run (R407). -/
def State.fills (s : State) (c : Nat) : Bool :=
  let k := s.core c
  match k.part with
  | none => false
  | some p => k.inJob && s.jobState p == 2 && (k.state == 5 || k.ended && s.othersRun c p)

/-- A filler operation: a refresh-ahead operation or a patrol read (R62, R407). -/
def fillerStep (c m : Nat) (bank patrol : Bool) (ups : List Upset) (s : State) : State :=
  let k := macKey c m
  if s.fills c && (s.mac k).betweenProducts then
    if patrol then s.patrolRow c k bank ups else refreshStep c m bank s
  else s

def execFiller (core m : Nat) (bank patrol : Bool) (ups : List Upset) (s : State) : Host.Outcome State Fault Refusal :=
  act (coreOk core && physOk m) s (fillerStep core m bank patrol ups s)

/-! ### Calibration (R94 to R96) -/

/-- The pace point of a level (Table 14.1). -/
def pacePoint (level : Nat) : Nat := if level ≤ 12 then 0 else level - 12

/-- The pace point of a die. -/
def State.diePace (s : State) (die : Nat) : Nat := pacePoint (mget s.power.dies PacedDie.reset die).level

/-- What makes a bank due (R94): the interval 0x5110:01, a temperature change of 0x5110:02, a change of pace point. -/
def calibrationDue (s : State) (c : Nat) (b : Bank) : Bool :=
  decide (b.calTick + s.dval 0x5110 0 1 500 * 1000000 / 240 ≤ s.hub.tick) ||
    decide ((s.dval 0x5110 0 2 8 * 100 : Nat) ≤ (s.temp (coreDie c) - b.calTemp).natAbs) || s.diePace (coreDie c) != b.calPace

/-- A bank becomes due. -/
def calibrationDueStep (c m : Nat) (bank : Bool) (s : State) : State :=
  let b := (s.mac (macKey c m)).bank bank
  if !b.due && calibrationDue s c b then s.updMac (macKey c m) fun x => x.setBank bank { b with due := true, dueTick := s.hub.tick } else s

def execCalibrationDue (core m : Nat) (bank : Bool) (s : State) : Host.Outcome State Fault Refusal :=
  act (coreOk core && physOk m) s (calibrationDueStep core m bank s)

/-- A bank of a macro has calibrated, at a tick, a temperature and a pace point. -/
def Macro.calibrated (m : Macro) (bank pause : Bool) (tick : Nat) (temp : Int) (pace : Nat) : Macro :=
  let m := m.setBank bank { m.bank bank with due := false, calibrating := .no, calTick := tick, calTemp := temp, calPace := pace }
  { m with stats := { m.stats with cals := satAdd 0xFFFF m.stats.cals 1, pauses := if pause then satAdd 255 m.stats.pauses 1 else m.stats.pauses } }

/-- A bank has calibrated. -/
def State.calibrated (s : State) (c k : Nat) (bank pause : Bool) : State :=
  s.updMac k fun m => m.calibrated bank pause s.hub.tick (s.temp (coreDie c)) (s.diePace (coreDie c))

/-- Ticks of 50 µs. -/
def ticks50us : Nat := 209

/-- A bank is idle: no step, read or write of its own but refresh for 50 µs, and no product that needs it has begun (R95). -/
def Macro.bankIdle (m : Macro) (bank : Bool) (tick : Nat) : Bool :=
  decide ((m.bank bank).used + ticks50us ≤ tick) && !m.bankBusy bank &&
    (m.run.isNone || (match m.queue with | .product i :: _ => decide (32 ≤ m.livePage i.page) != bank | _ => true))

/-- A due bank begins to calibrate in an idle window or at a job boundary: never while a product that needs it steps (R95). -/
def State.windowOpens (s : State) (c k : Nat) (bank : Bool) : Bool :=
  let b := (s.mac k).bank bank
  b.due && b.calibrating == .no && ((s.mac k).bankIdle bank s.hub.tick || s.atBoundary c)

/-- A calibration in a window: begun, or, if no product has stopped it, completed (R95). -/
def calibrationStep (c m : Nat) (bank : Bool) (ph : Carry) (s : State) : State :=
  let k := macKey c m
  let begins := ph != .perform && s.windowOpens c k bank
  let s := if begins then s.updMac k fun x => x.setBank bank { x.bank bank with calibrating := .window } else s
  if ph != .issue && ((s.mac k).bank bank).calibrating == .window then s.calibrated c k bank false else s

def execCalibration (core m : Nat) (bank : Bool) (ph : Carry) (s : State) : Host.Outcome State Fault Refusal :=
  act (coreOk core && physOk m) s (calibrationStep core m bank ph s)

/-- A pause begins between two steps of the product, a gap of its own, and ends with the bank calibrated (R62, R96); a product that has ended meanwhile
leaves it to end likewise. -/
def calibrationPauseStep (c m : Nat) (bank : Bool) (ph : Carry) (s : State) : State :=
  let k := macKey c m
  let begins := ph != .perform && s.pauseDue c (s.mac k) bank
  let s := if begins then s.updMac k fun x => (x.setBank bank { x.bank bank with calibrating := .pause }).useGap else s
  if ph != .issue && ((s.mac k).bank bank).calibrating == .pause then s.calibrated c k bank true else s

def execCalibrationPause (core m : Nat) (bank : Bool) (ph : Carry) (s : State) : Host.Outcome State Fault Refusal :=
  act (coreOk core && physOk m) s (calibrationPauseStep core m bank ph s)

/-! ### Restore (R99) -/

/-- A page that R99 restores: lost, live, of a rewritable macro, its shadow `SYNC`, no restore failed yet. -/
def Macro.restorable (m : Macro) (page : Nat) : Bool :=
  m.cfg.rewritable && (m.page page).lost && page == m.livePage (page % 32) && mget m.shadow 0 (page % 32) == 1 && !m.noRestore.contains page

/-- A restore: the shadow copied into the live bank and verified, its CRC against the shadow's; a verify that fails leaves the page lost (R99). The
page keeps its `GEN`: the spec does not say that a restore is a load of the page (DESIGN CHOICE, log entry 83). -/
def restoreStep (c m page : Nat) (ups : List Upset) (s : State) : State :=
  let k := macKey c m
  let x := s.mac k
  if !(x.restorable page && s.atBoundary c) then s
  else
    let sh := x.page (x.shadowPage (page % 32))
    let old := x.page page
    let copy := { sh with valid := false, lost := true, gen := old.gen, errs := sh.errs, idle := old.idle, restored := List.range 257 }
    let v := verifyPage (copy.upset ups) [] sh.crc s.fresh
    let s := { s with fresh := v.fresh }
    let s := s.updMac k fun m => { m with stats := { m.stats with verifyRewrites := satAdd 255 m.stats.verifyRewrites v.rewrites } }
    let s := (s.tallyCore c 4 (2 * 257)).tallyCore c 5 257
    match v.finding with
    | none => s.updMac k fun m => m.updPage page fun _ => { v.page with valid := true, lost := false, crc := v.page.crcNow }
    | some f =>
      let s := s.updMac k fun m =>
        { ((m.updPage page fun _ => { v.page.zeroRows 256 with valid := false, lost := true, errs := [] }).reject (page % 32) (if v.page.sparse24 then 2 * f.1 else f.1) f.2
            0x0207) with noRestore := m.noRestore ++ [page] }
      s.outsideFault (s.partOf c) (coreDie c) (coreFault (s.core c) 0x0207 2 0)

def execRestore (core m page : Nat) (ups : List Upset) (s : State) : Host.Outcome State Fault Refusal :=
  act (coreOk core && physOk m && pageOk page) s (restoreStep core m page ups s)

/-! ### Lane test and rebuild (R100, R101, R440) -/

/-- The logical rows of a physical row. -/
def Page.logicalRows (p : Page) (r : Nat) : List Nat := if p.sparse24 then (List.range 4).map fun i => 4 * (r / 2) + i else [r]

/-- What a lane test finds: the lanes whose sum, with the logical row stepped alone and disturbed as the surroundings say, differs from the weight as the
array code decodes it, in any row (R440). Only rows with a wrong cell or a disturbance can differ. -/
def laneFindings (p d : Page) (dist : List (Nat × Disturb)) : List Nat :=
  let rows := dist.map Prod.fst ++ p.suspects.flatMap p.logicalRows
  (List.range 256).filter fun l => rows.any fun j =>
    decide (p.weight j l + ((dist.filter fun e => e.1 == j && e.2.lane == l).map fun e => e.2.delta).sum ≠ d.weight j l)

/-- The lane test after a 0x0301, on the page that faulted: every logical row stepped alone, steps that count, all 257 rows read and decoded, the sums
compared; the lanes that fail get spares and a rebuild that the next job start waits for; with none the macro is charged a strike (R72, R439, R440). -/
def laneTestStep (c m : Nat) (ups : List Upset) (dist : List (Nat × Disturb)) (s : State) : State :=
  let k := macKey c m
  let clearing := match (s.core c).part with | none => false | some p => s.jobState p == 4
  match (s.mac k).testPage, clearing with
  | some page, true =>
    let s := s.updSpares fun x => { x with laneTests := satAdd 0xFFFFFFFF x.laneTests 1 }
    let p := ((s.mac k).page page).upset ups
    let v := scrubPage p s.fresh
    let failing := laneFindings p v.page dist
    let s := { s with fresh := v.fresh }
    let s := ((s.updMac k fun m =>
      { (m.updPage page fun _ => p.restore (List.range 257)).useBank (decide (32 ≤ page)) s.hub.tick with
          testPage := none, stats := { m.stats with steps := m.stats.steps + p.rows } }).tallyCore c 0 p.rows).tallyCore c 4 (2 * 257)
    if failing.isEmpty then s.strike k
    else
      (s.failLanes k (decide (32 ≤ page)) failing).updMac k fun m => { m with rebuildHold := !m.rebuild.isEmpty }
  | _, _ => s

def execLaneTest (core m : Nat) (ups : List Upset) (dist : List (Nat × Disturb)) (s : State) : Host.Outcome State Fault Refusal :=
  act (coreOk core && physOk m) s (laneTestStep core m ups dist s)

/-- The residue from which the word of a lane in a row is recovered, and the sum of the other words it covers (R100). -/
def rebuildTerms (p : Page) (row lane idx : Nat) : Nat × Int :=
  if p.sparse24 then
    let g := row / 2
    let w := (mget p.chkLane 0 (2 * g + idx / 2)).toNat
    let sum := [2 * g, 2 * g + 1].foldl (fun a q => ((p.rowSites q).filter fun e => e.1 != lane && cellIdx e.2 == idx).foldl
      (fun a e => a + cellVal e.2) a) 0
    (if idx % 2 = 0 then w % 128 else w / 256 % 128, sum)
  else ((mget p.chkLane 0 row).toNat % 128, ((p.rowSites row).filter fun e => e.1 != lane).foldl (fun a e => a + cellVal e.2) 0)

/-- The one value of the format with the residue, if there is one (R100). -/
def recoverValue (m : Int) (rho : Nat) (sum : Int) : Option Int :=
  let r := ((rho : Int) - sum) % 127
  if r ≤ m then some r else if 127 - m ≤ r then some (r - 127) else none

/-- The row's words that a recovery sums: lanes still to be recovered as the codewords decode them, the others as they stand (R100). -/
def rebuildView (p d : Page) (row : Nat) (later : List Nat) : Page := later.foldl (fun q l => q.putCell row l (d.cell row l)) p

/-- One row of a rebuild: the row's codewords decoded, each failing lane recovered in ascending order, and the row decoded with the recovered words.
The page with the recovered words in place of the lanes' own, or none where the row does not decode clean. The other row of a 2:4 group enters the sums
with the failing lanes' words as `rec` has them, recovered, where it came before, and else as its codewords decode them (R100). -/
def rebuildRow (lanes : List Nat) (p rec : Page) (fresh row : Nat) : Option Decoded :=
  let sites := if p.sparse24 then [row / 2 * 2, row / 2 * 2 + 1] else [row]
  let d := sites.foldl (fun (d : Decoded) r => (List.range 5).foldl (fun d w => decodeWord d r w) d)
    { page := p, corrected := false, lanes := [], uncorrectable := false, fresh := fresh }
  if p.sparse24 && (decodeWord { page := p, corrected := false, lanes := [], uncorrectable := false, fresh := fresh } row 4).uncorrectable then none
  else
    let step := fun (acc : Option (Page × List Nat)) (l : Nat) =>
      match acc with
      | none => none
      | some (q, later) =>
        let later := later.filter fun x => x != l
        let view := sites.foldl (fun v r =>
          if r = row then rebuildView v d.page r later else rebuildView v (if r < row then rec else d.page) r lanes) q
        let idx := cellIdx (d.page.cell row l)
        let t := rebuildTerms view row l idx
        match recoverValue (fmtMax p.wfmt) t.1 t.2 with
        | none => none
        | some v => some (q.putCell row l (cellOf v idx).toNat, later)
    match lanes.foldl step (some (p, lanes)) with
    | none => none
    | some (q, _) =>
      let e := decodeRow q d.fresh row
      if e.uncorrectable || e.lanes.any lanes.contains then none else some e

/-- The recovered words of a row go to the sites of the spares assigned; the failing lanes keep their own until the map acts (R101). -/
def Page.fillSpares (p q : Page) (row : Nat) (pairs : List (Nat × Nat)) : Page :=
  pairs.foldl (fun (x : Page) e =>
    { (x.putCell row e.2 (p.cell row e.2)) with idle := mset x.idle 0 (row * 512 + 256 + e.1 % 4) (BitVec.ofNat 10 (q.cell row e.2)) }) q

/-- A page as a rebuild leaves it, the rows in which it corrected other lanes with those lanes, the free values used, and whether every row decoded
clean: the rows before one that does not are done. -/
structure Rebuilt where
  page : Page
  rows : List (Nat × List Nat)
  fresh : Nat
  clean : Bool
deriving DecidableEq, Repr

/-- The check row's words of the lanes go to the spares' sites (R100, R101). -/
def Page.fillCheckRow (p : Page) (chk : Map (BitVec 16)) (pairs : List (Nat × Nat)) : Page :=
  { p with idle := pairs.foldl (fun m e => mset m 0 (256 * 512 + 256 + e.1 % 4) ((mget chk 0 e.2).setWidth 10)) p.idle }

/-- One page of a rebuild: every row in turn, until one does not decode clean; the check row of the lanes from the recovered words (R100). -/
def rebuildPage (pairs : List (Nat × Nat)) (p : Page) (fresh : Nat) : Rebuilt :=
  let lanes := (List.range 256).filter fun l => pairs.any fun e => e.2 == l
  let b := (List.range 256).foldl (fun (acc : Rebuilt × Page) r =>
    if !acc.1.clean then acc
    else
      match rebuildRow lanes acc.1.page acc.2 acc.1.fresh r with
      | none => ({ acc.1 with clean := false }, acc.2)
      | some d =>
        ({ page := acc.1.page.fillSpares d.page r pairs, rows := if d.corrected then acc.1.rows ++ [(r, d.lanes)] else acc.1.rows,
           fresh := d.fresh, clean := true }, lanes.foldl (fun q l => q.putCell r l (d.page.cell r l)) acc.2))
    ({ page := p.restore (List.range 257), rows := [], fresh := fresh, clean := true }, p)
  { b.1 with page := if b.1.clean then b.1.page.fillCheckRow b.2.rowResidue pairs else b.1.page }

/-- A valid page of a bank in its rebuild: rebuilt, or lost from the row that did not decode clean; the rows it corrected in other lanes count and are
charged as a patrol's (R98, R100). -/
def State.rebuildOne (s : State) (c k : Nat) (pairs : List (Nat × Nat)) (t : Nat) : State :=
  if !((s.mac k).page t).valid then s
  else
    let b := rebuildPage pairs ((s.mac k).page t) s.fresh
    let s := { s with fresh := b.fresh }.updMac k fun m =>
      { (m.updPage t fun _ => b.page) with stats := { m.stats with patrolCorrected := satAdd 0xFFFF m.stats.patrolCorrected b.rows.length } }
    let s := (b.rows.foldl (fun s e => s.chargeLanes k t e.1 e.2) s).tallyCore c 4 257
    if b.clean then s else (s.losePage k t).outsideFault (s.partOf c) (coreDie c) (coreFault (s.core c) 0x0302 2 0)

/-- A commit of a configuration: refused whole where two maps of it clash, else it waits for its boundary or tick (R58, R59, R68, R69). -/
def Macro.commit (m : Macro) (g : MacConfig) : Macro :=
  if g.clash then { m with mapReject := true } else { m with mapReject := false, committed := some g }

/-- The rebuild of the spares assigned in a bank, over its valid pages (R100); then the staged lane maps are committed: they act at the owner's next
job boundary, or at the next tick when no job of its runs (R58, R59, R101). -/
def laneRebuildStep (c m : Nat) (bank : Bool) (s : State) : State :=
  let k := macKey c m
  let mine := (s.mac k).rebuild.filter fun e => (decide (4 ≤ e.1)) == bank
  if mine.isEmpty then s
  else
    let pages := (List.range 32).map fun i => i + (if bank then 32 else 0)
    let s := pages.foldl (fun s t => s.rebuildOne c k mine t) s
    s.updMac k fun m =>
      let rest := m.rebuild.filter fun e => (decide (4 ≤ e.1)) != bank
      let g := m.committed.getD m.cfg
      let m := { m.useBank bank s.hub.tick with rebuild := rest, rebuildHold := m.rebuildHold && !rest.isEmpty }
      m.commit { g with lanes := mine.foldl (fun q e => mset (dropLane q bank e.2) 0 e.1 (2 ^ 31 + e.2)) g.lanes }

def execLaneRebuild (core m : Nat) (bank : Bool) (s : State) : Host.Outcome State Fault Refusal :=
  act (coreOk core && physOk m) s (laneRebuildStep core m bank s)

end Sys2Proof.Machine
end

