-- ==== Sys2Proof/Machine/Power.lean ====
section
/-! DEFINITION. The power manager: levels, shares, limits, alerts, droop and temperature (R390 to R423). -/

namespace Sys2Proof.Machine

/-- The preempted jobs of a partition, 0x3020:15. -/
abbrev cPreempted : Nat := 24

/-! ### What the limits depend on -/

def State.die (s : State) (d : Nat) : PacedDie := mget s.power.dies PacedDie.reset d
def State.updDie (s : State) (d : Nat) (f : PacedDie → PacedDie) : State :=
  s.updPower fun w => { w with dies := mupd w.dies PacedDie.reset d f }
def State.updRail (s : State) (r : Nat) (f : Rail → Rail) : State :=
  s.updPower fun w => { w with rails := mupd w.rails Rail.reset r f }

/-- The device budget, mW (0x3000:01). -/
def State.budget (s : State) : Nat := s.dval 0x3000 0 1 3400 * 1000

/-- Wires enabled (0x3050:05). -/
def State.alertMask (s : State) : Nat := s.dval 0x3050 0 5 0xFF

/-- The alert force holds (R412). -/
def State.forced (s : State) : Bool := s.power.forceEnd != 0

/-- The threshold 0x4000:01, hundredths of a degree. -/
def State.thermalThreshold (s : State) : Int := s.dval 0x4000 0 1 100 * 100

/-- The recorded ceiling of a core, or of Skink engine `e` at 10000 + e (R395). -/
def State.ceiling (s : State) (unit : Nat) : Nat := mget s.power.ceilings 7 unit

/-- 0x2100:09: the lowest recorded ceiling among a partition's placed cores (Table 9.7). -/
def State.lowCeiling (s : State) (p : Nat) : Nat := (s.part p).placement.cores.foldl (fun a e => min a (s.ceiling e.2)) 7

/-- Host maximum as a level (Table 14.7). -/
def State.hostCap (s : State) (p : Nat) : Nat := 12 + s.dval 0x3020 p 1 7

/-- A partition that is marked and has no job stays at level 0 (R406). -/
def State.idleMarked (s : State) (p : Nat) : Bool := (s.part p).marked && (s.part p).job.isNone

/-- The dies of a partition's placement in force; before its first, those it holds. -/
def State.placedDies (s : State) (p : Nat) : List Nat :=
  if (s.part p).placement.dies.isEmpty then s.partDies p else (s.part p).placement.dies

/-- The regime of R397, by the placement in force: a partition that passes to three dies changes at the job boundary at which its new placement takes
effect. -/
def State.byCeilings (s : State) (p : Nat) : Bool := decide (3 ≤ (s.placedDies p).length)

/-- The bound of the ceilings or of the monitors (Table 14.7). -/
def State.unitCap (s : State) (p : Nat) : Nat := if s.byCeilings p then 12 + s.lowCeiling p else (s.part p).monitorCap

/-- The cap of R403, from the bounds of Table 14.7 that are not forces. -/
def State.levelCap (s : State) (p : Nat) : Nat := if s.idleMarked p then 0 else min (s.hostCap p) (s.unitCap p)

/-- A thermal action forces a partition to level 0 (Table 14.6). -/
def State.thermalForced (s : State) (p : Nat) : Bool :=
  s.power.hotDies.any fun d => d == 18 || d == 19 || (s.partDies p).contains d

/-- A die of the partition is at 0x4000:01: its level lowers and does not rise. -/
def State.thermalLowering (s : State) (p : Nat) : Bool := s.power.lowering.any fun e => (s.partDies p).contains e.1

/-- A clamp is active on a die of the partition (R410). -/
def State.clampActive (s : State) (p : Nat) : Bool := (s.partDies p).any fun d => (s.die d).quarters != 0

/-- Open slots of 16 (Table 14.1). -/
def levelFraction (l : Nat) : Nat := if l ≤ 12 then l + 4 else 16

/-- 0x3020:11: the bounds that limit a partition's level (Table 14.8). -/
def State.limits (s : State) (p : Nat) : Nat :=
  let q := s.part p
  bit (q.level == s.hostCap p) + bit (decide (q.share < q.estimate)) * 2 +
    bit (s.byCeilings p && q.level == 12 + s.lowCeiling p) * 4 + bit (!s.byCeilings p && q.level == q.monitorCap && q.monitorCap != 19) * 8 +
    bit (s.thermalForced p || s.thermalLowering p) * 16 + bit s.forced * 32 + bit (s.clampActive p) * 64 + bit q.marked * 128

/-! ### Changing level (R394) -/

/-- What runs at a level: partition `t` below 16, engine die 16 or 17. -/
def State.levelOf (s : State) (t : Nat) : Nat := if t < 16 then (s.part t).level else (s.die t).level
def State.decidedOf (s : State) (t : Nat) : Option Nat := if t < 16 then (s.part t).decided else (s.die t).decided
def State.raiseOf (s : State) (t : Nat) : Option (Nat × Nat) := if t < 16 then (s.part t).raise else (s.die t).raise

/-- The dies that run at a target's level. -/
def State.targetDies (s : State) (t : Nat) : List Nat := if t < 16 then s.partDies t else [t]

/-- Decides a level; of several decisions of one tick the lowest holds. -/
def State.decideLevel (s : State) (t l : Nat) : State :=
  let join (d : Option Nat) : Option Nat := match d with | none => some l | some k => some (min k l)
  if t < 16 then s.updPart t fun q => { q with decided := join q.decided } else s.updDie t fun d => { d with decided := join d.decided }

/-- The voltage target of a die at a pace point, with its trim (R396). -/
def PacedDie.volts (d : PacedDie) (pace : Nat) : Nat := ((Config.paceMv pace : Int) + d.trim).toNat

/-- The voltage targets of a target's dies, written over AVSBus (R394, R398). -/
def State.setVolts (s : State) (t pace : Nat) : State := (s.targetDies t).foldl (fun s d => s.updDie d fun x => { x with targetMv := x.volts pace }) s

/-- A droop clamp on a die of a partition defers the level changes of the budget controller and of host pace requests to the first tick after it
releases (R410); of several the lowest holds. -/
def State.deferLevel (s : State) (p l : Nat) : State :=
  s.updPart p fun q => { q with deferred := some (match q.deferred with | none => l | some k => min k l) }

/-- A level that the budget controller, a device limit or a host request decides (R410). -/
def State.requestLevel (s : State) (t l : Nat) : State := if t < 16 && s.clampActive t then s.deferLevel t l else s.decideLevel t l

/-- Sets a target's level and voltage targets; a partition's change of level is traced (R475). -/
def State.setLevel (s : State) (t l : Nat) : State :=
  let s := (s.targetDies t).foldl (fun s d => s.updDie d fun x => { x with level := l, targetMv := x.volts (pacePoint l) }) s
  if t < 16 then (if (s.part t).level = l then s else (s.updPart t fun q => { q with level := l }).trace t 4 (leBytes 4 l))
  else s.updDie t fun x => { x with level := l, targetMv := x.volts (pacePoint l) }

def State.setRaise (s : State) (t : Nat) (r : Option (Nat × Nat)) : State :=
  if t < 16 then s.updPart t fun q => { q with raise := r, upTicks := 0 } else s.updDie t fun d => { d with raise := r }

def State.clearDecided (s : State) (t : Nat) : State :=
  if t < 16 then s.updPart t fun q => { q with decided := none } else s.updDie t fun d => { d with decided := none }

/-- A target is there to run at a level. -/
def State.hasTarget (s : State) (t : Nat) : Bool := decide (16 ≤ t) || s.exists_ t

/-- The decided level acts: a lowering at once, cancelling a raise; a raise within PP0 at once; a raise of the pace point once the rails
report the higher target, and none while a raise is pending (R394). -/
def levelChangeStep (t : Nat) (s : State) : State :=
  match s.decidedOf t with
  | none => s
  | some l =>
    let s := s.clearDecided t
    let cur := s.levelOf t
    if l < cur then (s.setRaise t none).setLevel t l
    else if l = cur ∨ (s.raiseOf t).isSome then s
    else if pacePoint l = pacePoint cur then s.setLevel t l
    else (s.setVolts t (pacePoint l)).setRaise t (some (l, s.hub.tick))

def execLevelChange (target : Nat) (s : State) : Host.Outcome State Fault Refusal := act (targetOk target) s (levelChangeStep target s)

/-- Partitions that hold Skink engines or a plaza share on engine die 0 or 1. -/
def State.onEngineDie (s : State) (e : Nat) : List Nat :=
  s.partsHere.filter fun p => s.dval 0x2000 p (3 + e) 0 != 0 || s.dval 0x2000 p (5 + e) 0 != 0

/-- The ceiling of an engine die: the lowest of its usable engines (R393). -/
def State.engineCeiling (s : State) (e : Nat) : Nat :=
  (List.range 18).foldl (fun a i => if s.spares.skinks.contains (18 * e + i) then a else min a (s.ceiling (10000 + 18 * e + i))) 7

/-- The level that the bounds in force leave an engine die: that of the highest of its partitions, its ceiling, a force, a thermal action (R393, Tables
14.6, 14.7). -/
def State.engineBound (s : State) (e : Nat) : Nat :=
  let t := 16 + e
  let want := min ((s.onEngineDie e).foldl (fun a p => max a (s.part p).level) 0) (12 + s.engineCeiling e)
  if s.forced || s.power.hotDies.any (fun d => d == 18 || d == 19 || d == t) then 0
  else if s.power.lowering.any fun x => x.1 == t then min want (s.levelOf t) else want

/-- The level that the bounds in force leave a target (Table 14.7). -/
def State.bound (s : State) (t : Nat) : Nat :=
  if 16 ≤ t then s.engineBound (t - 16)
  else if s.forced || s.thermalForced t then 0
  else if s.thermalLowering t then min (s.levelCap t) (s.levelOf t) else s.levelCap t

/-- Every rail of a pending raise reports its target: the new issue interval applies, as far as the bounds now in force let it; where they leave no
raise, the old voltage target is restored (R394, R415). -/
def railReachedStep (t : Nat) (s : State) : State :=
  match s.raiseOf t with
  | none => s
  | some r =>
    let l := min r.1 (s.bound t)
    if s.levelOf t < l then (s.setRaise t none).setLevel t l else (s.setVolts t (pacePoint (s.levelOf t))).setRaise t none

def execRailTargetReached (target : Nat) (s : State) : Host.Outcome State Fault Refusal := act (targetOk target) s (railReachedStep target s)

/-- A raise not confirmed within 40 ticks is abandoned, the old target restored, the rail's alarm raised (R394). -/
def raiseTimeoutStep (t rail : Nat) (s : State) : State :=
  match s.raiseOf t with
  | none => s
  | some r =>
    if s.hub.tick < r.2 + 40 then s
    else
      ((s.setVolts t (pacePoint (s.levelOf t))).setRaise t none).alarm 3 rail hubSource

def execRaiseTimeout (target rail : Nat) (s : State) : Host.Outcome State Fault Refusal :=
  act (targetOk target && railOk rail) s (raiseTimeoutStep target rail s)

/-! ### The pacing registers (R423) -/

/-- The target whose level a paced die follows: its partition, or an engine die itself. -/
def State.targetOf (s : State) (d : Nat) : Option Nat := if d < 16 then s.dieOwner d else some d

/-- A thermal action of Table 14.6 applies to a paced die: its partition's, the engine die's, or that of `HD` or `PD`. -/
def State.dieThermal (s : State) (d : Nat) : Bool :=
  let mine := match s.targetOf d with | none => [d] | some t => s.targetDies t
  s.power.hotDies.any (fun x => x == 18 || x == 19 || mine.contains x) || s.power.lowering.any fun e => mine.contains e.1

/-- A read of a paced die's pacing register block (Tables 14.14, 14.15). -/
def State.pwrReg (s : State) (d off : Nat) : Nat :=
  let x := s.die d
  if off = 0x000 then
    pacePoint x.level % 8 * 2 ^ 29 + levelFraction x.level * 2 ^ 24 +
      bit (match s.targetOf d with | none => false | some t => (s.raiseOf t).isSome) * 2 ^ 23 + bit (x.quarters != 0) * 2 ^ 22 + bit s.forced * 2 ^ 21 +
      bit (s.dieThermal d) * 2 ^ 20 + min 255 ((s.power.temps.getD d 0) / 100).toNat * 2 ^ 12 + x.slack % 16 * 2 ^ 8
  else if off = 0x004 then x.targetMv % 2 ^ 10 * 2 ^ 12 + (BitVec.ofInt 8 x.trim).toNat * 2 ^ 4
  else if off = 0x008 then x.clamps % 2 ^ 16 * 2 ^ 16 + x.quarters % 16 * 2 ^ 8 + bit x.clamped
  else 0

/-! ### The controller (R399 to R405) -/

/-- Events inside units belong to the partition that their unit is bound to: those on an array die's rail to the partition that holds the die, Skink
cycles to a partition that holds engines there; an event of a partition that is none belongs to the overhead (R401). -/
def State.bind (s : State) (a : Activity) : Activity :=
  { a with part :=
      if a.rail < 16 then s.dieOwner a.rail
      else match a.part with
        | none => none
        | some p =>
          if !s.exists_ p || (decide ((a.kind = 9 ∨ a.kind = 10) ∧ (a.rail = 16 ∨ a.rail = 17)) && s.dval 0x2000 p (a.rail - 13) 0 == 0) then none else some p }

/-- What the activity counters of a tick hold: those that the device's own commands advanced, and those of the events inside its units (R399). -/
def State.activities (s : State) (acts : List Activity) : List Activity :=
  (s.power.counts.map fun (e : Nat × Nat) =>
    { rail := e.1 / 289, part := if e.1 / 17 % 17 = 16 then none else some (e.1 / 17 % 17), kind := e.1 % 17, count := e.2 : Activity }) ++ acts.map s.bind

/-- The present target of a rail, mV: paced rails follow the die's target, the others are fixed (Table 14.3). -/
def State.railMv (s : State) (rail : Nat) : Nat := if rail < 18 then (s.die rail).targetMv else 750

/-- The energy of events on a rail in a tick as mW over its 240 ns, under (V ÷ 0.75 V)² on a paced rail; fractions of a mW are dropped (R399). -/
def State.eventMw (s : State) (rail : Nat) (acts : List Activity) : Nat :=
  (acts.map fun a => a.count * Config.energyFj rail a.kind).sum * (s.railMv rail * s.railMv rail) / (750 * 750 * 240000)

/-- The leakage of a die, on the rail of its number (R399). -/
def State.leakage (s : State) (d : Nat) : Nat := Config.leakageMw d (s.railMv d) (s.power.temps.getD d 0)

/-- One rail's raw estimate of a tick and to whom it belongs, in mW: each partition's activity and leakage, and the overhead (R399, R401). -/
structure RailRaw where
  rail : Nat
  parts : List (Nat × Nat × Nat)
  overhead : Nat
deriving DecidableEq, Repr

/-- The raw estimate of a rail: the leakage of an array die belongs to the partition that holds it, that of any other die to the overhead (R401). -/
def State.railRaw (s : State) (acts : List Activity) (rail : Nat) : RailRaw :=
  let mine := acts.filter fun a => a.rail == rail
  let leak := if rail < 20 then s.leakage rail else 0
  let owner := if rail < 16 then s.dieOwner rail else none
  { rail := rail,
    parts := s.partsHere.map fun p => (p, s.eventMw rail (mine.filter fun a => a.part == some p), if owner = some p then leak else 0),
    overhead := s.eventMw rail (mine.filter fun a => match a.part with | none => true | some p => !s.exists_ p) + (if owner.isSome then 0 else leak) }

/-- The raw estimates of the rails (R399). -/
def State.railRaws (s : State) (acts : List Activity) : List RailRaw := (List.range 24).map (s.railRaw (s.activities acts))

/-- A raw estimate under a rail's calibration factor (R400). -/
def State.calibratedMw (s : State) (rail raw : Nat) : Nat := raw * (mget s.power.rails Rail.reset rail).k4096 / 4096

/-- A partition's activity and leakage of a tick. -/
def State.drawn (s : State) (raws : List RailRaw) (p : Nat) : Nat × Nat :=
  raws.foldl (fun a r => (r.parts.filter fun e => e.1 == p).foldl (fun a e =>
    (a.1 + s.calibratedMw r.rail e.2.1, a.2 + s.calibratedMw r.rail e.2.2)) a) (0, 0)

/-- The overhead of a tick. -/
def State.overheadDrawn (s : State) (raws : List RailRaw) : Nat := raws.foldl (fun a r => a + s.calibratedMw r.rail r.overhead) 0

/-- Everything a rail drew, uncalibrated. -/
def railTotal (r : RailRaw) : Nat := r.overhead + (r.parts.map fun e => e.2.1 + e.2.2).sum

/-- P(level') ≤ 95 % of the share: activity scales by voltage squared times issue rate, leakage by voltage squared (R403, Table 14.5). -/
def fitsAt (dyn leak level level' share : Nat) : Bool :=
  let v := Config.paceMv (pacePoint level)
  let v' := Config.paceMv (pacePoint level')
  let f := levelFraction level
  let f' := levelFraction level'
  let t := Config.paceStep (pacePoint level)
  let t' := Config.paceStep (pacePoint level')
  decide ((dyn * f' * t + leak * f * t') * (v' * v') * 100 ≤ 95 * share * (f * t') * (v * v))

/-- Counts a tick's estimate and energy of a partition (R403, R416). -/
def State.countPower (s : State) (p est : Nat) : State :=
  (s.updPart p fun q =>
    { q with estimate := est, estSum := q.estSum + est, energy := q.energy + est * 240,
             zeroTicks := if q.level = 0 ∧ q.share < est then q.zeroTicks + 1 else 0 }).updJob p fun j => { j with energy := j.energy + est * 240 }

/-- One partition under the rule of R403; a change that falls under a clamp waits for its release, but for the bounds of ceilings and monitors (R410,
Table 14.7). -/
def State.controlPart (s : State) (p dyn leak : Nat) : State :=
  let q := s.part p
  let cap := s.levelCap p
  if s.forced || s.thermalForced p then
    let s := s.updPart p fun q => { q with upTicks := 0, deferred := none }
    if q.level = 0 then s else s.decideLevel p 0
  else
    let lower := decide (q.share < q.estimate)
    let up :=
      if lower || q.raise.isSome || s.thermalLowering p || q.deferred.isSome then 0 else if fitsAt dyn leak q.level (q.level + 1) q.share then q.upTicks + 1 else 0
    let l := if lower then q.level - 1 else if 16 ≤ up then q.level + 1 else q.deferred.getD q.level
    let l := if q.raise.isSome || s.thermalLowering p then min l q.level else l
    let s := s.updPart p fun q => { q with upTicks := if 16 ≤ up then 0 else up }
    if s.clampActive p then
      let s := if min l cap = q.level then s else s.deferLevel p (min l cap)
      if s.unitCap p < q.level then s.decideLevel p (s.unitCap p) else s
    else
      let s := s.updPart p fun q => { q with deferred := none }
      if min l cap = q.level then s else s.decideLevel p (min l cap)

/-- An engine die runs at the highest level of those partitions, within its own limits; it asks for no raise while one is pending (R393, R394). -/
def State.controlEngineDie (s : State) (e : Nat) : State :=
  let t := 16 + e
  let forced := s.forced || s.power.hotDies.any fun d => d == 18 || d == 19 || d == t
  let l := s.engineBound e
  if !forced && (s.onEngineDie e).isEmpty || l = s.levelOf t || (decide (s.levelOf t < l) && (s.raiseOf t).isSome) then s else s.decideLevel t l

/-- Whether a budget shortfall exists: a partition at level 0 above its share for 16 ticks (R405). -/
def State.shortNow (s : State) : Bool := s.partsHere.any fun p => decide (16 ≤ (s.part p).zeroTicks)

/-- 0x3000:12 returns to 0 when no partition is marked and no shortfall exists (R406). -/
def State.settleShortfall (s : State) : State :=
  if s.shortNow || s.partsHere.any fun p => (s.part p).marked then s else s.updPower fun w => { w with shortfall := false }

/-- The PMBus address of a rail (Table 14.10). -/
def State.pmbus (s : State) (rail : Nat) : Nat := s.dval 0x3040 0 (rail + 1) 0 / 2 ^ 16 % 128

/-- A tick's raw estimate enters the sum since the last reading; of a rail that is not read, the sum starts again each 1 ms (R400). -/
def Rail.addRaw (r : Rail) (read : Bool) (mw : Nat) : Rail :=
  if !read && decide (Config.msTicks ≤ r.rawTicks) then { r with rawSum := mw, rawTicks := 1 } else { r with rawSum := r.rawSum + mw, rawTicks := r.rawTicks + 1 }

/-- One tick of power: raw estimates from the activity counters, which restart, energies, the controller of each partition and engine die, the device's 4,000 W limit (R399 to R406, R416). -/
def levelControlStep (acts : List Activity) (s : State) : State :=
  let raws := s.railRaws acts
  let ohead := s.overheadDrawn raws
  let ps := s.partsHere
  let total := ohead + (ps.map fun p => (s.drawn raws p).1 + (s.drawn raws p).2).sum
  let r := s
  let s := ps.foldl (fun s p => s.countPower p ((r.drawn raws p).1 + (r.drawn raws p).2)) s
  let s := raws.foldl (fun s x => s.updRail x.rail fun y => y.addRaw (s.pmbus x.rail != 0) (railTotal x)) s
  let s := s.updPower fun w =>
    { w with counts := [], estimate := total, overheadSum := w.overheadSum + ohead, sumTicks := w.sumTicks + 1,
             overheadEnergy := w.overheadEnergy + ohead * 240, overTicks := if r.budget < total then w.overTicks + 1 else 0,
             underTicks := if total * 10 ≤ r.budget * 9 then w.underTicks + 1 else 0 }
  let s := ps.foldl (fun s p => s.controlPart p (r.drawn raws p).1 (r.drawn raws p).2) s
  let s := [0, 1].foldl (fun s e => s.controlEngineDie e) s
  let s := if 4000000 < total then (ps ++ [16, 17]).foldl (fun s t => s.requestLevel t (s.levelOf t - 1)) s else s
  s.settleShortfall

def execLevelControl (acts : List Activity) (s : State) : Host.Outcome State Fault Refusal :=
  act (acts.all activityOk) s (levelControlStep acts s)

/-- A rail block that waits acts at the 1 ms reading; k of a rail without an address is 1.0 (R419). -/
def State.settleRails (s : State) : State :=
  match s.power.newRails with
  | none => s
  | some ws =>
    let s := { s with dict := ws.zipIdx.foldl (fun m (e : Nat × Nat) => mset m [] (dkey 0x3040 0 (e.2 + 1)) (leBytes 4 e.1)) s.dict }
    ws.zipIdx.foldl (fun s (e : Nat × Nat) => if e.1 / 2 ^ 16 % 128 = 0 then s.updRail e.2 fun r => { r with k4096 := 4096, fails := 0 } else s)
      (s.updPower fun w => { w with newRails := none })

/-- One byte of the PMBus's packet error check, CRC-8 of polynomial x^8 + x^2 + x + 1 (log entry 87). -/
def pecByte (c b : Nat) : Nat := (List.range 8).foldl (fun c _ => if 128 ≤ c then (2 * c ^^^ 0x107) % 256 else 2 * c) ((c ^^^ b) % 256)

/-- The check of a `READ_POUT` and its answer: address with write, command, address with read, data low and high (R398; log entry 87). -/
def pmbusPec (addr word : Nat) : Nat := [2 * addr, 0x96, 2 * addr + 1, word % 256, word / 256 % 256].foldl pecByte 0

/-- A LINEAR11 word in mW: an 11-bit signed mantissa at a 5-bit signed power of two of a watt; a negative reading is 0 (R398; log entry 87). -/
def linear11 (word : Nat) : Nat :=
  let y := word % 2048
  let n := word / 2048 % 32
  if 1024 ≤ y then 0 else if n < 16 then y * 1000 * 2 ^ n else y * 1000 / 2 ^ (32 - n)

/-- The calibration factor after a reading of `m` milliwatts, in 4096ths (R400). -/
def Rail.calibrate (r : Rail) (m : Nat) : Nat :=
  let target : Int := (m * r.rawTicks * 4096 / r.rawSum : Nat)
  let k : Int := r.k4096 + (target - r.k4096) / 8
  (max 2048 (min 8192 k)).toNat

/-- The power that an answer gives, in mW; none where there is no answer or its check does not hold, which a read requires (R398). -/
def readingOf (addr : Nat) (reply : Option BusReply) : Option Nat :=
  match reply with
  | some r => if r.pec = pmbusPec addr r.word then some (linear11 r.word) else none
  | none => none

/-- Every 1 ms a rail with a PMBus address is read and calibrated (R398, R400, R419). -/
def readPoutStep (rail : Nat) (reply : Option BusReply) (s : State) : State :=
  let s := s.settleRails
  if s.pmbus rail = 0 then s
  else
    match readingOf (s.pmbus rail) reply with
    | none =>
      let s := (s.updRail rail fun r => { r with fails := r.fails + 1, rawSum := 0, rawTicks := 0 }).updPower fun w =>
        { w with readFails := satAdd 0xFFFFFFFF w.readFails 1 }
      if (mget s.power.rails Rail.reset rail).fails = 3 then s.alarm 3 rail hubSource else s
    | some m =>
      let old := (mget s.power.rails Rail.reset rail).pout
      (s.updRail rail fun r =>
        if r.rawTicks * 1000 < r.rawSum then { r with pout := m / 1000, k4096 := r.calibrate m, fails := 0, rawSum := 0, rawTicks := 0 }
        else { r with pout := m / 1000, rawSum := 0, rawTicks := 0 }).updPower fun w => { w with measured := w.measured + m / 1000 - old }

def execReadPout (rail : Nat) (reply : Option BusReply) (s : State) : Host.Outcome State Fault Refusal :=
  act (railOk rail) s (readPoutStep rail reply s)

/-! ### Shares (R402) -/

/-- The mean overhead of the ticks since the last recomputation. -/
def Power.newMean (w : Power) : Nat := if w.sumTicks = 0 then w.overhead else w.overheadSum / w.sumTicks

def State.weight (s : State) (p : Nat) : Nat := s.dval 0x3010 p 1 100

/-- Base share of a partition: its part by weight of the budget less the mean overhead of the last 1 ms that has ended (R402; DEDUCED, log entry 101). -/
def State.baseShare (s : State) (p : Nat) : Nat :=
  let ws := (s.partsHere.map fun q => s.weight q).sum
  if ws = 0 then 0 else (s.budget - s.power.overhead) * s.weight p / ws

/-- Base shares after a commit; what is lent and borrowed stands until the next 1 ms recomputation (R402). -/
def State.setBaseShares (s : State) : State :=
  s.partsHere.foldl (fun t p => t.updPart p fun q => { q with share := ((s.baseShare p : Int) + q.lendNet).toNat }) s

/-- Mean estimate of a partition over the last 1 ms. -/
def State.meanEstimate (s : State) (p : Nat) : Nat :=
  if s.power.sumTicks = 0 then (s.part p).estimate else (s.part p).estSum / s.power.sumTicks

/-- A partition below 90 % of its base share lends. -/
def State.lends (s : State) (p : Nat) : Bool := decide (s.meanEstimate p * 10 < s.baseShare p * 9)

/-- What it lends. -/
def State.lent (s : State) (p : Nat) : Nat := if s.lends p then s.baseShare p - s.meanEstimate p * 11 / 10 else 0

/-- The share in use: the base share less what is lent, plus a part by weight of what others lend (R402). -/
def State.shareInUse (s : State) (p : Nat) : Nat :=
  let pool := (s.partsHere.map fun q => s.lent q).sum
  let ws := ((s.partsHere.filter fun q => !s.lends q).map fun q => s.weight q).sum
  if s.lends p then s.baseShare p - s.lent p else s.baseShare p + (if ws = 0 then 0 else pool * s.weight p / ws)

/-- The 1 ms recomputation: the mean overhead of the millisecond that ends, then the shares. -/
def shareStep (s : State) : State :=
  let s := s.updPower fun w => { w with overhead := w.newMean }
  (s.partsHere.foldl (fun t p => t.updPart p fun q =>
      { q with share := s.shareInUse p, lendNet := (s.shareInUse p : Int) - s.baseShare p, estSum := 0 }) s).updPower fun w =>
    { w with overheadSum := 0, sumTicks := 0 }

def execShareRecomputation (s : State) : Host.Outcome State Fault Refusal := act true s (shareStep s)

/-! ### Short of budget (R404 to R406) -/

/-- The estimate has stood above the budget for 10 ms: every partition lowers one level (R404). -/
def overrunStep (s : State) : State :=
  if 41667 ≤ s.power.overTicks ∧ s.budget < s.power.estimate then s.partsHere.foldl (fun s p => s.requestLevel p (s.levelOf p - 1)) s else s

def execBudgetOverrun (s : State) : Host.Outcome State Fault Refusal := act true s (overrunStep s)

/-- Priority of a partition (0x2000:09). -/
def State.priority (s : State) (p : Nat) : Nat := s.dval 0x2000 p 9 0

/-- The unmarked partition of lowest priority, ties to the higher number. -/
def State.nextMarked (s : State) : Option Nat :=
  (s.partsHere.filter fun p => !(s.part p).marked).foldl (fun a p => match a with
    | none => some p
    | some b => if s.priority p ≤ s.priority b then some p else some b) none

/-- A shortfall: the alarm in its first tick, and one partition marked then and every 4,167 ticks on (R405). -/
def shortfallStep (s : State) : State :=
  if !s.shortNow then s
  else
    let first := !s.power.shortfall
    let s := if first then (s.updPower fun w => { w with shortfall := true }).alarm 4 0 hubSource else s
    if first || decide (s.power.lastMark + Config.msTicks ≤ s.hub.tick) then
      match s.nextMarked with
      | none => s
      | some p => (s.updPart p fun q => { q with marked := true }).updPower fun w => { w with lastMark := s.hub.tick }
    else s

def execBudgetShortfall (s : State) : Host.Outcome State Fault Refusal := act true s (shortfallStep s)

/-- The marked partition of highest priority, ties to the lower number. -/
def State.nextUnmarked (s : State) : Option Nat :=
  (s.partsHere.filter fun p => (s.part p).marked).foldl (fun a p => match a with
    | none => some p
    | some b => if s.priority b < s.priority p then some p else some b) none

/-- The estimate has stood at or below 90 % of the budget for 4,167 ticks: one partition is unmarked (R406). -/
def unmarkStep (s : State) : State :=
  if s.power.underTicks < Config.msTicks then s
  else
    match s.nextUnmarked with
    | none => s
    | some p => ((s.updPart p fun q => { q with marked := false, preempted := false }).updPower fun w => { w with underTicks := 0 }).settleShortfall

def execUnmark (s : State) : Host.Outcome State Fault Refusal := act true s (unmarkStep s)

/-! ### Monitors and ceilings (R395, R396) -/

/-- One pace point below a level's. -/
def belowPace (l : Nat) : Nat := if pacePoint l ≤ 1 then 12 else 12 + (pacePoint l - 1)

/-- The lowest slack that a die's monitors report: 15 taps where no core runs. -/
def lowestSlack (slacks : List (Nat × Nat)) : Nat := slacks.foldl (fun a e => min a e.2) 15

/-- A core's reading carried to the corner of R395: where less than 2 taps remain at its ceiling, the tick counts in its accumulated time. -/
def State.extrapolate (s : State) (die core slack : Nat) : State :=
  let short := Config.slackAt105 die slack (s.die die).targetMv (s.power.temps.getD die 0) (s.die die).level (s.ceiling core)
  if short < 2 then s.updPower fun w => { w with shortTicks := mset w.shortTicks 0 core (mget w.shortTicks 0 core + 1) } else s

/-- The rail's target with the trim, at the pace point in force, or at the one that a pending raise has asked for (R394, R396). -/
def State.retrim (s : State) (p die : Nat) (trim : Int) (good clear : Nat) : State :=
  let pace := match (s.part p).raise with | some r => pacePoint r.1 | none => pacePoint (s.part p).level
  s.updDie die fun d =>
    { d with trim := trim, goodTicks := good, clearTicks := clear, targetMv := ({ d with trim := trim } : PacedDie).volts pace }

/-- The bound of the monitors is lifted once every core of the partition's dies has shown slack 4 or more for 1 s (R396). -/
def State.liftBound (s : State) (p : Nat) : State :=
  if (s.partDies p).all fun d => decide (4166667 ≤ (s.die d).clearTicks) then s.updPart p fun q => { q with monitorCap := 19 } else s

/-- The slack that the monitors of a die's running cores report in a tick: each goes into its core's accumulated time (R395); the trim of a small
partition follows the lowest (R396); elsewhere the trim stays 0 (R397). -/
def monitorStep (die : Nat) (slacks : List (Nat × Nat)) (s : State) : State :=
  let lowest := min 15 (lowestSlack slacks)
  let s := slacks.foldl (fun s e => s.extrapolate die (die * 272 + e.1 % 272) (min 15 e.2)) (s.updDie die fun d => { d with slack := lowest })
  match s.dieOwner die with
  | none => s
  | some p =>
    if s.byCeilings p then s
    else
      let d := s.die die
      if lowest ≤ 1 then
        if d.trim < 20 then s.retrim p die (d.trim + 5) 0 0
        else (s.retrim p die d.trim 0 0).updPart p fun q => { q with monitorCap := min q.monitorCap (belowPace q.level) }
      else if lowest < 4 then s.retrim p die d.trim 0 0
      else
        (if d.goodTicks + 1 = 64 then s.retrim p die (max (-40) (d.trim - 5)) 0 (d.clearTicks + 1)
         else s.retrim p die d.trim (d.goodTicks + 1) (d.clearTicks + 1)).liftBound p

def execMonitorTrim (die : Nat) (slacks : List (Nat × Nat)) (s : State) : Host.Outcome State Fault Refusal :=
  act (arrayDieOk die) s (monitorStep die slacks s)

/-- A core short of slack for 1 s of accumulated time: its recorded ceiling falls by one, from the next tick, at most once per 10 s; below PP0 it is
retired (R395, Table 15.4). -/
def ceilingStep (unit : Nat) (s : State) : State :=
  if s.spares.cores.contains unit ∨ mget s.power.shortTicks 0 unit < 4166667 ∨
      (mget s.power.ceilLast 0 unit ≠ 0 ∧ s.hub.tick + 1 < mget s.power.ceilLast 0 unit + 41666667) then s
  else if s.ceiling unit = 0 then
    s.updSpares fun x => { x with pendingCores := if x.pendingCores.contains unit then x.pendingCores else x.pendingCores ++ [unit] }
  else
    s.updPower fun w =>
      { w with ceilNext := mset w.ceilNext 7 unit (s.ceiling unit - 1), shortTicks := mset w.shortTicks 0 unit 0,
               ceilLast := mset w.ceilLast 0 unit (s.hub.tick + 1), lowered := satAdd 0xFFFFFFFF w.lowered 1 }

def execCeilingLower (unit : Nat) (s : State) : Host.Outcome State Fault Refusal := act (coreOk unit) s (ceilingStep unit s)

/-- The ceiling tables swap at a tick (R395). -/
def Power.swapCeilings (w : Power) : Power := { w with ceilings := w.ceilNext.foldl (fun m e => mset m 7 e.1 e.2) w.ceilings, ceilNext := [] }

/-- A placement of three dies or more takes effect: the trims of its dies are 0 (R397). -/
def State.settleTrims (s : State) (p : Nat) : State :=
  if !s.byCeilings p then s
  else
    (s.placedDies p).foldl (fun s d => s.updDie d fun x => { x with trim := 0, goodTicks := 0, clearTicks := 0, targetMv := (x.targetMv - x.trim : Int).toNat }) s

/-! ### The droop clamp (R409, R410) -/

/-- A quarter's supply droops: its clamp starts. -/
def droopStep (die quarter : Nat) (s : State) : State :=
  if (s.die die).quarters.testBit quarter then s
  else
    ((s.updDie die fun d => { d with quarters := d.quarters + 2 ^ quarter, clamps := satAdd 0xFFFF d.clamps 1, clamped := true }).updPower fun w =>
      { w with droops := satAdd 0xFFFFFFFF w.droops 1 }).alarm 1 quarter (alarmSource die (s.dieOwner die) (Config.unitNumber die 10 quarter).toNat)

def execDroop (die quarter : Nat) (s : State) : Host.Outcome State Fault Refusal :=
  act (pacedOk die && decide (quarter < 4)) s (droopStep die quarter s)

/-- The detector has read clear for one whole tick: the clamp releases. -/
def clampReleaseStep (die quarter : Nat) (s : State) : State :=
  if (s.die die).quarters.testBit quarter then s.updDie die fun d => { d with quarters := d.quarters - 2 ^ quarter } else s

def execClampRelease (die quarter : Nat) (s : State) : Host.Outcome State Fault Refusal :=
  act (pacedOk die && decide (quarter < 4)) s (clampReleaseStep die quarter s)

/-! ### The alert wires (R411, R412) -/

/-- Every partition and engine die at level 0, in the tick of the assertion. -/
def State.forceAll (s : State) : State :=
  (s.partsHere ++ [16, 17]).foldl (fun s t => ((s.clearDecided t).setRaise t none).setLevel t 0) s

/-- A wire's assertion or deassertion. Only a device whose firmware runs latches, counts and acts on it (R487). -/
def alertStep (w : Nat) (asserted : Bool) (s : State) : State :=
  let was := s.power.wires.testBit w
  if asserted then
    if was then s
    else if s.hub.phase ≠ .running then s.updPower fun x => { x with wires := x.wires + 2 ^ w }
    else
      let s := s.updPower fun x => { x with wires := x.wires + 2 ^ w, latched := x.latched ||| 2 ^ w, asserts := satAdd 0xFFFFFFFF x.asserts 1 }
      if s.alertMask.testBit w then
        ((s.updPower fun x => { x with forceEnd := s.hub.tick + Config.msTicks }).forceAll).alarm 0 w hubSource
      else s
  else if was then
    s.updPower fun x =>
      { x with wires := x.wires - 2 ^ w, forceEnd := if x.forceEnd ≠ 0 ∧ s.alertMask.testBit w then s.hub.tick + Config.msTicks else x.forceEnd }
  else s

def execAlertWire (wire : Nat) (asserted : Bool) (s : State) : Host.Outcome State Fault Refusal :=
  act (wireOk wire) s (alertStep wire asserted s)

/-- The force ends 4,167 ticks after the last enabled wire deasserts. -/
def alertEndStep (s : State) : State :=
  if s.forced ∧ s.power.wires &&& s.alertMask = 0 ∧ s.power.forceEnd ≤ s.hub.tick then s.updPower fun x => { x with forceEnd := 0 } else s

def execAlertForceEnd (s : State) : Host.Outcome State Fault Refusal := act true s (alertEndStep s)

/-! ### Temperatures (R60, R413, R414, Table 14.6) -/

/-- Whole degrees of a temperature in hundredths. -/
def wholeDegrees (t : Int) : Nat := (t / 100).toNat % 65536

/-- The refresh interval of an array die follows its temperature (R60). -/
def State.refreshTemp (s : State) (d : Nat) (t : Int) : State :=
  let s := if 8500 < t ∧ !s.spares.rate32.contains d then s.updSpares fun x => { x with rate32 := x.rate32 ++ [d] } else s
  s.updPower fun w => { w with coolTicks := mset w.coolTicks 0 d (if t ≤ 8300 then mget w.coolTicks 0 d + 1 else 0) }

/-- The tick from which a die's lowering counts its fours: that of another die of the same target that is lowering already, else now. -/
def State.loweringSince (s : State) (d : Nat) : Nat :=
  match s.power.lowering.find? fun e => (match s.targetOf d with | none => [d] | some t => s.targetDies t).contains e.1 with
  | some e => e.2
  | none => s.hub.tick

/-- The actions at 0x4000:01, of a paced die, and at 105 °C of one die begin and end; reaching either is an occurrence of the thermal alarm (Table 17.2). -/
def State.dieTemp (s : State) (d : Nat) (t : Int) : State :=
  let thr := s.thermalThreshold
  let low := s.power.lowering.any fun e => e.1 == d
  let hot := s.power.hotDies.contains d
  let source := alarmSource 18 (s.dieOwner d) 0
  let s := if thr ≤ t ∧ !low ∧ d < 18 then (s.updPower fun w => { w with lowering := w.lowering ++ [(d, s.loweringSince d)] }).alarm 2 (wholeDegrees t) source
    else if t < thr - 200 then s.updPower fun w => { w with lowering := w.lowering.filter fun e => e.1 != d } else s
  if 10500 ≤ t ∧ !hot then (s.updPower fun w => { w with hotDies := w.hotDies ++ [d] }).alarm 2 (wholeDegrees t) source
  else if t ≤ 10300 then s.updPower fun w => { w with hotDies := w.hotDies.filter fun e => e != d } else s

/-- A tower's refresh rate and throttle follow its temperature. -/
def State.towerTemp (s : State) (k : Nat) (t : Int) : State :=
  let cool := if t ≤ 8300 then mget s.power.coolTicks 0 (32 + k) + 1 else 0
  let s := s.updPower fun w => { w with coolTicks := mset w.coolTicks 0 (32 + k) cool }
  s.updTower k fun x =>
    { x with refresh2x := if 8500 ≤ t then true else if Config.msTicks ≤ cool then false else x.refresh2x,
             throttled := if 9500 ≤ t then true else if t ≤ 9300 then false else x.throttled }

/-- Levels follow the thermal actions: forced to 0, or one lower every fourth tick. -/
def State.thermalLevels (s : State) : State :=
  let due := (s.power.lowering.filter fun e => (s.hub.tick - e.2) % 4 == 0).map Prod.fst
  let hub := s.power.hotDies.any fun d => d == 18 || d == 19
  (s.partsHere ++ [16, 17]).foldl (fun s t =>
    let ds := s.targetDies t
    if hub ∨ ds.any (fun d => s.power.hotDies.contains d) then (if s.levelOf t = 0 then s else s.decideLevel t 0)
    else if ds.any fun d => due.contains d then (if s.levelOf t = 0 then s else s.decideLevel t (s.levelOf t - 1))
    else s) s

/-- The thermal trip (R414): nothing issues on any die any more, and no job will complete. -/
def State.trip (s : State) : State :=
  { s with
    cores := mmap s.cores Core.reset fun _ k => { k with inJob := false },
    macros := mmap s.macros Macro.reset fun _ m => { m with queue := [], run := none, drainBuf := none },
    skinks := mmap s.skinks Skink.reset fun _ x => { x with queue := [], draining := [] },
    engines := mmap s.engines Engine.reset fun _ x => { x with queue := [] },
    hub := { s.hub with thermtrip := true, phase := .tripped } }

/-- The thermal actions of a tick's readings (R60, Table 14.6). -/
def State.thermal (s : State) (ts us : List Int) : State :=
  let s := ((List.range 16).zip ts).foldl (fun s e => s.refreshTemp e.1 e.2) s
  let s := ((List.range 20).zip ts).foldl (fun s e => s.dieTemp e.1 e.2) s
  (((List.range 8).zip us).foldl (fun s e => s.towerTemp e.1 e.2) s).thermalLevels

/-- Every tick's readings: the hottest sensor of each logic die, and each tower (hundredths of a degree). The thermal actions are those of a device whose
firmware runs; the trip acts whenever it is powered (R487), and `READY` holds through it (R496). During a reset nothing drives `HOT_N`. -/
def temperatureStep (dies towers : List Int) (s : State) : State :=
  if s.hub.phase = .porst ∨ s.hub.phase = .tripped then s
  else
    let ts := (List.range 20).map fun d => dies.getD d (s.power.temps.getD d 0)
    let us := (List.range 8).map fun d => towers.getD d (s.power.towerTemps.getD d 0)
    let s := s.updPower fun w => { w with temps := ts, towerTemps := us }
    let s := if s.hub.phase = .running then s.thermal ts us else s
    let s := if s.hub.phase = .running ∨ s.hub.phase = .recovery then s.updHub fun h => { h with hot := ts.any fun t => decide (s.thermalThreshold ≤ t) } else s
    if ts.any fun t => decide (11000 ≤ t) then s.trip else s

def execTemperatureSample (dies towers : List Int) (s : State) : Host.Outcome State Fault Refusal := act true s (temperatureStep dies towers s)

end Sys2Proof.Machine
end

