-- ==== Sys2Proof/Machine/Tables.lean ====
section
/-! DEFINITION. Functions of a value by coefficient tables, and conversions to output formats (R188, R231, R232, R259, R261, R263, R266). -/

namespace Sys2Proof.Machine

/-- 2^31 − 1 and −2^31 bound an integer. -/
def satI32 (i : Int) : Int := max (-2147483648) (min 2147483647 i)

/-- sat_i32(round_half_even(y)); an infinity saturates, NaN gives 0. -/
def satRound (y : Nat) : Int :=
  match f32 y with
  | .nan => 0
  | .inf neg => if neg then -2147483648 else 2147483647
  | v => satI32 v.toIntRne

/-- clamp(round_half_even(y), −128, 127); NaN gives 0 (R263). -/
def toA8 (y : Nat) : Int := max (-128) (min 127 (satRound y))

/-- floor(v · 2^k) of a finite value. -/
def FVal.floorShift (v : FVal) (k : Int) : Int :=
  match v with
  | .fin neg m e =>
    let i : Int := if neg then -(m : Int) else m
    if 0 ≤ e + k then i * 2 ^ (e + k).toNat else i / 2 ^ (-(e + k)).toNat
  | _ => 0

/-- c0[i] or c1[i] of the table 0x9040:`t`. -/
def coeff (t which i : Nat) : Nat := (Config.coefficient t which i).toNat

/-- RN32(RN32(c1[i] · t) + c0[i]) (R231). -/
def interpolate (t i x : Nat) : Nat := fadd (fmul (coeff t 1 i) x) (coeff t 0 i)

def f32One : Nat := 0x3F800000

/-- LO_f and HI_f (Table 7.10). -/
def actLow (f : Nat) : Nat := if f = 4 then 0xBF800000 else 0
def actHigh (f x : Nat) : Nat := if f = 1 ∨ f = 2 then x else f32One

/-- `ACT` (R231, Table 7.10). -/
def actFn (f x : Nat) : Nat :=
  if f = 5 then x
  else if isNan32 x then nan32
  else if f = 0 then (if flt 0 x then x else 0)
  else if flt x 0xC1000000 then actLow f
  else if !flt x 0x41000000 then actHigh f x
  else
    let i := ((f32 x).floorShift 4 + 128).toNat
    let t := rn32 ((f32 x).add (FVal.fin (decide (i < 128)) ((i : Int) - 128).natAbs (-4)).neg)
    interpolate f i t

/-- exp(v), v ≤ 0 (R261). When the difference f rounds to 1 the interval is 256, beyond the table: its coefficients are as open as the
others; exp of NaN is a free value. -/
def expFn (v : Nat) : Nat :=
  let t := fmul v 0x3FB8AA3B
  if isNan32 t then Config.expNan.toNat
  else if flt t 0xC3160000 then 0
  else
    let n := (f32 t).floorShift 0
    let f := rn32 ((f32 t).add (FVal.ofInt n).neg)
    let i := ((f32 f).floorShift 8).toNat
    let u := rn32 ((f32 f).add (FVal.fin true i (-8)))
    rn32 ((f32 (interpolate 5 i u)).mul (.fin false 1 n))

/-- ln(v): the argument raised to 2^−126 at least (R266). -/
def lnFn (v : Nat) : Nat :=
  match f32 (if flt v 0x00800000 || isNan32 v then 0x00800000 else v) with
  | .fin _ m e =>
    let b := bitLen m
    let big : Int := e + b - 1
    let frac : FVal := (FVal.fin false m (1 - b)).add (.fin true 1 0)
    let i := (frac.floorShift 8).toNat
    let t := rn32 (frac.add (.fin true i (-8)))
    fadd (fmul (f32OfInt big) 0x3F317218) (interpolate 6 i t)
  | _ => 0x7F800000

/-- A value narrowed to a format of Table 7.8 (0 FP32, 1 BF16, 2 E4M3, 3 E5M2); the 8-bit formats saturate (R232). -/
def narrow (ofmt x : Nat) : Nat :=
  if ofmt = 0 then x
  else if ofmt = 1 then bf16.encode (f32 x)
  else if ofmt = 2 then e4m3.encode (f32 x)
  else
    let y := e5m2.encode (f32 x)
    if y % 128 = 0x7C then y - 1 else y

/-- Bytes of a drain output format (Table 7.8). -/
def ofmtBytes (ofmt : Nat) : Nat := if ofmt = 0 ∨ ofmt = 4 then 4 else if ofmt = 1 then 2 else 1

/-- The value of an S8 byte (Table 6.2). -/
def s8Val (s : Nat) : FVal := if s / 8 % 32 = 0 then .fin false (s % 8) (-17) else .fin false (8 + s % 8) ((s / 8 % 32 : Nat) - 18)

/-- Is byte `a` at least as near to v as byte `b`, the even mantissa winning a tie? -/
def s8Nearer (v : FVal) (a b : Nat) : Bool :=
  let da := match (s8Val a).add v.neg with | .fin _ m e => FVal.fin false m e | w => w
  let db := match (s8Val b).add v.neg with | .fin _ m e => FVal.fin false m e | w => w
  da.lt db || (!db.lt da && a % 2 == 0)

/-- The nearest S8 byte of an FP32 scale (R188). -/
def toS8 (x : Nat) : Nat :=
  match f32 x with
  | .nan => 0
  | .inf neg => if neg then 0 else 0xF7
  | .fin neg m e =>
    if neg || m == 0 then 0
    else if (s8Val 0xF7).lt (.fin neg m e) then 0xF7
    else (List.range 0xF8).foldl (fun best s => if s8Nearer (.fin neg m e) s best then s else best) 0

end Sys2Proof.Machine
end

