-- ==== Sys2Proof/Machine/Wire.lean ====
section
/-! DEFINITION. Ethernet ports, 802.1AS time, and the SLP transport: sessions, sequence numbers, what is sent (R326 to R336, R343, R350). -/

namespace Sys2Proof.Machine

/-- Sets the entry at a key of a table that has no default. -/
def mput {α : Type} (m : Map α) (k : Nat) (v : α) : Map α :=
  match m with
  | [] => [(k, v)]
  | (j, w) :: rest => if j = k then (k, v) :: rest else if k < j then (k, v) :: (j, w) :: rest else (j, w) :: mput rest k v

/-! ### Ports (Table 11.2) -/

/-- The index of a port's block. -/
def portIndex (p : Nat) : Nat := if p < 16 then 0x1100 + p else 0x1110

/-- `STRAP_MROLE` as `ROLE` (R482). -/
def strapRole (straps : Nat) : Nat := if straps / 2 % 4 = 3 then 1 else straps / 2 % 4

/-- Default of an entry of a port's block. -/
def State.portDefault (s : State) (p sub : Nat) : Nat :=
  if sub = 1 then (if p = 16 then 1 + s.hub.straps % 2 else 0)
  else if sub = 2 then (if p = 16 then strapRole s.hub.straps else 1)
  else if sub = 3 then Config.portMac p % 2 ^ 48
  else if sub = 7 then 49700
  else if sub = 8 then 1500
  else 0

/-- An entry of a port's block in force. -/
def State.portVal (s : State) (p sub : Nat) : Nat := s.dval (portIndex p) 0 sub (s.portDefault p sub)

/-- The six bytes of a MAC address, first on the wire first. -/
def macBytes (a : Nat) : List Byte := (leBytes 6 a).reverse

/-- The link-local address formed by modified EUI-64 from a MAC address (R448). -/
def linkLocal (a : Nat) : List Byte :=
  let m := macBytes a
  [0xFE, 0x80, 0, 0, 0, 0, 0, 0] ++ [m.getD 0 0 ^^^ 2] ++ (m.drop 1).take 2 ++ [0xFF, 0xFE] ++ m.drop 3

/-- A port's IPv6 address; empty for none. -/
def State.portV6 (s : State) (p : Nat) : List Byte :=
  if s.hub.phase = .recovery then (if p = 16 then linkLocal (Config.portMac 16) else []) else s.dbytes (portIndex p) 0 5

/-- A port carries frames: its link is up, and the device serves it (R2, R350, R414, R448). -/
def State.portLive (s : State) (p : Nat) : Bool :=
  (s.hub.phase == .running || (s.hub.phase == .recovery && p == 16)) && decide (2 ≤ (s.port p).link)

/-- MACsec is on at a port (R330). -/
def State.macsecOn (s : State) (p : Nat) : Bool := s.portVal p 9 == 1

/-- A transmit association in force, with packet numbers left, where MACsec is on: without one the port carries nothing either way (R330, R331). -/
def State.portSpeaks (s : State) (p : Nat) : Bool :=
  s.portLive p && (!s.macsecOn p || (match (s.port p).txSa with | none => false | some a => decide (a.2.2.2 < 2 ^ 32 - 1)))

/-- The control word of the VLAN tag of the frames that a port sends: `PCP` and `VID` of `:04` (R326, Table 11.2). -/
def State.portTag (s : State) (p : Nat) : Option Nat :=
  let v := s.portVal p 4
  if v.testBit 15 then some (v / 4096 % 8 * 8192 + v % 4096) else none

/-- A frame leaves a port, if it can, in the port's VLAN and, with MACsec on, protected under the transmit association's next packet number. -/
def State.sendFrame (s : State) (p : Nat) (f : Frame) : State :=
  if s.portSpeaks p then
    let tag := if s.macsecOn p then (s.port p).txSa else none
    let out : Sent := { frame := f, vlan := s.portTag p, sec := tag }
    let s : State := { s with slp := { s.slp with wire := s.slp.wire ++ [out] } }
    if s.macsecOn p then s.updPort p fun q => { q with txSa := q.txSa.map fun a => (a.1, a.2.1, a.2.2.1, a.2.2.2 + 1) } else s
  else s

/-- A frame is received and accepted. -/
def State.accepted (s : State) (p : Nat) : State := s.updPort p fun q => { q with accepted := min (2 ^ 64 - 1) (q.accepted + 1) }
/-- A frame is discarded and counted in `:12`. -/
def State.discarded (s : State) (p : Nat) : State := s.updPort p fun q => { q with discarded := min (2 ^ 64 - 1) (q.discarded + 1) }
/-- A frame is discarded by MACsec and counted in `:13`. -/
def State.macsecLost (s : State) (p : Nat) : State := s.updPort p fun q => { q with macsecDiscarded := min (2 ^ 64 - 1) (q.macsecDiscarded + 1) }

/-- Strict validation with replay protection (R330): the frame is protected under a receive association of its SCI, its ICV verifies under that
association's SAK, and its packet number is not below the lowest accepted. -/
def Port.validates (q : Port) (w : Wrap) : Bool :=
  match w.sec with
  | none => false
  | some t => match q.rxSas.find? fun e => e.1 == t.1 with
    | none => false
    | some e => e.2.1 == t.2.2.2 && e.2.2.1 == t.2.1 && decide (e.2.2.2.1 ≤ t.2.2.1)

/-- A valid frame moves the replay window on (IEEE 802.1AE): packet numbers that fall behind it are no longer accepted. -/
def Port.heard (q : Port) (w : Wrap) : Port :=
  match w.sec with
  | none => q
  | some t => { q with rxSas := q.rxSas.map fun (e : Nat × List Byte × Nat × Nat × Nat) =>
      if e.1 = t.1 then (e.1, e.2.1, e.2.2.1, max e.2.2.2.1 (t.2.2.1 + 1 - e.2.2.2.2), e.2.2.2.2) else e }

/-- A received frame is of the port's VLAN, or untagged where the port has none (R326). -/
def State.vlanOk (s : State) (p : Nat) (w : Wrap) : Bool := (w.vlan.map fun t => t % 4096) == ((s.portTag p).map fun t => t % 4096)

/-- A frame reaches a port: through MACsec and the port's VLAN, or discarded and counted. Answers whether the port goes on with it. -/
def State.takeFrame (s : State) (p : Nat) (w : Wrap) : State × Bool :=
  if !s.portLive p then (s, false)
  else if s.macsecOn p then
    (if !s.portSpeaks p || !(s.port p).validates w then (s.macsecLost p, false)
     else
       let t := s.updPort p fun q => q.heard w
       if t.vlanOk p w then (t, true) else (t.discarded p, false))
  else if w.sec.isSome || !s.vlanOk p w then (s.discarded p, false)
  else (s, true)

/-- Bytes of a frame that carries a datagram of `n` bytes: the MAC's header and check, a VLAN tag, and MACsec's `SecTAG` with its SCI and ICV (DEDUCED, log
entry 102: these make up the 54 bytes that Table 11.1 allows above the MTU). -/
def frameBytes (w : Wrap) (n : Nat) : Nat := 18 + (if w.vlan.isSome then 4 else 0) + (if w.sec.isSome then 32 else 0) + n

/-- A frame with a datagram of `n` bytes reaches a port: the MAC discards one of more than the MTU plus 54 bytes (R326, Table 11.1). -/
def State.takeSized (s : State) (p : Nat) (w : Wrap) (n : Nat) : State × Bool :=
  if s.portLive p && decide (s.portVal p 8 + 54 < frameBytes w n) then (s.discarded p, false) else s.takeFrame p w

/-- Bytes of an IP header, by the length of its addresses. -/
def ipHeader (addr : List Byte) : Nat := if addr.length = 4 then 20 else 40

/-- An ARP request (R328). -/
def arpStep (p : Nat) (w : Wrap) (target : Nat) (s : State) : State :=
  let r := s.takeFrame p w
  if !r.2 then r.1
  else if s.portVal p 6 ≠ 0 ∧ target = s.portVal p 6 then (r.1.accepted p).sendFrame p (.arp p target (s.portVal p 3)) else r.1.accepted p

def execArpRequest (port : Nat) (w : Wrap) (target : Nat) (s : State) : Host.Outcome State Fault Refusal :=
  act (portOk port) s (arpStep port w target s)

/-- An IPv6 neighbour solicitation (R328). -/
def solicitStep (p : Nat) (w : Wrap) (target : List Byte) (s : State) : State :=
  let r := s.takeFrame p w
  if !r.2 then r.1
  else if s.portV6 p ≠ [] ∧ target = s.portV6 p then (r.1.accepted p).sendFrame p (.advertisement p target (s.portVal p 3)) else r.1.accepted p

def execNeighbourSolicitation (port : Nat) (w : Wrap) (target : List Byte) (s : State) : Host.Outcome State Fault Refusal :=
  act (portOk port) s (solicitStep port w target s)

/-- The four bytes of an IPv4 address, first on the wire first. -/
def v4Bytes (a : Nat) : List Byte := (leBytes 4 a).reverse

/-- An address of 4 or 16 bytes is the port's own. -/
def State.ownAddr (s : State) (p : Nat) (a : List Byte) : Bool :=
  (a == s.portV6 p && a != []) || (s.portVal p 6 != 0 && a == v4Bytes (s.portVal p 6))

/-- An ICMP or ICMPv6 echo request: 4 or 16 bytes of target; one for another address is dropped and counted (R328). -/
def echoStep (p : Nat) (w : Wrap) (target data : List Byte) (s : State) : State :=
  let r := s.takeSized p w (ipHeader target + 8 + data.length)
  if !r.2 then r.1
  else if s.ownAddr p target then (r.1.accepted p).sendFrame p (.echo p target data)
  else r.1.discarded p

def execEchoRequest (port : Nat) (w : Wrap) (target data : List Byte) (s : State) : Host.Outcome State Fault Refusal :=
  act (portOk port) s (echoStep port w target data s)

/-- A link comes up as master only in role 0 or 2, as slave only in role 1 or 2, which Clause 98 negotiates (R326, Table 11.2). -/
def State.roleFits (s : State) (p link : Nat) : Bool := !(link == 2 && s.portVal p 2 == 1) && !(link == 3 && s.portVal p 2 == 0)

/-- A port's link goes down, trains or comes up (`:10`), in the role that the port has; a port that is off has none. With the management port up the
start-up is complete (Table 18.3, step 11), and the hub alarm tells a reset that the hub began (R436). -/
def linkChangeStep (p link : Nat) (s : State) : State :=
  let on := (s.hub.phase == .running || (s.hub.phase == .recovery && p == 16)) && s.portVal p 1 != 0
  if !on ∨ 4 ≤ link ∨ !s.roleFits p link then s
  else
    let s := s.updPort p fun q => { q with link := link }
    if p = 16 ∧ 2 ≤ link ∧ s.hub.phase = .running ∧ s.hub.startPhase = 11 then
      let t := s.updHub fun h => { h with startPhase := 15, warmCause := 0 }
      if 2 ≤ s.hub.warmCause then t.alarm 13 s.hub.warmCause hubSource else t
    else s

def execPortLinkChange (port link : Nat) (s : State) : Host.Outcome State Fault Refusal := act (portOk port) s (linkChangeStep port link s)

/-- Counts a message discarded for its length or `HCRC` (0x1020:11). -/
def State.unseen (s : State) : State := { s with slp := { s.slp with discarded := min (2 ^ 64 - 1) (s.slp.discarded + 1) } }

/-- A frame discarded for a stated reason (R328, R330, R332, Table 11.2): by the MAC, by MACsec, for its address or datagram, or as an SLP message. What
MACsec or the VLAN turns away is counted there first (R331). -/
def discardStep (p : Nat) (w : Wrap) (why : DiscardReason) (s : State) : State :=
  let r := s.takeFrame p w
  if !s.portLive p then s
  else match why with
    | .fcs | .length | .pause => s.discarded p
    | .macsec => if s.macsecOn p then s.macsecLost p else r.1
    | .address | .udpPort | .fragment | .ipOptions | .checksum | .type => if r.2 then r.1.discarded p else r.1
    | .hcrc | .slpLength => if r.2 then (r.1.accepted p).unseen else r.1

def execDiscardedFrame (port : Nat) (w : Wrap) (why : DiscardReason) (s : State) : Host.Outcome State Fault Refusal :=
  act (portOk port) s (discardStep port w why s)

/-! ### 802.1AS time (R329) -/

def State.updTime (s : State) (f : AsTime → AsTime) : State := s.updHub fun h => { h with time := f h.time }

/-- The port that carries 802.1AS. -/
def State.timePort (s : State) : Nat := s.dval 0x1040 0 1 16

/-- A message of 802.1AS reaches a port: it is heard on the one port that carries time, and ignored on every other. -/
def State.takeTime (s : State) (p : Nat) (w : Wrap) : State × Bool :=
  let r := s.takeFrame p w
  if !r.2 then r else if p = s.timePort then (r.1.accepted p, true) else (r.1, false)

/-- A Sync arrives; its Follow_Up carries its time. -/
def syncStep (p : Nat) (w : Wrap) (s : State) : State :=
  let r := s.takeTime p w
  if r.2 then r.1.updTime fun t => { t with lastSync := s.hub.tick, syncSeen := true } else r.1

def execSync (port : Nat) (w : Wrap) (s : State) : Host.Outcome State Fault Refusal := act (portOk port) s (syncStep port w s)

/-- The Follow_Up of a Sync: the time of the tick in which the Sync arrived. -/
def followUpStep (p : Nat) (w : Wrap) (originNs : Nat) (s : State) : State :=
  let r := s.takeTime p w
  if r.2 && s.hub.time.syncSeen then
    r.1.updTime fun t =>
      { t with valid := true, baseNs := ((originNs : Int) + t.linkDelay).toNat % 2 ^ 64, baseTick := t.lastSync, syncSeen := false }
  else r.1

def execFollowUp (port : Nat) (w : Wrap) (originNs : Nat) (s : State) : Host.Outcome State Fault Refusal :=
  act (portOk port) s (followUpStep port w originNs s)

/-- The peer-delay mechanism. As initiator the device sends a request; the response, wrapped in `w`, and its follow-up, in `w2`, give the mean link
delay. As responder it answers a request, wrapped in `w`, with both. -/
def peerDelayStep (p : Nat) (initiator : Bool) (w w2 : Wrap) (delayNs : Int) (s : State) : State :=
  if initiator then
    if p ≠ s.timePort ∨ !s.portSpeaks p then s
    else
      let r := (s.sendFrame p (.peerDelayReq p)).takeTime p w
      let f := if r.2 then r.1.takeTime p w2 else r
      if f.2 then f.1.updTime fun t => { t with linkDelay := (BitVec.ofInt 32 delayNs).toInt } else f.1
  else
    let r := s.takeTime p w
    if r.2 then (r.1.sendFrame p (.peerDelayResp p)).sendFrame p (.peerDelayFollowUp p) else r.1

def execPeerDelay (port : Nat) (initiator : Bool) (w w2 : Wrap) (delayNs : Int) (s : State) : Host.Outcome State Fault Refusal :=
  act (portOk port) s (peerDelayStep port initiator w w2 delayNs s)

/-- Ticks of 3 s. -/
def ticks3s : Nat := 12500000

/-- No Sync for 3 s: the time is invalid (R329), which alarm 14 tells (Table 17.2). -/
def timeInvalidStep (s : State) : State :=
  if s.hub.time.valid ∧ s.hub.time.lastSync + ticks3s ≤ s.hub.tick then
    (s.updTime fun t => { t with valid := false }).alarm 14 0 hubSource
  else s

def execTimeInvalid (s : State) : Host.Outcome State Fault Refusal := act true s (timeInvalidStep s)

/-- 802.1AS time of a tick's boundary; 0 while it is invalid (R477, Table 17.5). -/
def State.asTime (s : State) (tick : Nat) : Nat :=
  if s.hub.time.valid then (s.hub.time.baseNs + (tick - s.hub.time.baseTick) * 240) % 2 ^ 64 else 0

/-! ### Tenants and rights (R362 to R364) -/

/-- The slot that holds a tenant identity. -/
def State.slotOf (s : State) (tenant : Nat) : Option Nat :=
  if tenant = 0 then none else (s.tenants.find? fun e => e.2.tenant == tenant).map Prod.fst

/-- The tenant block holds no tenant. -/
def State.noTenants (s : State) : Bool := s.tenants.all fun e => e.2.tenant == 0

/-- A session's rights: those of its tenant's slot, or the bootstrap's `ADMIN` (R364, R460). -/
def State.rights (s : State) (q : Session) : Nat :=
  if q.bootstrap && s.noTenants then 1
  else match s.slotOf q.tenant with | none => 0 | some i => (mget s.tenants Tenant.reset i).rights

def State.isAdmin (s : State) (q : Session) : Bool := (s.rights q).testBit 0
def State.isRack (s : State) (q : Session) : Bool := (s.rights q).testBit 1
def State.hasDebug (s : State) (q : Session) : Bool := (s.rights q).testBit 2

/-! ### Sessions and messages (R333 to R336) -/

def State.setSession (s : State) (n : Nat) (q : Session) : State := { s with slp := { s.slp with sessions := mput s.slp.sessions n q } }
def State.updSession (s : State) (n : Nat) (f : Session → Session) : State :=
  match s.session n with | none => s | some q => s.setSession n (f q)

/-- Bytes 0 to 27 of an SLP header (Table 11.4). -/
def slpHeader (head type flags session seq ack len status alive pcrc : Nat) : List Byte :=
  leBytes 1 head ++ leBytes 1 type ++ leBytes 2 flags ++ leBytes 4 session ++ leBytes 4 seq ++ leBytes 4 ack ++ leBytes 2 len ++ leBytes 2 status ++
    leBytes 4 alive ++ leBytes 4 pcrc

/-- `PCRC`: over the payload and the four bytes of `ALIVE`. -/
def slpPcrc (payload : List Byte) (alive : Nat) : Nat := crc32c (payload ++ leBytes 4 alive)

/-- The SLP message that a request of a type is, as it was sent: bytes 0 to 27 of its header. -/
def reqHeader (r : Req) (type : Nat) : List Byte :=
  slpHeader r.head type r.flags r.session r.seq r.ack r.len r.status r.alive r.pcrc

/-- The bytes of a message that the device sends, signed with `PCRC` and `HCRC` (R332, R338). -/
def Msg.bytes (m : Msg) : List Byte :=
  let h := slpHeader 16 m.type (bit m.loss) m.session m.seq m.ack m.payload.length m.status m.alive (slpPcrc m.payload m.alive)
  h ++ leBytes 4 (crc32c h) ++ m.payload

/-- The sum of the 16-bit words of a string, high byte first. -/
def wordSum : List Byte → Nat
  | a :: b :: rest => a.toNat * 256 + b.toNat + wordSum rest
  | [a] => a.toNat * 256
  | [] => 0

/-- The UDP checksum over the pseudo-header of IPv4 or IPv6, the UDP header and the data (R328). -/
def udpCheck (src dst : List Byte) (sport dport : Nat) (bs : List Byte) : Nat :=
  65535 - (wordSum src + wordSum dst + 17 + 2 * (8 + bs.length) + sport + dport + wordSum bs) % 65535

/-- Two bytes, high byte first. -/
def beBytes2 (v : Nat) : List Byte := (leBytes 2 v).reverse

/-- The UDP datagram of a message of the device: from the port's address of the peer's kind, and its UDP port. -/
def State.datagram (s : State) (m : Msg) : List Byte :=
  let src := if m.addr.length = 4 then v4Bytes (s.portVal m.port 6) else s.portV6 m.port
  let sport := s.portVal m.port 7
  let bs := m.bytes
  beBytes2 sport ++ beBytes2 m.udp ++ beBytes2 (8 + bs.length) ++ beBytes2 (udpCheck src m.addr sport m.udp bs) ++ bs

/-- A message leaves the device. -/
def State.sendSlp (s : State) (m : Msg) : State := s.sendFrame m.port (.slp m (s.datagram m))

/-- The largest payload of a port (Table 11.6). -/
def State.payloadLimit (s : State) (p : Nat) : Nat := if s.portVal p 8 = 9000 then 8896 else 1408

/-- Gives the messages not yet sent their first transmission, while fewer than 64 are unacknowledged (R335). -/
def firstSends (ack room : Nat) : List (Msg × Nat) → List (Msg × Nat) × List Msg
  | [] => ([], [])
  | (m, c) :: rest =>
    if c ≠ 0 then ((m, c) :: (firstSends ack room rest).1, (firstSends ack room rest).2)
    else if room = 0 then ((m, c) :: rest, [])
    else ((m, 1) :: (firstSends ack (room - 1) rest).1, { m with ack := ack } :: (firstSends ack (room - 1) rest).2)

/-- What a session acknowledges: the last message received in order. -/
def Session.ackNo (q : Session) : Nat := (q.rxNext + 2 ^ 32 - 1) % 2 ^ 32

/-- Sends what the session's window allows. -/
def State.pumpSession (s : State) (n : Nat) : State :=
  match s.session n with
  | none => s
  | some q =>
    let sent := (q.unacked.filter fun e => e.2 != 0).length
    let r := firstSends q.ackNo (64 - sent) q.unacked
    if r.2.isEmpty then s
    else r.2.foldl (fun s m => s.sendSlp m) (s.setSession n { q with unacked := r.1, ackDue := false })

/-- A message of the device on a session, under its next sequence number. -/
def State.sendMsg (s : State) (n type status alive : Nat) (loss : Bool) (payload : List Byte) : State :=
  match s.session n with
  | none => s
  | some q =>
    let m : Msg := { port := q.port, addr := q.addr, udp := q.udp, type := type, session := n, seq := q.txNext, ack := 0, status := status,
                     alive := alive, loss := loss, payload := payload }
    (s.setSession n { q with txNext := (q.txNext + 1) % 2 ^ 32, unacked := q.unacked ++ [(m, 0)] }).pumpSession n

/-- A reply outside any session: `SEQ` 0; the spec gives its `ALIVE` no value (free). -/
def State.sendBare (s : State) (r : Req) (type session status : Nat) (payload : List Byte) : State :=
  let w := s.freeWord
  w.2.sendSlp { port := r.port, addr := r.addr, udp := r.udp, type := type + 0x80, session := session, seq := 0, ack := 0, status := status,
                alive := w.1.toNat, loss := false, payload := payload }

/-- The log ring that a session's records go to (R472). -/
def Session.ring (q : Session) : Option Nat := if q.part < 16 then some q.part else none

/-- A session's log record: 1 open, 2 close, 3 timeout (Table 17.5). -/
def State.logSession (s : State) (n : Nat) (q : Session) (code : Nat) : State :=
  s.log q.ring 6 code (leBytes 4 n ++ leBytes 4 q.tenant ++ List.replicate 8 0)

/-- Entries that name a closed session to stream to return to 0 (R476). -/
def State.unstream (s : State) (n : Nat) : State :=
  let named (k : Nat) (s : State) : State := if leNat (mget s.dict [] k) = n then { s with dict := mset s.dict [] k [] } else s
  (List.range 16).foldl (fun s p => named (dkey 0x7020 p 1) s) (named (dkey 0x7000 0 3) s)

/-- A session closes: its staged copies and unsent messages go with it (R334, R336, R358). -/
def State.dropSession (s : State) (n code : Nat) : State :=
  match s.session n with
  | none => s
  | some q =>
    let s := (s.logSession n q code).unstream n
    { s with slp := { s.slp with sessions := s.slp.sessions.filter fun e => e.1 != n, waits := s.slp.waits.filter fun e => e.1 != n } }

/-- Closes every session that a test names. -/
def State.dropSessions (s : State) (f : Session → Bool) : State :=
  (s.slp.sessions.filter fun e => f e.2).foldl (fun s e => s.dropSession e.1 2) s

/-- A record waits for a session; the oldest of more than 1,024 is dropped (R343). -/
def State.queueRecord (s : State) (n : Nat) (r : List Byte) : State :=
  s.updSession n fun q =>
    let xs := q.completes ++ [r]
    if 1024 < xs.length then { q with completes := xs.drop 1, completeLoss := true } else { q with completes := xs }

end Sys2Proof.Machine
end

