-- ==== Sys2Proof/Machine/Dict.lean ====
section
/-! DEFINITION. The object dictionary: its entries, the values in force, and what each read-only entry reports (R13, R14, R353, R354,
R359, R497). -/

namespace Sys2Proof.Machine

/-! ### The entries -/

/-- An entry: type (0 U8, 1 U16, 2 U32, 3 U64, 4 I32, 5 F32, 6 STR, 7 DOMAIN), access (0 RO, 1 RW, 2 WO, 3 RWS, 4 CONST), default of a fixed
size, largest length of a DOMAIN that is written. -/
structure Entry where
  sub : Nat
  type : Nat
  access : Nat
  dflt : Nat
  limit : Nat
deriving DecidableEq, Repr

/-- A block, or a run of blocks with the same entries: first and last index, per-partition or not, the right its RWS entries need. -/
structure Block where
  lo : Nat
  hi : Nat
  perPart : Bool
  wright : Nat
  entries : List Entry
deriving DecidableEq, Repr

def ro (sub type : Nat) : Entry := { sub := sub, type := type, access := 0, dflt := 0, limit := 0 }
def rws (sub type dflt : Nat) : Entry := { sub := sub, type := type, access := 3, dflt := dflt, limit := 0 }
def rwsDomain (sub limit : Nat) : Entry := { sub := sub, type := 7, access := 3, dflt := 0, limit := limit }
def cons (sub type : Nat) : Entry := { sub := sub, type := type, access := 4, dflt := 0, limit := 0 }
/-- The commit entry of a staged block. -/
def commitEntry : Entry := { sub := 0xFF, type := 0, access := 2, dflt := 0, limit := 0 }
/-- Entries of one kind at consecutive sub-indices. -/
def entriesFrom (f : Nat → Entry) (lo n : Nat) : List Entry := (List.range n).map fun i => f (lo + i)

/-- Identity, start-up, settings and time (Tables 0.2, 11.3, 11.7, 12.1, 18.2). -/
def blocks1000 : List Block :=
  [⟨0x1001, 0x1001, false, 0, [cons 0 7]⟩, ⟨0x1008, 0x1008, false, 0, [cons 0 6]⟩, ⟨0x1009, 0x1009, false, 0, [cons 0 6]⟩,
   ⟨0x1018, 0x1018, false, 0, [cons 1 2, cons 2 2, ro 3 2, cons 4 3, ro 5 0]⟩,
   ⟨0x1020, 0x1020, false, 2, [rws 1 1 2000, ro 0x10 1, ro 0x11 3, ro 0x12 3, ro 0x13 2, commitEntry]⟩,
   ⟨0x1030, 0x1030, false, 0, [ro 1 0, ro 2 0, ro 3 2, ro 4 0]⟩,
   ⟨0x1040, 0x1040, false, 2, [rws 1 0 16, ro 0x10 0, ro 0x11 4, commitEntry]⟩,
   ⟨0x1100, 0x1110, false, 2, [rws 1 0 0, rws 2 0 1, rws 3 3 0, rws 4 1 0, rwsDomain 5 16, rws 6 2 0, rws 7 1 49700, rws 8 1 1500, rws 9 0 0,
     ro 0x10 0, ro 0x11 3, ro 0x12 3, ro 0x13 3, commitEntry]⟩]

/-- Partitions, jobs, placement (Tables 9.7, 9.9, 12.4, 13.4, 13.5). -/
def blocks2000 : List Block :=
  [⟨0x2000, 0x2000, true, 2, [rws 1 1 0, rws 2 2 0, rws 3 0 0, rws 4 0 0, rws 5 1 0, rws 6 1 0, rws 7 1 0, rws 8 1 0, rws 9 0 0, rws 0xA 0 0,
     ro 0x10 1, ro 0x11 0, ro 0x12 0, commitEntry]⟩,
   ⟨0x2010, 0x2010, true, 1, [rws 1 0 0, ro 0x10 0, ro 0x11 0, ro 0x12 1, ro 0x13 1, ro 0x14 0, ro 0x15 2, ro 0x16 3, ro 0x17 3, ro 0x18 2,
     commitEntry]⟩,
   ⟨0x2020, 0x2020, false, 0, entriesFrom (ro · 2) 1 16 ++ entriesFrom (ro · 2) 0x21 16 ++ [ro 0x40 0, ro 0x41 0, ro 0x42 0]⟩,
   ⟨0x2100, 0x2100, true, 1, [ro 1 2, ro 2 2, rwsDomain 3 8196, rws 4 0 0, ro 5 1, ro 6 1, ro 7 2, ro 8 7, ro 9 0, commitEntry]⟩,
   ⟨0x2120, 0x2120, true, 0, [ro 1 3, ro 2 3]⟩]

/-- Power and temperature (Tables 12.5, 14.8 to 14.13). -/
def blocks3000 : List Block :=
  [⟨0x3000, 0x3000, false, 3, [rws 1 2 3400, ro 0x10 2, ro 0x11 2, ro 0x12 0, commitEntry]⟩,
   ⟨0x3010, 0x3010, true, 2, [rws 1 1 100, ro 0x10 2, commitEntry]⟩,
   ⟨0x3020, 0x3020, true, 1, [rws 1 0 7, ro 0x10 0, ro 0x11 0, ro 0x12 2, ro 0x13 2, ro 0x14 3, ro 0x15 2, commitEntry]⟩,
   ⟨0x3030, 0x3030, false, 0, [rws 1 1 0, ro 0x10 3, ro 0x11 3]⟩,
   ⟨0x3040, 0x3040, false, 2, entriesFrom (rws · 2 0) 1 24 ++ [ro 0x20 2, ro 0x21 3, ro 0x22 2] ++ entriesFrom (ro · 2) 0x41 24 ++ [commitEntry]⟩,
   ⟨0x3050, 0x3050, false, 2, [ro 1 0, ro 2 2, ro 3 2, ro 4 2, rws 5 0 0xFF, commitEntry]⟩,
   ⟨0x3060, 0x3060, false, 2, [rws 1 0 0, ro 0x10 7, ro 0x11 2]⟩,
   ⟨0x4000, 0x4000, false, 2, [rws 1 0 100, cons 2 0, cons 3 0, ro 0x10 4, ro 0x11 0] ++ entriesFrom (ro · 4) 0x20 20 ++ entriesFrom (ro · 4) 0x40 8 ++
     [commitEntry]⟩]

/-- Integrity, spares, DRAM, maintenance and security (Tables 3.6, 3.7, 10.8, 12.2, 15.3, 15.8, 15.9, 16.2, 16.4, 16.5, 16.7, 16.8). -/
def blocks5000 : List Block :=
  [⟨0x5010, 0x5010, false, 0, [ro 1 2, ro 2 1, ro 3 1, ro 4 0, ro 5 1, ro 6 2, ro 7 1, ro 8 1, ro 9 0, ro 0xA 1, ro 0xB 2, ro 0xC 0, ro 0xD 0,
     ro 0xE 0]⟩,
   ⟨0x5020, 0x5020, false, 0, [ro 1 3, ro 2 2, ro 3 2, ro 4 2, ro 5 2, ro 6 2, ro 7 2, ro 0x10 0]⟩,
   ⟨0x5110, 0x5110, false, 2, [rws 1 1 500, rws 2 0 8, rws 3 1 10, commitEntry]⟩,
   ⟨0x5120, 0x5120, false, 2, [rws 1 1 24, commitEntry]⟩,
   ⟨0x5130, 0x5130, true, 1, [rws 1 2 0, rws 2 0 0, rws 3 0 0, ro 0x10 2, ro 0x11 0, ro 0x12 1, ro 0x13 0, commitEntry]⟩,
   ⟨0x5200, 0x5207, false, 0, [ro 1 0, ro 2 0, ro 3 2, ro 4 2, ro 5 2, ro 6 2, ro 7 1]⟩,
   ⟨0x5210, 0x5210, false, 2, [rws 1 1 12, commitEntry]⟩,
   ⟨0x6010, 0x6010, false, 2, [rws 1 0 0, rws 2 2 0, rws 3 0 0, rws 4 1 0, rwsDomain 5 512, ro 0x10 0, commitEntry]⟩,
   ⟨0x6020, 0x6020, false, 0, [cons 1 7, cons 2 7, ro 3 7, ro 0x10 1, ro 0x11 1, ro 0x12 0]⟩,
   ⟨0x6030, 0x6030, true, 1, [rwsDomain 1 32, rwsDomain 2 32, ro 0x10 1, ro 0x11 7, commitEntry]⟩,
   ⟨0x6040, 0x6040, true, 1, [rws 1 0 0, ro 0x10 0, commitEntry]⟩,
   ⟨0x6100, 0x6100, false, 2, [rws 1 2 0, rwsDomain 2 4096, rws 3 0 0, ro 0x10 1, ro 0x11 0, ro 0x12 0, ro 0x13 2, ro 0x14 0, commitEntry]⟩,
   ⟨0x6200, 0x6210, false, 2, [rws 1 0 0, rws 2 0 0, rwsDomain 3 32, rws 4 3 0, rws 5 2 1, rws 6 2 0, rws 7 0 0, ro 0x10 1, ro 0x11 0, ro 0x12 2,
     ro 0x13 0, commitEntry]⟩]

/-- Logs, rings, windows, engines and debug (Tables 5.7, 5.9, 6.10, 6.11, 8.6, 8.9, 10.6, 11.9, 17.6). -/
def blocks7000 : List Block :=
  [⟨0x7000, 0x7000, false, 2, [ro 1 3, rws 2 1 0, rws 3 2 0, rws 4 2 0] ++ entriesFrom (ro · 7) 0x10 15 ++ [ro 0x20 7, ro 0x21 3, ro 0x22 3, ro 0x23 2,
     commitEntry]⟩,
   ⟨0x7020, 0x7020, true, 1, [rws 1 2 0, rws 2 0 0, rws 3 2 0, ro 0x10 7, ro 0x11 3, ro 0x12 3, commitEntry]⟩,
   ⟨0x8100, 0x8100, false, 1, [rws 1 1 0, rws 2 0 255, rws 3 1 0, rws 4 0 0, rws 5 3 0, rws 6 3 0, rws 7 0 0, rws 8 2 0, rws 9 2 1, ro 0x10 1,
     ro 0x11 2, ro 0x12 2, ro 0x13 2, ro 0x14 2, ro 0x15 2, ro 0x16 2, ro 0x17 3, commitEntry]⟩,
   ⟨0x8400, 0x8400, true, 1, [rws 1 0 0, rws 2 0 0, rws 3 0 0, rws 4 1 0, rws 5 3 0, rws 6 0 1, rws 7 0 3, rws 8 0 0, rws 9 1 256, ro 0x10 1,
     ro 0x11 1, ro 0x12 2, ro 0x13 0, commitEntry]⟩,
   ⟨0x9010, 0x9010, true, 1, [rws 1 0 0, ro 2 2, ro 3 2, commitEntry]⟩,
   ⟨0x9020, 0x9020, true, 0, entriesFrom (ro · 3) 1 5⟩, ⟨0x9030, 0x9030, true, 0, [ro 1 3, ro 2 3, ro 3 2, ro 4 2]⟩,
   ⟨0x9040, 0x9040, false, 0, entriesFrom (cons · 7) 1 7⟩, ⟨0x9050, 0x9050, true, 0, entriesFrom (ro · 3) 1 7⟩,
   ⟨0xA020, 0xA020, true, 4, [rws 1 2 0, rws 2 0 0, rws 3 2 0, rws 4 1 1024, ro 0x10 7, ro 0x11 0, ro 0x12 1, ro 0x13 0, commitEntry]⟩]

/-- Every block of the device, in ascending index (R367). -/
def blocks : List Block := blocks1000 ++ blocks2000 ++ blocks3000 ++ blocks5000 ++ blocks7000

/-- The block at an index. -/
def blockAt (index : Nat) : Option Block := blocks.find? fun b => decide (b.lo ≤ index ∧ index ≤ b.hi)

/-- The entry at a sub-index of a block. -/
def Block.entry (b : Block) (sub : Nat) : Option Entry := b.entries.find? fun e => e.sub == sub

/-- Bytes of a type of fixed size; 0 for STR and DOMAIN (Table 0.6). -/
def typeSize (t : Nat) : Nat := [1, 2, 4, 8, 4, 4].getD t 0

/-- The instance that an access reaches (R353). -/
def Block.inst (b : Block) (q : Session) : Nat := if b.perPart then q.part else 0

/-- The right that a write of an entry needs: `PART` of a ring is the administrator's (R342). -/
def Block.right (b : Block) (sub : Nat) : Nat := if b.lo = 0x8100 ∧ sub = 2 then 2 else b.wright

/-- One directory record (Table 12.1). -/
def dirRecord (b : Block) (index : Nat) (e : Entry) : List Byte :=
  leBytes 2 index ++ leBytes 1 e.sub ++ leBytes 1 e.type ++ leBytes 1 e.access ++ leBytes 1 (bit b.perPart) ++ leBytes 1 (b.right e.sub) ++ [0]

/-- The directory 0x1001:00 (R354). -/
def directory : List Byte :=
  blocks.flatMap fun b => (List.range (b.hi + 1 - b.lo)).flatMap fun i => b.entries.flatMap fun e => dirRecord b (b.lo + i) e

/-! ### Values in force -/

/-- The port whose block an index is. -/
def indexPort (index : Nat) : Nat := index % 256

/-- A ring's RWS values (R497). -/
def Ring.value (r : Ring) (sub : Nat) : Nat := [0, 0, r.part, r.size, r.rwin, r.subOff, r.cmpOff, r.prio, r.sess, r.alive0].getD sub 0

/-- A window's RWS values (R497); the action code of a window that is open is 1. -/
def Window.value (w : Window) (sub : Nat) : Nat :=
  [0, 0, bit w.isOpen, w.target, w.unit, w.size, w.psz, w.rights, w.crossing, w.credits].getD sub 0

/-- A slot's RWS values as bytes (R497); its credential is type 1 and the key. -/
def Tenant.value (t : Tenant) (sub : Nat) : List Byte :=
  if sub = 2 then leBytes 4 t.tenant else if sub = 3 then leBytes 1 t.rights else if sub = 4 then leBytes 2 t.parts
  else if t.key = [] then [] else 1 :: t.key

/-- The blocks whose `:01` selects an element (R497). -/
def selects (index : Nat) : Bool := index == 0x8100 || index == 0x8400 || index == 0x6010

/-- A window of the newest version, in force or not. -/
def State.newWindow (s : State) (p w : Nat) : Window := mget ((s.part p).newWindows.getD (s.part p).windows) Window.reset w

/-- An RWS value in force, where `sel` is selected. -/
def State.inForce (s : State) (index inst sel : Nat) (e : Entry) : List Byte :=
  if index = 0x8100 ∧ e.sub ≠ 1 then leBytes (typeSize e.type) ((s.ring sel).value e.sub)
  else if index = 0x8400 ∧ e.sub ≠ 1 then leBytes (typeSize e.type) ((s.newWindow inst sel).value e.sub)
  else if index = 0x6010 ∧ e.sub ≠ 1 then (mget s.tenants Tenant.reset sel).value e.sub
  else if typeSize e.type = 0 then s.dbytes index inst e.sub
  else if 0x1100 ≤ index ∧ index ≤ 0x1110 then leBytes (typeSize e.type) (s.portVal (indexPort index) e.sub)
  else leBytes (typeSize e.type) (s.dval index inst e.sub e.dflt)

/-- A session's staged copy of a block instance. -/
def Session.copy (q : Session) (index inst : Nat) : Option Staged := q.staged.find? fun x => x.block == index && x.inst == inst

/-- The element that a session's reads of a block report (R359). -/
def State.selected (s : State) (q : Session) (index inst : Nat) : Nat :=
  match q.copy index inst with
  | some x => leNat (mget x.vals [] 1)
  | none => s.dval index inst 1 0

/-- An RWS value as a session finds it: staged, or in force (R359). -/
def State.current (s : State) (q : Session) (index inst : Nat) (e : Entry) : List Byte :=
  match q.copy index inst with
  | some x => mget x.vals [] e.sub
  | none => s.inForce index inst (s.selected q index inst) e

/-- What a read of an RWS entry shows: of a credential its type, of a MACsec key nothing (R457, R461). -/
def State.shown (s : State) (q : Session) (index inst : Nat) (e : Entry) : List Byte :=
  let v := s.current q index inst e
  if index = 0x6010 ∧ e.sub = 5 then v.take 1 else if 0x6200 ≤ index ∧ index ≤ 0x6210 ∧ e.sub = 3 then [] else v

/-! ### What the read-only entries report -/

/-- Pending descriptors of a partition's rings. -/
def State.ringsOf (s : State) (p : Nat) : List (Nat × Ring) := s.rings.filter fun e => e.2.part == p

def Ring.waiting (r : Ring) : Nat := (r.subTail + 2 ^ 32 - r.subHead) % 2 ^ 32

/-- The partition that an array die belongs to, or that still clears or erases it. -/
def State.holder (s : State) (d : Nat) : Option Nat :=
  (List.range 16).find? fun p => (s.partDies p).contains d || (s.part p).clearing.contains d || (s.part p).erasing.contains d

/-- Usable cores of an array die. -/
def State.usableCores (s : State) (d : Nat) : Nat := 272 - (s.spares.cores.filter fun c => c / 272 == d).length

/-- A page of some macro of an array die is valid. -/
def State.dieValid (s : State) (d : Nat) : Bool := s.macros.any fun e => macCore e.1 / 272 == d && e.2.pages.any fun x => x.2.valid

/-- The status word of an array die (Table 13.4). -/
def State.dieStatus (s : State) (d : Nat) : Nat :=
  let h := s.holder d
  let st := match h with
    | none => 0
    | some p => if (s.part p).erasing.contains d then 2 else if (s.part p).clearing.contains d then 3 else 1
  h.getD 31 * 2 ^ 27 + st * 2 ^ 25 + bit (s.dieValid d) * 2 ^ 24 + s.usableCores d

/-- Logical cores of a partition. -/
def State.logicalCores (s : State) (p : Nat) : Nat := 256 * (s.partDies p).length

/-- Cores placed off their logical die (0x2100:05). -/
def Placement.offDie (pl : Placement) : Nat := (pl.cores.filter fun e => pl.dies.getD (e.1 / 256) 0 != e.2 / 272).length

/-- Kept cores of an array die (R292): those placed, or, of a die that no placement in force uses yet, the lowest 16 usable columns of each row. -/
def State.keptCores (s : State) (d : Nat) : List Nat :=
  let placed := match s.dieOwner d with
    | some p => ((s.part p).placement.cores.map Prod.snd).filter fun c => c / 272 == d
    | none => []
  if !placed.isEmpty then placed
  else (List.range 16).flatMap fun y =>
    (((List.range 17).map fun x => d * 272 + y * 17 + x).filter fun c => !s.spares.cores.contains c).take 16

/-- Macros retired in a core. -/
def State.gone (s : State) (c : Nat) : Nat := (s.spares.macros.filter fun k => k / 18 == c).length

/-- Spare lanes in service in a core's macros that are not retired. -/
def State.lanesUsed (s : State) (c : Nat) : Nat :=
  ((List.range 18).map fun m => if s.spares.macros.contains (macKey c m) then 0
    else ((List.range 8).filter fun i => ((s.mac (macKey c m)).cfg.laneMap i).testBit 31).length).sum

/-- The spare inventory (Table 15.8). -/
def State.inventory (s : State) (sub : Nat) : Nat :=
  let kept := (List.range 16).flatMap s.keptCores
  if sub = 1 then (kept.map fun c => 8 * (18 - s.gone c) - s.lanesUsed c).sum
  else if sub = 2 then (kept.map fun c => 2 - s.gone c).sum
  else if sub = 3 then ((List.range 16).map s.spareCores).sum
  else if sub = 4 then s.spareSkinks 0 + s.spareSkinks 1
  else if sub = 5 then ((List.range 90).map fun k => 4 - (s.link k).spares.length).sum
  else if sub = 6 then s.spares.columnsDue.length
  else if sub = 7 then 8 * s.spares.plazaHeld.length
  else if sub = 8 then 4 * s.spares.storeHeld.length
  else if sub = 9 then ((List.range 8).filter fun t => !(s.tower t).spareUsed).length
  else if sub = 0xA then s.spares.cores.length
  else if sub = 0xB then s.spares.macros.length
  else if sub = 0xC then s.spares.skinks.length
  else if sub = 0xD then ((List.range 90).filter fun k => (s.link k).state == 3).length
  else ((List.range 90).filter fun k => s.linkDown (k / 2)).length

/-- The integrity counters (Table 15.9). -/
def State.integrityCounter (s : State) (sub : Nat) : Nat :=
  if sub = 0x10 then s.hub.resetCause
  else [0, s.spares.sramCorrected, s.spares.sramUncorr, s.spares.residues, s.spares.beats, s.spares.laneTests, s.spares.strikesCharged,
    s.spares.hubCorrected].getD sub 0

/-- `ACTIVE` of an alarm (Table 17.2). -/
def State.alarmActive (s : State) (n : Nat) : Bool :=
  if n = 0 then s.forced
  else if n = 1 then s.power.dies.any fun e => e.2.quarters != 0
  else if n = 2 then !s.power.lowering.isEmpty || !s.power.hotDies.isEmpty || s.hub.thermtrip ||
    (List.range 8).any fun t => (s.tower t).refresh2x || (s.tower t).throttled
  else if n = 3 then s.power.rails.any fun e => e.2.fails != 0
  else if n = 4 then s.power.shortfall
  else if n = 8 then (List.range 90).any fun k => (s.link k).state == 3 || s.linkDown (k / 2)
  else if n = 11 then s.lowKinds != 0
  else if n = 12 then s.hub.replaceMe
  else if n = 14 then !s.hub.time.valid
  else false

/-- An alarm latch record (Table 17.3). -/
def State.latchRecord (s : State) (n : Nat) : List Byte :=
  let a := mget s.hub.alarms Alarm.reset n
  leBytes 4 (bit (s.alarmActive n) * 2 + bit a.raised) ++ leBytes 4 a.count ++ leBytes 8 a.first ++ leBytes 8 a.last ++ leBytes 2 a.detail ++
    leBytes 2 a.source ++ leBytes 4 0

/-- The bytes of coefficient table `t` (R231, R269). -/
def coefficientTable (t : Nat) : List Byte :=
  if t = 7 then (List.range 512).flatMap fun m => leBytes 4 (cosine m)
  else (List.range 256).flatMap fun i => leBytes 4 (Config.coefficient t 0 i).toNat ++ leBytes 4 (Config.coefficient t 1 i).toNat

/-- The identity root's key pair, from the fuses (R450). -/
def rootPair : LmsKey := { seed := (List.range 32).map Config.identitySeed, ident := (List.range 16).map Config.identityI }

/-- The boot-epoch key pair, from the seed and the identifier that hub memory holds (R452). -/
def State.epochPair (s : State) : LmsKey := { seed := s.hub.epochSeed, ident := s.hub.epochIdent }

/-- The epoch record as it was signed (Table 16.3). -/
def State.epochRecord (s : State) : List Byte :=
  leBytes 4 0x45501620 ++ leBytes 4 s.hub.rootLeaf ++ leBytes 8 Config.serial ++ s.epochPair.pub ++ s.hub.epochHash ++ List.replicate 24 0

/-- 0x6020:03: the epoch record and its root signature. -/
def State.epochEntry (s : State) : List Byte :=
  if s.hub.epochState < 2 then []
  else s.epochRecord ++ rootPair.sign s.hub.rootLeaf ((List.range 32).map (Config.rootRandomizer s.hub.rootLeaf)) s.epochRecord

/-- The recorded ceilings of a die (Table 14.12). -/
def State.ceilingBytes (s : State) (d : Nat) : List Byte :=
  if d < 16 then (List.range 272).map fun i => if s.spares.cores.contains (272 * d + i) then 0xFF else BitVec.ofNat 8 (s.ceiling (272 * d + i))
  else if d < 18 then (List.range 18).map fun i =>
    if s.spares.skinks.contains (18 * (d - 16) + i) then 0xFF else BitVec.ofNat 8 (s.ceiling (10000 + 18 * (d - 16) + i))
  else []

/-- A number as an I32 entry. -/
def i32Bytes (v : Int) : List Byte := leBytes 4 (u32 v)

/-- A temperature entry of 0x4000. -/
def State.temperature (s : State) (sub : Nat) : Int :=
  if sub = 0x10 then s.power.temps.foldl max (s.power.temps.getD 0 0)
  else if sub < 0x40 then s.power.temps.getD (sub - 0x20) 0 else s.power.towerTemps.getD (sub - 0x40) 0

/-- A ring's read-only values (Table 11.9). -/
def Ring.status (r : Ring) (sub : Nat) : Nat :=
  [r.subHead, r.subTail, r.cmpHead, r.cmpTail, r.nextAlive, r.cmpAlive, r.written].getD (sub - 0x11) 0

/-- The job in hand, or a blank one. -/
def State.jobOf (s : State) (p : Nat) : Job := (s.part p).job.getD Job.reset

/-- Descriptors that a flush still has to complete (R378): those waiting, but for the descriptor of the job in hand. -/
def State.toFlush (s : State) (p : Nat) : Nat :=
  if (s.part p).flushing then ((s.ringsOf p).map fun e => e.2.waiting).sum - bit (s.part p).job.isSome else 0

/-- Entries of areas 0x1000 to 0x4000 that hold a number. -/
def State.number1 (s : State) (index sub p : Nat) : Nat :=
  let q := s.part p
  let j := s.jobOf p
  match index with
  | 0x1018 => [0, 0xEF0D0001, 0x1620, (Config.firmwareRevision s.hub.fwHash).toNat, Config.serial, Config.orderingVariant.toNat].getD sub 0
  | 0x1020 => [s.slp.sessions.length, s.slp.discarded, s.slp.retransmitted, s.hub.bootEpoch].getD (sub - 0x10) 0
  | 0x1030 => [0, s.hub.straps, s.hub.lastStart, s.hub.startMicros, s.hub.startPhase].getD sub 0
  | 0x1040 => if sub = 0x10 then bit s.hub.time.valid else u32 s.hub.time.linkDelay
  | 0x2000 => if sub = 0x11 then q.state else q.placement.skinks.length
  | 0x2010 => [j.state, bit q.held, j.ring, j.slot, j.restarts,
      s.toFlush p,
      mget q.counters 0 cJobsOk, mget q.counters 0 cJobsBad, mget q.counters 0 cRestarts].getD (sub - 0x10) 0
  | 0x2020 => if sub ≤ 0x10 then s.dieStatus (sub - 1) else if sub = 0x40 then 18 - (s.spares.skinks.filter fun e => e / 18 == 0).length
      else if sub = 0x41 then 18 - (s.spares.skinks.filter fun e => e / 18 == 1).length else bit s.hub.replaceMe
  | 0x2100 => if sub = 1 then q.version else if sub = 2 then (if q.waiting.isSome && !q.building.contains 0x2100 then q.nextVersion else 0)
      else if sub = 5 then q.placement.offDie else if sub = 6 then (if q.version = 0 then 0 else s.logicalCores p - q.placement.cores.length)
      else if sub = 7 then q.reload.length else s.lowCeiling p
  | 0x2120 => mget q.counters 0 (cHits + sub - 1)
  | 0x3000 => if sub = 0x10 then s.power.estimate / 1000 else if sub = 0x11 then s.power.measured else bit s.power.shortfall
  | 0x3010 => q.share / 1000
  | 0x3020 => [q.level, s.limits p, q.share / 1000, q.estimate / 1000, q.energy / 10 ^ 6, mget q.counters 0 cPreempted].getD (sub - 0x10) 0
  | 0x3040 => if sub = 0x20 then s.power.overhead / 1000 else if sub = 0x21 then s.power.overheadEnergy / 10 ^ 6
      else if sub = 0x22 then s.power.readFails
      else (mget s.power.rails Rail.reset (sub - 0x41)).pout % 2 ^ 16 * 2 ^ 16 + (mget s.power.rails Rail.reset (sub - 0x41)).k4096
  | 0x3050 => [0, s.power.latched, s.power.asserts, s.power.droops, s.power.forceTicks].getD sub 0
  | 0x3060 => s.power.lowered
  | 0x4000 => if sub = 2 then 105 else if sub = 3 then 110
      else if sub = 0x11 then (s.power.temps.filter fun t => decide (s.thermalThreshold ≤ t)).length else u32 (s.temperature sub)
  | _ => 0

/-- Entries of areas 0x5000 to 0xA000 that hold a number; results of commits stand in the dictionary itself. -/
def State.number2 (s : State) (index sub p sel : Nat) : Nat :=
  let q := s.part p
  let c (k : Nat) : Nat := mget q.counters 0 k
  match index with
  | 0x5010 => s.inventory sub
  | 0x5020 => s.integrityCounter sub
  | 0x6010 => (s.tenants.filter fun e => e.2.tenant != 0).length
  | 0x6020 => if sub = 0x10 then 32768 - s.hub.rootUsed else if sub = 0x11 then (if s.hub.epochState < 2 then 0 else 32768 - s.hub.epochUsed)
      else s.hub.epochState
  | 0x6040 => q.debug
  | 0x6100 => [bit (s.hub.phase == .recovery), bit s.hub.finished, s.hub.svn, s.hub.svnMin].getD (sub - 0x11) 0
  | 0x7000 => if sub = 1 then s.hub.tick else [s.hub.log.next, s.hub.log.dropped, s.hub.log.losses].getD (sub - 0x21) 0
  | 0x7020 => if sub = 0x11 then q.log.next else q.log.dropped
  | 0x8100 => (s.ring sel).status sub
  | 0x8400 => if sub = 0x11 then (q.windows.filter fun e => e.2.isOpen).length
      else if sub = 0x12 then (q.windows.map fun e => e.2.pages.length).sum else bit (q.building.contains 0x8400)
  | 0x9010 => if sub = 2 then c cRepeats else c cLongsum
  | 0x9020 => c (cB4Groups + sub - 1)
  | 0x9030 => c (cAudits + sub - 1)
  | 0x9050 => c (cNewtTile + sub - 1)
  | _ => 0

/-- The next packet number, and the receive associations held, of a port's key block (Table 16.7). -/
def Port.keyNumber (q : Port) (sub : Nat) : Nat :=
  if sub = 0x11 then (match q.txSa with | none => 0xFF | some a => a.1)
  else if sub = 0x12 then (match q.txSa with | none => 0 | some a => a.2.2.2)
  else q.rxSas.foldl (fun b e => b + 2 ^ e.1) 0

/-- A port's read-only entries (Table 11.2). -/
def Port.counter (q : Port) (sub : Nat) : Nat := [q.link, q.accepted, q.discarded, q.macsecDiscarded].getD (sub - 0x10) 0

/-- A tower's read-only entries (Table 10.8). -/
def State.towerEntry (s : State) (t sub : Nat) : Nat :=
  let w := s.tower t
  [0, w.channels, bit (w.inService.contains 16), w.corrected, w.uncorr, w.remapped, (w.inService.map fun ch => w.rowsLeft t ch).sum,
    3 * w.channels].getD sub 0

/-- A read-only number that the device keeps in the dictionary: the result of a block's last commit, and what a query found. -/
def keptResult (index sub : Nat) : Bool :=
  (sub == 0x10 && (index == 0x2000 || index == 0x8100 || index == 0x8400 || index == 0x6030 || index == 0x6100)) ||
    (sub == 0x10 && decide (0x6200 ≤ index ∧ index ≤ 0x6210)) || index == 0x5130 || index == 0xA020

/-- A read-only entry that holds a number. -/
def State.roNumber (s : State) (index sub inst sel : Nat) : Nat :=
  if keptResult index sub then s.dval index inst sub 0
  else if 0x1100 ≤ index ∧ index ≤ 0x1110 then (s.port (indexPort index)).counter sub
  else if 0x6200 ≤ index ∧ index ≤ 0x6210 then (s.port (indexPort index)).keyNumber sub
  else if 0x5200 ≤ index ∧ index ≤ 0x5207 then s.towerEntry (index % 256) sub
  else if index < 0x5000 then s.number1 index sub inst else s.number2 index sub inst sel

/-- A read-only or constant entry that holds a string or a domain; `sel` is the element selected. -/
def State.roBytes (s : State) (index sub inst sel : Nat) : List Byte :=
  match index with
  | 0x1001 => directory
  | 0x1008 => [0x4D, 0x57, 0x31, 0x36, 0x32, 0x30]
  | 0x1009 => [0x42, 0x31]
  | 0x2100 => (s.part inst).reload.flatMap fun m => leBytes 2 m
  | 0x3060 => s.ceilingBytes sel
  | 0x6020 => if sub = 1 then rootPair.pub else if sub = 2 then Config.rootCertificate.take 4096 else s.epochEntry
  | 0x7000 => s.latchRecord (sub - 0x10)
  | 0x9040 => coefficientTable sub
  | _ => s.dbytes index inst sub

/-- What a read of an entry that is not staged shows a session. -/
def State.report (s : State) (q : Session) (index inst : Nat) (e : Entry) : List Byte :=
  let sel := s.selected q index inst
  if e.access = 2 then List.replicate (typeSize e.type) 0
  else if typeSize e.type = 0 then s.roBytes index e.sub inst sel
  else if index = 0x2020 ∧ 0x21 ≤ e.sub ∧ e.sub ≤ 0x30 then leBytes 4 (if s.isAdmin q then mget s.spares.owners 0 (e.sub - 0x21) else 0)
  else if index = 0x3030 then leBytes 8 (if e.sub = 0x10 then (s.ring sel).energy / 10 ^ 6 else (s.ring sel).counted)
  else leBytes (typeSize e.type) (s.roNumber index e.sub inst sel)

/-- The value of any entry as a session reads it. -/
def State.entryValue (s : State) (q : Session) (index inst : Nat) (e : Entry) : List Byte :=
  if e.access = 3 then s.shown q index inst e else s.report q index inst e

end Sys2Proof.Machine
end

