-- ==== Sys2Proof/Machine/Access.lean ====
section
/-! DEFINITION. How a dictionary access is resolved, read and staged (R355 to R359, R364, R476, R497). -/

namespace Sys2Proof.Machine

/-! ### Rights (R364) -/

/-- The owning tenant of a partition. -/
def State.owner (s : State) (p : Nat) : Nat := s.dval 0x2000 p 2 0

/-- A session of its partition's tenant. -/
def State.ofTenant (s : State) (q : Session) : Bool := q.tenant != 0 && q.tenant == s.owner q.part

/-- The device serves from the boot ROM's recovery mode (R448). -/
def State.inRecovery (s : State) : Bool := s.hub.phase == .recovery

/-- Step 4 of R355 for the debug area. -/
def State.debugRight (s : State) (q : Session) : Option Nat :=
  if (s.part q.part).debug ≠ 1 then some 0x0411 else if s.ofTenant q && s.hasDebug q then none else some 0x0412

/-- The right to write (Table 12.3). -/
def State.mayWrite (s : State) (q : Session) (right : Nat) : Bool :=
  if right = 0 then decide (q.part < 16) && s.exists_ q.part
  else if right = 1 then s.ofTenant q || s.isAdmin q
  else if right = 2 then s.isAdmin q
  else s.isRack q || s.isAdmin q

/-- Step 4 of R355. -/
def State.rightMissing (s : State) (q : Session) (b : Block) (sub : Nat) (write : Bool) : Option Nat :=
  if s.inRecovery then none
  else if b.wright = 4 then s.debugRight q
  else if b.lo = 0x3060 ∧ !s.isAdmin q then some 0x0412
  else if write && !s.mayWrite q (b.right sub) then some 0x0412
  else none

/-- Entries that every session may read: those of R4 and 0x1030; in recovery mode also the firmware block (R448). -/
def State.openEntry (s : State) (index : Nat) : Bool :=
  index == 0x1008 || index == 0x1009 || index == 0x1018 || index == 0x1030 || (s.inRecovery && index == 0x6100)

/-- What a session with `ADMIN` may reach of the block of a partition that does not exist (R355). -/
def creating (b : Block) (e : Entry) (write : Bool) : Bool :=
  b.lo == 0x2000 && (e.access == 3 || (write && e.access == 2) || (!write && e.sub == 0x11))

/-- Steps 1 to 5 of R355. -/
def State.resolve (s : State) (q : Session) (index sub : Nat) (write : Bool) : Except Nat (Block × Entry) :=
  match blockAt index with
  | none => .error 0x0415
  | some b =>
    match b.entry sub with
    | none => .error 0x0415
    | some e =>
      if 16 ≤ q.part ∧ !s.openEntry index then .error 0x0412
      else if b.perPart && !s.exists_ q.part && !(s.isAdmin q && creating b e write) then .error 0x0414
      else match s.rightMissing q b sub write with
        | some st => .error st
        | none => if write && (e.access == 0 || e.access == 4) then .error 0x0413 else .ok (b, e)

/-! ### Reading -/

/-- The largest length of an access over a session's port (R357). -/
def State.accessLimit (s : State) (q : Session) : Nat := s.payloadLimit q.port - 16

/-- The bytes of a log record (Table 17.4). -/
def LogRec.bytes (r : LogRec) : List Byte :=
  leBytes 1 (16 * r.cls) ++ leBytes 1 r.part ++ leBytes 2 r.code ++ leBytes 4 r.seq ++ leBytes 8 r.tick ++ r.data

/-- The loss record that heads a read or a stream (R476): `missed` records from sequence number `from0`. -/
def LogRing.lossHead (r : LogRing) (part from0 missed : Nat) : LogRec :=
  { cls := 1, part := part, code := 0xFF, seq := from0 % 2 ^ 32, tick := r.overTick,
    data := leBytes 8 0 ++ leBytes 4 (min missed 0xFFFFFFFF) ++ leBytes 4 0 }

/-- The count of a record from its 32-bit sequence number: the highest not above the ring's next, where there is one. -/
def LogRing.place (r : LogRing) (seq : Nat) : Nat :=
  let a := r.next / 2 ^ 32 * 2 ^ 32 + seq % 2 ^ 32
  if r.next < a ∧ 2 ^ 32 ≤ a then a - 2 ^ 32 else a

/-- Records of a ring from a sequence number, at most `k`, with a loss record first where older ones were overwritten (R476). -/
def LogRing.from_ (r : LogRing) (part seq k : Nat) : List LogRec :=
  let at0 := r.place seq
  let oldest := r.next - r.recs.length
  if at0 < oldest then (r.lossHead part seq (oldest - at0) :: r.recs).take k else (r.recs.drop (at0 - oldest)).take k

/-- The log entries (R357, R476). -/
def isLog (index sub : Nat) : Bool := (index == 0x7000 && sub == 0x20) || (index == 0x7020 && sub == 0x10)

/-- The log records that a read returns. -/
def State.readLog (s : State) (q : Session) (index len : Nat) : List Byte :=
  let k := min len (s.accessLimit q) / 32
  let r := if index = 0x7000 then s.hub.log.from_ 255 (leNat (s.current q 0x7000 0 (rws 4 2 0))) k
    else (s.part q.part).log.from_ q.part (leNat (s.current q 0x7020 q.part (rws 3 2 0))) k
  r.flatMap LogRec.bytes

/-- A `DREAD` (R341, R355 to R359). -/
def State.readEntry (s : State) (q : Session) (index sub off len : Nat) : Except Nat (List Byte) :=
  match s.resolve q index sub false with
  | .error st => .error st
  | .ok (b, e) =>
    if isLog index sub then (if off = 0 then .ok (s.readLog q index len) else .error 0x0416)
    else if index = 0x3030 ∧ e.access = 0 ∧ (s.ring (s.selected q index 0)).part ≠ q.part then .error 0x0410
    else
      let v := s.entryValue q index (b.inst q) e
      if typeSize e.type ≠ 0 then (if off = 0 ∧ len = typeSize e.type then .ok v else .error 0x0416)
      else if v.length < off ∨ s.accessLimit q < len then .error 0x0416
      else .ok ((v.drop off).take len)

/-! ### Writing (R356 to R358, R497) -/

/-- The staged entries of a block. -/
def Block.staged (b : Block) : List Entry := b.entries.filter fun e => e.access == 3

/-- A fresh staged copy: every RWS entry at its value in force. -/
def State.freshCopy (s : State) (b : Block) (index inst : Nat) : Staged :=
  { block := index, inst := inst,
    vals := b.staged.foldl (fun m e => mset m [] e.sub (s.inForce index inst (s.dval index inst 1 0) e)) [] }

/-- The staged copy that a session's write acts on. -/
def State.copyFor (s : State) (q : Session) (b : Block) (index inst : Nat) : Staged := (q.copy index inst).getD (s.freshCopy b index inst)

/-- A value written: whole, or from an offset, dropping what lay beyond (R357). -/
def writtenValue (e : Entry) (old : List Byte) (off : Nat) (data : List Byte) : List Byte :=
  if typeSize e.type ≠ 0 then data else old.take off ++ data

/-- The copy after a write; a selector loads the other entries from the element it names (R497). -/
def State.stagedWrite (s : State) (b : Block) (c : Staged) (e : Entry) (off : Nat) (data : List Byte) : Staged :=
  let v := writtenValue e (mget c.vals [] e.sub) off data
  if selects c.block && e.sub == 1 then
    { c with vals := (b.staged.filter fun x => x.sub != 1).foldl (fun m x => mset m [] x.sub (s.inForce c.block c.inst (leNat v) x)) (mset [] [] 1 v) }
  else { c with vals := mset c.vals [] e.sub v }

/-- The largest length of a value. -/
def Entry.room (e : Entry) : Nat := if e.type = 6 then 255 else e.limit

/-- Step 6 of R355 for a write. -/
def State.badExtent (s : State) (q : Session) (index inst : Nat) (e : Entry) (off len : Nat) : Bool :=
  if typeSize e.type ≠ 0 then off != 0 || len != typeSize e.type
  else decide ((s.current q index inst e).length < off ∨ e.room < off + len ∨ s.accessLimit q < len)

/-- Puts a session's staged copy. -/
def Session.setCopy (q : Session) (c : Staged) : Session :=
  { q with staged := (q.staged.filter fun x => x.block != c.block || x.inst != c.inst) ++ [c] }

/-- Discards a session's staged copy. -/
def Session.dropCopy (q : Session) (index inst : Nat) : Session :=
  { q with staged := q.staged.filter fun x => x.block != index || x.inst != inst }

/-- A write to an RWS entry of session `n`. -/
def State.stage (s : State) (n : Nat) (q : Session) (b : Block) (e : Entry) (index off : Nat) (data : List Byte) : Except Nat State :=
  let inst := b.inst q
  if s.badExtent q index inst e off data.length then .error 0x0416
  else if (q.copy index inst).isNone ∧ 8 ≤ q.staged.length then .error 0x0417
  else .ok (s.setSession n (q.setCopy (s.stagedWrite b (s.copyFor q b index inst) e off data)))

end Sys2Proof.Machine
end

