-- ==== Sys2Proof/Machine/Registers.lean ====
section
/-! DEFINITION. What the hub writes and reads in the register blocks of macros, cores, engines, links and rails (R58, R59, R66 to R73, R113,
R127, R130, R235, R271, R324, R423). -/

namespace Sys2Proof.Machine

/-! ### Macro registers -/

/-- `MAC_COMMIT`: refused whole where two maps clash; else the staged copies, as they stand at the commit, act at the owner's next job boundary, or
at the next tick when no job of its runs (R58, R59, R68). What is staged after the commit needs a commit of its own (R14; log entry 83). -/
def macCommitStep (c m : Nat) (s : State) : State :=
  s.updMac (macKey c m) fun x => x.commit x.staged

def execMacCommit (core m : Nat) (s : State) : Host.Outcome State Fault Refusal :=
  act (coreOk core && physOk m) s (macCommitStep core m s)

/-- A hub read of `MAC_STEP_COUNT_LO` (R72). -/
def macStepCountLoStep (c m : Nat) (s : State) : State :=
  (s.latchSteps (macKey c m)).updHub fun h => { h with hubRead := (s.mac (macKey c m)).stats.steps % 2 ^ 32 }

def execMacStepCountLo (core m : Nat) (s : State) : Host.Outcome State Fault Refusal :=
  act (coreOk core && physOk m) s (macStepCountLoStep core m s)

/-- A hub write to a macro's block: staged copies and W1C bits (Tables 2.12, 3.8). -/
def macWrite (c m off : Nat) (v : Word) (s : State) : State :=
  let k := macKey c m
  let b := v.toNat
  if off = 0x000 then
    s.updMac k fun x => { x with staged := { x.staged with enable := b.testBit 0, rewritable := b.testBit 1, force32 := b.testBit 2 } }
  else if off = 0x004 then (if b.testBit 0 then macCommitStep c m s else s)
  else if off = 0x00C then
    s.updMac k fun x =>
      { x with stats := { x.stats with uncorr := x.stats.uncorr && !b.testBit 3, persist := x.stats.persist && !b.testBit 2,
                                       corrected := x.stats.corrected && !b.testBit 1 } }
  else if 0x020 ≤ off ∧ off < 0x040 ∧ off % 4 = 0 then
    s.updMac k fun x =>
      { x with staged := { x.staged with lanes := mset x.staged.lanes 0 ((off - 0x020) / 4) (bit (b.testBit 31) * 2 ^ 31 + b % 256) } }
  else if off = 0x040 then s.updMac k fun x => { x with stats := { x.stats with rejValid := x.stats.rejValid && !b.testBit 31 } }
  else s

/-! ### Core registers -/

/-- The configuration that a core's commit took acts (R130). -/
def Core.applyCommit (k : Core) : Core := match k.committed with | none => k | some g => { k with cfg := g, committed := none }

/-- `CORE_COMMIT`: the staged copies, as they stand at the commit, act at the next job start, or at the tick boundary when no job of the partition
runs (R130). -/
def coreCommitStep (c : Nat) (s : State) : State := s.updCore c fun k => { k with committed := some k.staged }

def execCoreCommit (core : Nat) (s : State) : Host.Outcome State Fault Refusal := act (coreOk core) s (coreCommitStep core s)

/-- One word of a handle entry written (Table 4.4). -/
def Handle.setWord (h : Handle) (i b : Nat) : Handle :=
  if i = 0 then { h with base := h.base / 2 ^ 32 * 2 ^ 32 + b }
  else if i = 1 then { h with base := b % 2 ^ 16 * 2 ^ 32 + h.base % 2 ^ 32, win := b / 2 ^ 16 % 256 }
  else if i = 2 then { h with size := b }
  else { h with valid := b.testBit 31, kind := b / 2 ^ 28 % 8 }

/-- A hub write to a core's register space (Table 4.5). -/
def coreWrite (c off : Nat) (v : Word) (s : State) : State :=
  let b := v.toNat
  if off = 0x1C then s.updCore c fun k => { k with faultValid := k.faultValid && !b.testBit 31 }
  else if off = 0x20 then s.updCore c fun k => { k with staged := { k.staged with rtlen0 := b } }
  else if off = 0x24 then s.updCore c fun k => { k with staged := { k.staged with rtlen1 := b } }
  else if 0x30 ≤ off ∧ off < 0x40 ∧ off % 4 = 0 then
    s.updCore c fun k =>
      let i := (off - 0x30) / 4 * 4
      let mm := (List.range 4).foldl (fun l j => l.set (i + j) (b / 256 ^ j % 32)) k.staged.macroMap
      { k with staged := { k.staged with macroMap := mm } }
  else if off = 0x80 then (if b.testBit 0 then coreCommitStep c s else s)
  else if 0x1000 ≤ off ∧ off < 0x1400 ∧ off % 4 = 0 then
    s.updCore c fun k =>
      let n := (off - 0x1000) / 16
      { k with staged := { k.staged with handles := mset k.staged.handles Handle.reset n ((k.staged.handle n).setWord (off / 4 % 4) b) } }
  else
    match macroAtReg s c off with
    | some (k, o) => macWrite c (k % 18) o v s
    | none => s

/-- At a tick boundary the commits of cores and macros whose partition runs no job act (R58, R130). -/
def State.settleCommits (s : State) : State :=
  { s with cores := mmap s.cores Core.reset fun c k => if s.atBoundary c then k.applyCommit else k,
           macros := mmap s.macros Macro.reset fun k m => if s.atBoundary (macCore k) then m.applyCommit else m }

/-! ### The other blocks -/

/-- A hub write to a Skink engine's block (Table 7.13). -/
def skinkWrite (e off : Nat) (v : Word) (s : State) : State :=
  let b := v.toNat
  if off = 0x004 then
    s.updSkink e fun x => { x with stEnable := b.testBit 31, stPart := b / 2 ^ 27 % 16, stLogical := b / 2 ^ 22 % 32 }
  else if off = 0x008 then
    (if b.testBit 0 then
      s.updSkink e fun x => { x with committed := some (x.stEnable, x.stPart, x.stLogical) }
    else s)
  else if off = 0x010 then s.updSkink e fun x => { x with faultValid := x.faultValid && !b.testBit 31 }
  else s

/-- A hub write to an engine's block: the W1C bit of `_FAULT` (Table 8.8). -/
def engineWrite (i off : Nat) (v : Word) (s : State) : State :=
  if off = 0x008 then s.updEngine i fun x => { x with faultValid := x.faultValid && !v.toNat.testBit 31 } else s

/-- A hub write to a Causeway port's block: the W1C bits of `CWY_ERR_STAT` (Table 10.11). -/
def cwyWrite (q off : Nat) (v : Word) (s : State) : State :=
  if off = 0x00C then s.updLink q fun l => { l with stepped := l.stepped && !v.toNat.testBit 1, down := l.down && !v.toNat.testBit 0 } else s

/-- A hub write to a paced die's block: the W1C bit of `PWR_CLAMP_STAT` (Table 14.14). -/
def pwrWrite (d off : Nat) (v : Word) (s : State) : State :=
  if off = 0x008 then
    s.updPower fun w => { w with dies := mupd w.dies PacedDie.reset d fun x => { x with clamped := x.clamped && !v.toNat.testBit 0 } }
  else s

/-- A hub write to a unit register; a write to a register that the hub does not write has no effect. -/
def registerWriteStep (r : RegRef) (v : Word) (s : State) : State :=
  match r with
  | .mac c m off => macWrite c m off v s
  | .core c off => coreWrite c off v s
  | .skink e off => skinkWrite e off v s
  | .engine i off => engineWrite i off v s
  | .cwy q off => cwyWrite q off v s
  | .pwr d off => pwrWrite d off v s

def execRegisterWrite (reg : RegRef) (value : Word) (s : State) : Host.Outcome State Fault Refusal :=
  act reg.wf s (registerWriteStep reg value s)

end Sys2Proof.Machine
end

