-- ==== Sys2Proof/Machine/Skink.lean ====
section
/-! DEFINITION. Memory as engines reach it, and the Skink engines: submission, tiles, drains and registers (R161, R169 to R172, R217 to R236,
R240). -/

namespace Sys2Proof.Machine

/-! ### Accesses by a unit of some die for a core's job -/

/-- The places of an operand's bytes as a unit of a die reaches them (R215, R240). -/
def State.extentsAt (s : State) (die c : Nat) (o : Operand) (n kind : Nat) : Except Nat (List (Nat × Nat)) :=
  if o.h.kind ≤ 3 then
    if s.routeDown die (coreDie c) then .error 0x0601
    else
      let b := localMem c o.h.kind
      .ok (localExtents b.1 b.2 (n / b.2 + 2) (o.h.base + o.off) n)
  else
    match (s.core c).part with
    | none => .error 0x0401
    | some p => s.windowAt die p o.h.win (o.h.base + o.off) n kind

/-- An access of a unit of some die leaves that die. -/
def leaves (die : Nat) (ext : List (Nat × Nat)) : Bool := !ext.isEmpty && dieOfAddr (firstAddr ext) != die

/-- A write that a unit of a die makes on the die's own path, without a credit: an engine die's units into its plaza and towers, an array die's Newt and
Toad into its die store (R310). -/
def freeOfCredit (die a : Nat) : Bool := dieOfAddr a == die && (decide (16 ≤ die) || decide (2 ^ 41 ≤ a ∧ a < 2 ^ 42))

/-- A write of `n` bytes by a unit of a die waits for a credit of its window where it goes (R310). -/
def State.heldAt (s : State) (die p : Nat) (o : Operand) (n : Nat) : Bool :=
  if o.h.kind = 4 then
    match windowExtents { s.window p o.h.win with rights := 31 } rWR (n / 2 ^ 16 + 2) (o.h.base + o.off) n with
    | .error _ => false
    | .ok ext => s.starved p die o.h.win (ext.filter fun e => !freeOfCredit die e.1)
  else false

/-- Reads bytes of an operand; `cache` for the die-store Newt of a cached job (R298). -/
def State.readAt (s : State) (die c : Nat) (cache : Bool) (o : Operand) (n : Nat) : Except Nat (List Byte × State) :=
  match s.extentsAt die c o n rRD with
  | .error e => .error e
  | .ok ext =>
    s.receive (leaves die ext) ext <|
      match cache && o.h.kind == 4, (s.core c).part with
      | true, some p =>
        if s.cached p then s.cachedExtents p die ext
        else match readExtents s.mem ext with | .error e => .error e | .ok bs => .ok (bs, s)
      | _, _ => match readExtents s.mem ext with | .error e => .error e | .ok bs => .ok (bs, s)

/-- The bytes of an operand, nothing cached. -/
def State.peekAt (s : State) (die c : Nat) (o : Operand) (n : Nat) : Except Nat (List Byte) :=
  match s.extentsAt die c o n rRD with
  | .error e => .error e
  | .ok ext => match s.receive (leaves die ext) ext ((readExtents s.mem ext).map fun bs => (bs, s)) with | .error e => .error e | .ok r => .ok r.1

/-- Writes bytes of an operand. -/
def State.writeAt (s : State) (die c : Nat) (o : Operand) (bs : List Byte) : Except Nat State :=
  match s.extentsAt die c o bs.length rWR with
  | .error e => .error e
  | .ok ext => s.deposit die (s.core c).part (leaves die ext) (o.h.kind == 4) ext bs

/-- An atomic access at the bank. -/
def State.atomicAt (s : State) (die c : Nat) (o : Operand) (n : Nat) (f : List Byte → Except Nat (List Byte)) : Except Nat State :=
  match s.extentsAt die c o n rATOM with
  | .error e => .error e
  | .ok ext =>
    match s.exchange die (s.core c).part (leaves die ext) (o.h.kind == 4) ext f with
    | .error e => .error e
    | .ok r => .ok r.2

/-- An offset reached by adding bytes, modulo 2^32 (R125, R222). -/
def Operand.plus (o : Operand) (i : Int) : Operand := { o with off := (((o.off : Int) + i) % 2 ^ 32).toNat }

/-! ### Submission (R218 to R224) -/

def sktOff (k : Core) (w : Nat) : Nat := effOff k (field w 87 70) (fXA w)

/-- Checks of `SKT` itself (Table 7.3). -/
def sktChecks (k : Core) (w : Nat) : List (Bool × Nat) :=
  [(field w 69 0 != 0 || fXB w != 0, 0x0100), (sktOff k w % 64 != 0, 0x0102), (badHandles k [field w 93 88], 0x0103),
   (wrongKind k (field w 93 88) [0], 0x0104)]

/-- Bytes of an operand element (Table 7.5). -/
def opBytes (t : Nat) : Nat := if t = 0 then 2 else 1
/-- Legal operand types (Table 7.5). -/
def typesOk (a b : Nat) : Bool := (a == 0 && b == 0) || ((a == 1 || a == 2) && (b == 1 || b == 2)) || (a == 3 && b == 3)

/-- The tile of a descriptor, its handles resolved. -/
def tileOf (c p : Nat) (k : Core) (b : List Byte) (sig pc : Nat) : Tile :=
  let h := fun o => k.cfg.handle (uAt b o 1 % 64)
  { core := c, part := p, atype := uAt b 0 1 % 4, btype := uAt b 0 1 / 4 % 4, sp24 := (uAt b 0 1).testBit 4, outer := (uAt b 0 1).testBit 5,
    sigw := (uAt b 0 1).testBit 6, init := uAt b 1 1 % 4, drain := uAt b 1 1 / 4 % 4, m := uAt b 2 2, n := uAt b 4 2, k := uAt b 8 4,
    accBase := uAt b 6 2 % 4096, a := { h := h 12, off := uAt b 16 4 }, aRs := iAt b 20 4, b := { h := h 13, off := uAt b 24 4 }, bRs := iAt b 28 4,
    c := { h := h 14, off := uAt b 32 4 }, cRs := iAt b 36 4, pre := { h := h 15, off := uAt b 40 4 }, preRs := iAt b 44 4,
    x := { h := h 48, off := uAt b 52 4 }, biOff := uAt b 56 4, sOff := uAt b 60 4, sig := sig, pc := pc }

/-- Handles that a tile uses. -/
def tileHandles (b : List Byte) (t : Tile) : List Nat :=
  [uAt b 12 1 % 64, uAt b 13 1 % 64] ++ (if t.drain ≠ 0 then [uAt b 14 1 % 64] else []) ++ (if t.init = 1 then [uAt b 15 1 % 64] else []) ++
    (if t.drain = 2 then [uAt b 48 1 % 64] else [])

/-- Reserved or unused fields of a descriptor that are not zero (R220). -/
def tileUnused (b : List Byte) (t : Tile) : Bool :=
  decide (128 ≤ uAt b 0 1) || decide (16 ≤ uAt b 1 1) || decide (4096 ≤ uAt b 6 2) || decide (64 ≤ uAt b 12 1) || decide (64 ≤ uAt b 13 1) ||
  decide (64 ≤ uAt b 14 1) || decide (64 ≤ uAt b 15 1) || decide (64 ≤ uAt b 48 1) || !zerosAt b 49 3 ||
  (t.init != 1 && (uAt b 15 1 != 0 || !zerosAt b 40 8)) || (t.drain == 0 && (uAt b 14 1 != 0 || !zerosAt b 32 8)) ||
  (t.drain != 2 && (uAt b 48 1 != 0 || !zerosAt b 52 4)) || (!t.sp24 && !zerosAt b 56 4) || (!t.sigw && !zerosAt b 60 4)

/-- The engine that serves a logical number of a partition: the one its configuration binds (R235, R293). -/
def State.boundSkink (s : State) (p n : Nat) : Option Nat :=
  (List.range 36).find? fun e => let x := s.skink e; x.enable && x.part == p && x.logical == n

/-- Conditions of R148 and Table 7.6 on a descriptor, in their order. -/
def tileChecks (s : State) (k : Core) (p eng : Nat) (b : List Byte) (t : Tile) : List (Bool × Nat) :=
  let hs := tileHandles b t
  let ea := opBytes t.atype
  let eb := opBytes t.btype
  [(t.a.off % ea != 0 || t.b.off % eb != 0 || (t.drain == 1 && t.c.off % 4 != 0) || t.pre.off % 4 != 0 || t.x.off % 64 != 0, 0x0102),
   (badHandles k hs, 0x0103), (hs.any fun h => wrongKind k h [4], 0x0104),
   (decide (s.dval 0x2000 p 3 0 + s.dval 0x2000 p 4 0 ≤ eng) || (s.boundSkink p eng).isNone, 0x0130),
   (!typesOk t.atype t.btype || (t.sp24 && t.outer), 0x0131),
   (decide ((if t.btype = 0 then 128 else 256) < t.n) || decide (65536 < t.k), 0x0132),
   (decide (262144 < t.accBase * 64 + 4 * t.m * t.n), 0x0133), (t.outer && decide (65536 < 128 * t.m * ea), 0x0135),
   (t.init == 3 || t.drain == 3 || (t.sigw && (t.drain != 1 || t.atype != 3)), 0x0137), (tileUnused b t, 0x0138)]

/-- A refusal by the submission unit: recorded like the sequencer's, at the instruction's place (R219, R148). -/
def State.sktRefuse (s : State) (c status pc : Nat) : State :=
  (s.updCore c fun k =>
    if k.faultValid then { k with state := 6, sktQ := [] }
    else { k with state := 6, sktQ := [], faultValid := true, faultPc := pc % 2 ^ 15, faultStatus := statusOf status }).coreRaise c status 1 pc

/-- A tile that does nothing: `M`, `N` or `K` is 0 (R223). -/
def Tile.isEmpty (t : Tile) : Bool := t.m == 0 || t.n == 0 || t.k == 0

/-- The tile of the `SKT` at the front: the one the unit holds already, or that of its descriptor, read and checked now (R219, steps 1 and 2). -/
def State.takeTile (s : State) (c p : Nat) (o : SktOp) : Except Nat Tile :=
  match o.tile with
  | some t => .ok t
  | none =>
    match s.readOp c o.desc 64 with
    | .error e => .error e
    | .ok (b, _) =>
      let k := s.core c
      let t := tileOf c p k b o.sig o.pc
      match firstOf (tileChecks s k p o.eng b t) with
      | some e => .error e
      | none => .ok t

/-- The submission unit takes the `SKT` at its front, and the next ones: a tile that does nothing completes at once (R223), any other goes to its
engine, or is held while the engine's queue is full (R219). -/
def State.submit (s : State) (c fuel : Nat) : State :=
  match fuel with
  | 0 => s
  | fuel + 1 =>
    match (s.core c).sktQ, (s.core c).part with
    | o :: rest, some p =>
      match s.takeTile c p o with
      | .error e => s.sktRefuse c e o.pc
      | .ok t =>
        let gone := s.updCore c fun k => { k with sktQ := rest }
        let held := s.updCore c fun k => { k with sktQ := { o with tile := some t } :: rest }
        if t.isEmpty then State.submit (gone.signal c o.sig o.pc) c fuel
        else
          match s.boundSkink p o.eng with
          | none => held
          | some e =>
            if 16 ≤ (s.skink e).queue.length then held
            else
              State.submit ((gone.updCore c fun k => { k with sktOut := k.sktOut + 1 }).updSkink e fun x => { x with queue := x.queue ++ [t] }) c fuel
    | _, _ => s

def sktStep (c : Nat) (s : State) : State :=
  s.issue c (fun w => fOpcode w == 0x20) sktChecks (fun _ s => if 4 ≤ (s.core c).sktQ.length then some 1 else none) fun w s =>
    let k := s.core c
    (s.updCore c fun k => { k with sktQ := k.sktQ ++ [{ eng := field w 98 94, desc := { h := k.cfg.handle (field w 93 88), off := sktOff k w },
                                                        sig := fSig w, pc := k.pc - 1, tile := none }] }).submit c (k.sktQ.length + 1)

def execSkt (core : Nat) (h : Harm) (s : State) : Host.Outcome State Fault Refusal := act (coreOk core) s (sktStep core (s.suffer h))

/-- Room in an engine's queue lets the held submissions of its partition go on. -/
def State.submitHeld (s : State) (p : Nat) : State :=
  match (s.part p).job with
  | none => s
  | some j => j.cores.foldl (fun s c => s.submit c 4) s

/-! ### Tiles (R217, R222, R225 to R227) -/

/-- The die of an engine. -/
def skinkDie (e : Nat) : Nat := 16 + e / 18

/-- Reads one element of an operand at a byte distance from it. -/
def State.tileElem (s : State) (die c : Nat) (o : Operand) (i : Int) (n : Nat) : Except Nat Nat :=
  match s.peekAt die c (o.plus i) n with
  | .error e => .error e
  | .ok bs => .ok (leNat bs)

/-- All results of a list, or the first error. -/
def allOk {α β : Type} (f : α → Except Nat β) : List α → Except Nat (List β)
  | [] => .ok []
  | a :: rest =>
    match f a with
    | .error e => .error e
    | .ok b => match allOk f rest with | .error e => .error e | .ok bs => .ok (b :: bs)

/-- Row m of A: its `K` elements (R222). -/
def State.rowA (s : State) (die : Nat) (t : Tile) (m : Nat) : Except Nat (List Nat) :=
  let ea : Int := opBytes t.atype
  allOk (fun (k : Nat) => s.tileElem die t.core t.a ((if t.outer then (k : Int) * t.aRs + m else (m : Int) * t.aRs + k) * ea) (opBytes t.atype))
    (List.range t.k)

/-- Stored rows of B: `K`, or two for each group of four (R201). -/
def Tile.storedRows (t : Tile) : Nat := if t.sp24 then 2 * ceilDiv t.k 4 else t.k

/-- One stored product's side of B: the value, and the logical row it meets. -/
def State.elemB (s : State) (die : Nat) (t : Tile) (q n : Nat) : Except Nat (Nat × Nat) :=
  let eb : Int := opBytes t.btype
  if t.sp24 then
    let g := q / 2
    match s.tileElem die t.core t.b (((g : Int) * t.bRs + 2 * n + (q % 2 : Nat)) * eb) (opBytes t.btype) with
    | .error e => .error e
    | .ok v =>
      match s.tileElem die t.core t.b ((t.biOff : Int) + g * t.n + n) 1 with
      | .error e => .error e
      | .ok i => if i / 4 % 4 ≤ i % 4 then .error 0x0136 else .ok (v, 4 * g + (if q % 2 = 0 then i % 4 else i / 4 % 4))
  else
    match s.tileElem die t.core t.b (((q : Int) * t.bRs + n) * eb) (opBytes t.btype) with
    | .error e => .error e
    | .ok v => .ok (v, q)

/-- Column n of B. -/
def State.colB (s : State) (die : Nat) (t : Tile) (n : Nat) : Except Nat (List (Nat × Nat)) :=
  allOk (fun q => s.elemB die t q n) (List.range t.storedRows)

/-- The format of a floating-point operand type. -/
def fmtOf (ty : Nat) : FFmt := if ty = 0 then bf16 else if ty = 1 then e4m3 else e5m2

/-- One pass of a floating-point column: ascending, from +0.0 (R169, R170). -/
def passF (t : Tile) (a : List Nat) (ps : List (Nat × Nat)) : Nat :=
  ps.foldl (fun s p => fadd s (rn32 (((fmtOf t.atype).decode (a.getD p.2 0)).mul ((fmtOf t.btype).decode p.1)))) 0

/-- An entry after all passes of a floating-point tile. -/
def chainF (t : Tile) (a : List Nat) (col : List (Nat × Nat)) (acc : Nat) : Nat :=
  (chunks 128 (col.length + 1) col).foldl (fun acc ps => fadd acc (passF t a ps)) acc

/-- One pass of an INT8 column, the streamed operand shifted right by σ (R161). -/
def passI (sigma : Nat) (a : List Nat) (ps : List (Nat × Nat)) : Int :=
  ps.foldl (fun s p => s + (BitVec.ofNat 8 (a.getD p.2 0)).toInt / 2 ^ sigma * (BitVec.ofNat 8 p.1).toInt) 0

/-- An entry after all passes of an INT8 tile; none on overflow. -/
def chainI (sigma : Nat) (a : List Nat) (col : List (Nat × Nat)) (acc : Int) : Option Int :=
  (chunks 128 (col.length + 1) col).foldl (fun acc ps =>
    match acc with
    | none => none
    | some v => let w := v + passI sigma a ps; if over32 w then none else some w) (some acc)

/-- First entry of a tile's region, and its size (R225). -/
def Tile.base (t : Tile) : Nat := 16 * t.accBase
def Tile.size (t : Tile) : Nat := t.m * t.n
/-- Blocks of 256 entries that the tile touches. -/
def Tile.blocks (t : Tile) : List Nat := (List.range 256).filter fun b => decide (t.base < (b + 1) * 256 ∧ b * 256 < t.base + t.size)
/-- Is the accumulator an integer? -/
def Tile.isInt (t : Tile) : Bool := t.atype == 3

/-- The entries a tile starts from, in ascending order. -/
def State.tileInit (s : State) (e : Nat) (t : Tile) : Except Nat (List Nat) :=
  if t.init = 1 then
    allOk (fun i => s.tileElem (skinkDie e) t.core t.pre ((((i / t.n : Nat) : Int) * t.preRs + (i % t.n : Nat)) * 4) 4) (List.range t.size)
  else if t.init = 2 then
    match s.mem.badAt (skinkBase e + 4 * t.base) (4 * t.size) with
    | some st => .error st
    | none => .ok ((List.range t.size).map fun i => (mget (s.skink e).acc 0 (t.base + i)).toNat)
  else .ok (List.replicate t.size 0)

/-- σ and count that a tile starts from (R225); n_t products are added to the count. -/
def tileChain (x : Skink) (t : Tile) : Nat × Nat :=
  if t.init = 2 then ((t.blocks.map fun b => mget x.chainSigma 0 b).foldl max 0, (t.blocks.map fun b => mget x.chainCount 0 b).foldl max 0 + t.storedRows)
  else (0, t.storedRows)

/-- The attempts of an INT8 tile: how often it was repeated, with the entries and σ it ends with; none when σ is spent or repeats are not
allowed (R157, R161, R175). -/
def attempts (once : Bool) (a : List (List Nat)) (b : List (List (Nat × Nat))) (n fuel sigma reps : Nat) (entry : List Int) :
    Nat × Option (List Int × Nat) :=
  match fuel with
  | 0 => (reps, none)
  | fuel + 1 =>
    let r := (List.range entry.length).map fun i => chainI sigma (a.getD (i / n) []) (b.getD (i % n) []) (entry.getD i 0)
    if r.all Option.isSome then (reps, some (r.map fun v => v.getD 0, sigma))
    else if once || sigma == 31 then (reps, none)
    else attempts once a b n fuel (sigma + 1) (reps + 1) (entry.map fun v => v / 2)

/-! ### The drain chain (R229 to R233) -/

/-- An operation slot of a drain-chain record. -/
structure Slot where
  op : Nat
  src : Nat
  rsvd : Nat
  arg : Nat
  v0 : Nat
  v1 : Nat
deriving DecidableEq, Repr

def slotsOf (rec : List Byte) : List Slot :=
  (List.range (uAt rec 0 1 % 8)).map fun i =>
    { op := uAt rec (16 + 12 * i) 1, src := uAt rec (17 + 12 * i) 1, rsvd := uAt rec (18 + 12 * i) 1, arg := uAt rec (19 + 12 * i) 1,
      v0 := uAt rec (20 + 12 * i) 4, v1 := uAt rec (24 + 12 * i) 4 }

/-- Is a slot sound for a value of this kind (Table 7.9, R233)? -/
def slotOk (isInt : Bool) (x : Slot) : Bool :=
  x.rsvd == 0 &&
  (if x.op = 1 then !isInt && decide (x.src ≤ 1) else if x.op = 2 then decide (x.src ≤ 2)
   else if x.op = 3 then x.src == 0 && (if isInt then x.arg == 0 else decide (x.arg ≤ 5))
   else if x.op = 4 then x.src == 0 && (if isInt then decide (s32 x.v0 ≤ s32 x.v1) else !isNan32 x.v0 && !isNan32 x.v1 && !flt x.v1 x.v0)
   else x.op == 5 && decide (x.src ≤ 1))

/-- The slots in order, the kind after each; none when one is unsound. -/
def chainKind : Bool → List Slot → Option Bool
  | isInt, [] => some isInt
  | isInt, x :: rest => if slotOk isInt x then chainKind (isInt || x.op == 5) rest else none

/-- A sound record (R233). -/
def chainOk (isInt : Bool) (rec : List Byte) : Bool :=
  let nops := uAt rec 0 1
  let ofmt := uAt rec 1 1
  decide (nops ≤ 4) && decide (ofmt ≤ 6) && zerosAt rec 2 14 && chainKind isInt (slotsOf rec) == some (decide (4 ≤ ofmt))

/-- A value in the chain: an FP32 pattern or an integer of unbounded width. -/
inductive CVal where
  | f (x : Nat)
  | i (x : Int)
deriving DecidableEq, Repr

/-- The operand of a slot for output element (m, n), as its four bytes (R230). -/
def State.slotOperand (s : State) (die : Nat) (t : Tile) (x : Slot) (m n : Nat) : Except Nat Nat :=
  if x.src = 0 then .ok x.v0
  else s.tileElem die t.core { t.x with off := 0 } ((x.v0 : Int) + (if x.src = 1 then n else m * t.n + n) * 4) 4

/-- An integer product requantised by a slot, without its zero point: add half, shift (R166, Table 7.9). -/
def slotQuotient (sigma : Nat) (x : Slot) (p : Int) : Int :=
  let sh := x.arg % 64
  if sigma < sh then (p + 2 ^ (sh - sigma - 1)) / 2 ^ (sh - sigma) else p * 2 ^ (sigma - sh)

/-- One operation of the chain; `place` numbers the values that its requantisation computes: the product and the quotient, which carry residues (R429). -/
def State.chainOp (s : State) (place sigma : Nat) (x : Slot) (v : Nat) : CVal → Option CVal
  | .f a =>
    if x.op = 1 then some (.f (fmul a v)) else if x.op = 2 then some (.f (fadd a v)) else if x.op = 3 then some (.f (actFn x.arg a))
    else if x.op = 4 then some (if isNan32 a then .f a else if flt a x.v0 then .f x.v0 else if flt x.v1 a then .f x.v1 else .f a)
    else let y := fmul a v; some (.i (if isNan32 y then 0 else satRound y + s32 x.v1))
  | .i a =>
    if x.op = 2 then some (.i (a + s32 v)) else if x.op = 3 then some (.i (max a 0))
    else if x.op = 4 then some (.i (min (max a (s32 x.v0)) (s32 x.v1)))
    else
      match s.computed place (a * s32 v) with
      | none => none
      | some p => (s.computed (place + 1) (slotQuotient sigma x p)).map fun q => .i (q + s32 x.v1)

/-- The bytes of a converted value (R232). -/
def chainOut (ofmt : Nat) : CVal → List Byte
  | .f a => leBytes (ofmtBytes ofmt) (narrow ofmt a)
  | .i a =>
    if ofmt = 4 then leBytes 4 (u32 (satI32 a))
    else if ofmt = 5 then [BitVec.ofInt 8 (max 0 (min 255 a))] else [BitVec.ofInt 8 (max (-128) (min 127 a))]

/-- An element through the whole chain. -/
def State.chainElem (s : State) (die place sigma : Nat) (t : Tile) (m n : Nat) : List Slot → CVal → Except Nat CVal
  | [], v => .ok v
  | x :: rest, v =>
    match s.slotOperand die t x m n with
    | .error e => .error e
    | .ok w =>
      match s.chainOp place sigma x w v with
      | none => .error 0x0303
      | some v => State.chainElem s die (place + 2) sigma t m n rest v

/-! ### The commands -/

/-- A tile's fault: recorded at the engine, whose queue the fault abandons (R226, R236); a residue mismatch strikes the engine (R439). -/
def State.skinkFail (s : State) (e : Nat) (t : Tile) (status : Nat) : State :=
  let k := s.core t.core
  (s.updSkink e fun x =>
    let y := { x with queue := [], draining := [], state := 6 }
    if x.faultValid then y
    else { y with faultValid := true, faultDie := k.dieLog, faultX := k.x, faultY := k.y, faultStatus := statusOf status }).raise t.part (skinkDie e)
      { coreFault k status 4 0 with charge := if statusOf status = 0x0303 then 1 + (200000 + e) else 0 }

/-- `STATE` of an engine at work, from the work in hand: draining, loading the tile at its front, or idle (Table 7.14). -/
def Skink.phase (x : Skink) : Nat := if !x.draining.isEmpty then 3 else if x.queue.isEmpty then 0 else 1

/-- An engine whose state is that of its work. -/
def Skink.settled (x : Skink) : Skink := { x with state := x.phase }

/-- A tile completes: its instruction does too, and the engine's counts advance (R228, R236). -/
def State.tileDone (s : State) (e : Nat) (t : Tile) (sigma : Nat) (ran : Bool) : State :=
  let s := s.updSkink e fun x => (if ran then { x with sigma := sigma, tiles := satAdd u64Max x.tiles 1 } else x).settled
  (s.updCore t.core fun k => { k with sktOut := k.sktOut - 1 }).signal t.core t.sig t.pc

/-- The record of a `DRAIN` 2 tile, checked before the first pass; empty for other tiles (R233). -/
def State.tileRecord (s : State) (e : Nat) (t : Tile) : Except Nat (List Byte) :=
  if t.drain ≠ 2 then .ok []
  else
    match s.peekAt (skinkDie e) t.core t.x 64 with
    | .error st => .error st
    | .ok rec => if !chainOk t.isInt rec then .error 0x0134 else if t.c.off % ofmtBytes (uAt rec 1 1) != 0 then .error 0x0102 else .ok rec

/-- Integer entries as the engine holds them, each tested against its residue: none where one disagrees (R429). -/
def State.entriesTested (s : State) (n : Nat) : List Int → Option (List Int)
  | [] => some []
  | v :: rest => match s.computed n v, State.entriesTested s (n + 1) rest with | some w, some ws => some (w :: ws) | _, _ => none

/-- How often a tile was repeated, with the entries and σ after it; residues are those of the entries in an integer tile, of significand products and
aligned sums in a floating-point one (R429). -/
def State.tileRun (s : State) (e : Nat) (t : Tile) : Nat × Except Nat (List Nat × Nat) :=
  let die := skinkDie e
  match s.tileInit e t with
  | .error st => (0, .error st)
  | .ok init =>
    match allOk (s.rowA die t) (List.range t.m) with
    | .error st => (0, .error st)
    | .ok a =>
      match allOk (s.colB die t) (List.range t.n) with
      | .error st => (0, .error st)
      | .ok b =>
        let sigma := (tileChain (s.skink e) t).1
        if t.isInt then
          let r := attempts ((s.part t.part).policy == 1) a b t.n 33 sigma 0 (init.map s32)
          (r.1, match r.2 with
            | none => .error 0x0115
            | some q => match s.entriesTested 0 q.1 with | none => .error 0x0303 | some es => .ok (es.map u32, q.2))
        else if s.residueFails then (0, .error 0x0303)
        else (0, .ok ((List.range t.size).map (fun i => chainF t (a.getD (i / t.n) []) (b.getD (i % t.n) []) (init.getD i 0)), sigma))

/-- The overflow repeats of a tile count at its engine and in its job, whether or not the tile then faults (R178, R236). -/
def State.tileRepeats (s : State) (e : Nat) (t : Tile) (reps : Nat) : State :=
  if reps = 0 then s
  else ((s.updSkink e fun x => { x with rescales := satAdd 0xFFFF x.rescales reps }).count t.part cRepeats reps 0xFFFFFFFF).updJob t.part
    fun j => { j with rescaled := true }

/-- The region and the chain state of every block touched receive the tile's results (R225). -/
def Skink.take (x : Skink) (t : Tile) (vals : List Nat) (sigma count : Nat) : Skink :=
  { x with acc := ((List.range t.size).zip vals).foldl (fun m p => mset m 0 (t.base + p.1) (BitVec.ofNat 32 p.2)) x.acc,
           chainSigma := t.blocks.foldl (fun m b => mset m 0 b sigma) x.chainSigma,
           chainCount := t.blocks.foldl (fun m b => mset m 0 b count) x.chainCount }

/-- The regions of two tiles overlap. -/
def Tile.meets (t u : Tile) : Bool := decide (t.base < u.base + u.size ∧ u.base < t.base + t.size)

/-- An engine loads and streams a tile while the previous one drains, unless their regions overlap (R228). -/
def Skink.mayStart (x : Skink) (t : Tile) : Bool := decide (x.draining.length ≤ 1) && x.draining.all fun d => !d.tile.meets t

/-- The tile at the front of an engine's queue runs (R217, R225, R228); a region that ends within an uncorrectable codeword cannot be written (R432). -/
def skinkTileStep (e : Nat) (s : State) : State :=
  match (s.skink e).queue with
  | [] => s
  | t :: rest =>
    if !(s.skink e).mayStart t then s
    else if t.isEmpty then ((s.updSkink e fun x => { x with queue := rest }).tileDone e t 0 false).submitHeld t.part
    else
      match s.tileRecord e t with
      | .error st => s.skinkFail e t st
      | .ok rec =>
        let r := s.tileRun e t
        let s := s.tileRepeats e t r.1
        match (r.2, s.mem.badPart (skinkBase e + 4 * t.base) (4 * t.size)) with
        | (.error st, _) => s.skinkFail e t st
        | (.ok _, some st) => s.skinkFail e t st
        | (.ok (vals, sigma), none) =>
          let count := (tileChain (s.skink e) t).2
          let s := s.setMem { s.mem with bad := s.mem.bad.filter fun b => !codeInside b (skinkBase e + 4 * t.base) (4 * t.size) }
          let s := s.updSkink e fun x => { (x.take t vals sigma count) with queue := rest }
          let s := if !t.isInt && decide (65536 < count) then s.updJob t.part fun j => { j with longsum := true } else s
          if t.drain = 0 then (s.tileDone e t sigma true).submitHeld t.part
          else (s.updSkink e fun x => ({ x with draining := x.draining ++ [{ tile := t, sigma := sigma, record := rec }] } : Skink).settled).submitHeld t.part

def execSkinkTile (e : Nat) (h : Harm) (s : State) : Host.Outcome State Fault Refusal := act (skinkOk e) s (skinkTileStep e (s.suffer h))

/-- The bytes of output element i of a drain. -/
def State.drainBytes (s : State) (e : Nat) (d : SkinkDrain) (i : Nat) : Except Nat (List Byte) :=
  let t := d.tile
  let raw := (mget (s.skink e).acc 0 (t.base + i)).toNat
  match s.mem.badAt (skinkBase e + 4 * (t.base + i)) 4 with
  | some st => .error st
  | none =>
    if t.isInt && (s.computed i (s32 raw)).isNone then .error 0x0303
    else if t.drain = 1 then .ok (leBytes 4 (if t.isInt then u32 (s32 raw + s.errorAt i) else raw))
    else
      match s.chainElem (skinkDie e) (2 ^ 21 + 8 * i) d.sigma t (i / t.n) (i % t.n) (slotsOf d.record) (if t.isInt then .i (s32 raw + s.errorAt i) else .f raw) with
      | .error st => .error st
      | .ok v => .ok (chainOut (uAt d.record 1 1) v)

/-- Writes the outputs of a drain in ascending m, then n; what was written before a fault stays (R228, R374). -/
def State.drainElems (s : State) (e : Nat) (d : SkinkDrain) : List Nat → State × Option Nat
  | [] => (s, none)
  | i :: rest =>
    match s.drainBytes e d i with
    | .error st => (s, some st)
    | .ok bs =>
      match s.writeAt (skinkDie e) d.tile.core (d.tile.c.plus ((((i / d.tile.n : Nat) : Int) * d.tile.cRs + (i % d.tile.n : Nat)) * bs.length)) bs with
      | .error st => (s, some st)
      | .ok s => State.drainElems s e d rest

/-- The σ byte, where the tile asks for it (Table 7.4). -/
def State.drainSigma (s : State) (e : Nat) (d : SkinkDrain) : State × Option Nat :=
  if d.tile.sigw then
    match s.writeAt (skinkDie e) d.tile.core (d.tile.c.plus ((d.tile.sOff : Int) - d.tile.c.off)) [BitVec.ofNat 8 d.sigma] with
    | .error st => (s, some st)
    | .ok s => (s, none)
  else (s, none)

/-- Where output i of a drain goes, of `n` bytes. -/
def Tile.place (t : Tile) (i n : Nat) : Operand := t.c.plus ((((i / t.n : Nat) : Int) * t.cRs + (i % t.n : Nat)) * n)

/-- The bytes of an output of a drain. -/
def SkinkDrain.width (d : SkinkDrain) : Nat := if d.tile.drain = 1 then 4 else ofmtBytes (uAt d.record 1 1)

/-- Some output of a drain has no credit where it goes (R310). -/
def State.drainHeld (s : State) (e : Nat) (d : SkinkDrain) : Bool :=
  (List.range d.tile.size).any fun i => s.heldAt (skinkDie e) d.tile.part (d.tile.place i d.width) d.width

/-- The oldest drain is written, then the σ byte (R228); it waits while its destination has no credit (R310). -/
def skinkDrainStep (e : Nat) (s : State) : State :=
  match (s.skink e).draining with
  | [] => s
  | d :: rest =>
    if s.drainHeld e d then s else
    let r := s.drainElems e d (List.range d.tile.size)
    let r := if r.2.isNone then r.1.drainSigma e d else r
    match r.2 with
    | some st => r.1.skinkFail e d.tile st
    | none => ((r.1.updSkink e fun x => { x with draining := rest }).tileDone e d.tile d.sigma true).submitHeld d.tile.part

/-! ### Registers (R235, R236) -/

/-- The configuration that a commit took takes effect. -/
def Skink.commitConfig (x : Skink) : Skink :=
  match x.committed with
  | none => x
  | some g => { x with enable := g.1, part := g.2.1, logical := g.2.2, committed := none,
                       state := if g.1 then (if x.state = 7 then 0 else x.state) else 7 }

/-- The partition at whose boundary an engine's commit acts: its owner's, or, of an engine out of service, that which the commit names. -/
def Skink.awaits (x : Skink) : Nat := if x.enable then x.part else match x.committed with | some g => g.2.1 | none => x.part

/-- `SKINK_COMMIT`: the staged copy, as it stands at the commit, acts at the owning partition's next job boundary, or at the next tick when no job of
it runs (R14, R235). -/
def skinkCommitStep (e : Nat) (s : State) : State :=
  s.updSkink e fun x => { x with committed := some (x.stEnable, x.stPart, x.stLogical) }

/-- At a tick boundary the commits of engines whose partition runs no job act (R235). -/
def State.settleSkinks (s : State) : State :=
  { s with skinks := mmap s.skinks Skink.reset fun _ x => if s.jobState x.awaits ≤ 1 then x.commitConfig else x }

def execSkinkCommit (e : Nat) (s : State) : Host.Outcome State Fault Refusal := act (skinkOk e) s (skinkCommitStep e s)

/-- A read of `SKINK_TILES_LO` latches the high half. -/
def skinkTilesLoStep (e : Nat) (s : State) : State :=
  (s.updSkink e fun x => { x with tilesHi := x.tiles / 2 ^ 32 % 2 ^ 32 }).updHub fun h => { h with hubRead := (s.skink e).tiles % 2 ^ 32 }

def execSkinkTilesLo (e : Nat) (s : State) : Host.Outcome State Fault Refusal := act (skinkOk e) s (skinkTilesLoStep e s)

/-- `STATE` of `SKINK_STATUS`: out of service, clearing while the owner's job clears, faulted, or what the engine does; streaming and repeats lie
inside `SKINK_TILE` (Table 7.14). -/
def State.skinkState (s : State) (e : Nat) : Nat :=
  let x := s.skink e
  let clears := match (s.part x.part).job with | some j => j.state == 4 && !j.cleared | none => false
  if !x.enable then (if x.state = 7 then 7 else 0) else if clears then 5 else if x.state = 6 then 6 else x.phase

/-- A read of an engine's register block (Tables 7.13, 7.14); `SKINK_COMMIT` is write-only and reads 0, `SKINK_CONFIG` answers its staged copy (DESIGN
CHOICE, log entry 91). -/
def State.skinkReg (s : State) (e off : Nat) : Nat :=
  let x := s.skink e
  if off = 0x000 then e / 18 * 32 + e % 18
  else if off = 0x004 then bit x.stEnable * 2 ^ 31 + x.stPart % 16 * 2 ^ 27 + x.stLogical % 32 * 2 ^ 22
  else if off = 0x00C then s.skinkState e * 2 ^ 28 + x.queue.length % 32 * 2 ^ 23
  else if off = 0x010 then
    bit x.faultValid * 2 ^ 31 + x.faultDie % 16 * 2 ^ 27 + x.faultX % 16 * 2 ^ 23 + x.faultY % 16 * 2 ^ 19 + x.faultStatus % 65536
  else if off = 0x014 then x.sigma % 32 * 2 ^ 27 + x.rescales % 65536
  else if off = 0x018 then x.tiles % 2 ^ 32
  else if off = 0x01C then x.tilesHi
  else 0

end Sys2Proof.Machine
end

