-- ==== Sys2Proof/Machine/Placer.lean ====
section
/-! DEFINITION. The placer: full placements, moves after a failure, and what a new placement changes (R291 to R297, R437). -/

namespace Sys2Proof.Machine

/-! ### What the placer may use -/

/-- A core that is not retired. -/
def State.coreUsable (s : State) (c : Nat) : Bool := !s.spares.cores.contains c

/-- The usable cores of a physical row, in ascending column. -/
def State.rowCores (s : State) (d y : Nat) : List Nat := ((List.range 17).map fun x => d * 272 + y * 17 + x).filter s.coreUsable

/-- The core of lowest recorded ceiling, ties to the higher column. -/
def State.weakest (s : State) (cs : List Nat) : Option Nat :=
  cs.foldl (fun a c => match a with | none => some c | some b => if s.ceiling c ≤ s.ceiling b then some c else some b) none

/-- The kept cores of a row (R292): the surplus leaves at the highest columns, or, with `byCeiling`, at the lowest ceilings. -/
def State.keptRow (s : State) (byCeiling : Bool) (d y : Nat) : List Nat :=
  let cs := s.rowCores d y
  if cs.length ≤ 16 then cs
  else if byCeiling then (match s.weakest cs with | none => cs | some w => cs.filter fun c => c != w)
  else cs.take 16

/-- A die's ceiling: the lowest among its kept cores (R291). -/
def State.dieCeiling (s : State) (d : Nat) : Nat :=
  (List.range 16).foldl (fun a y => (s.keptRow true d y).foldl (fun a c => min a (s.ceiling c)) a) 7

/-- The usable macros that serve logical macros 0..15 of a core: its lowest sixteen. -/
def State.coreMap (s : State) (c : Nat) : List Nat := ((List.range 18).filter fun m => !s.spares.macros.contains (macKey c m)).take 16

/-! ### Logical dies (R291) -/

/-- `WORK` of a logical core; all equal with an empty profile. -/
def workOf (profile : List Byte) (key : Nat) : Nat := if profile = [] then 1 else leNat ((profile.drop (2 * key)).take 2)

/-- The load of a logical die. -/
def loadOf (profile : List Byte) (i : Nat) : Nat := ((List.range 256).map fun k => workOf profile (256 * i + k)).sum

/-- Inserts a logical die in the order of binding: descending load, then ascending index. -/
def insertByLoad (profile : List Byte) (i : Nat) : List Nat → List Nat
  | [] => [i]
  | j :: rest => if loadOf profile j < loadOf profile i then i :: j :: rest else j :: insertByLoad profile i rest

/-- The physical die of the highest ceiling, ties to the lower number. -/
def State.bestDie (s : State) (ds : List Nat) : Nat :=
  (ds.foldl (fun a d => match a with | none => some d | some b => if s.dieCeiling b < s.dieCeiling d then some d else some b) none).getD 0

/-- Binds logical dies, in order, to physical dies. -/
def State.bindDies (s : State) (order free bound : List Nat) : List Nat :=
  match order with
  | [] => bound
  | i :: rest => let d := s.bestDie free; s.bindDies rest (free.filter fun x => x != d) (bound.set i d)

/-- The physical die of each logical die of a partition. -/
def State.placeDies (s : State) (profile : List Byte) (ds : List Nat) : List Nat :=
  if ds.length ≤ 2 then ds
  else s.bindDies ((List.range ds.length).foldl (fun o i => insertByLoad profile i o) []) ds ds

/-! ### Logical cores (R291, R292) -/

/-- The logical x of a row that stay when only `n` cores are usable: those of lowest `WORK` go, ties to the higher x. -/
def rowKeeps (profile : List Byte) (base n : Nat) : List Nat :=
  (List.range 16).filter fun x =>
    decide (((List.range 16).filter fun u =>
      decide (workOf profile (base + x) < workOf profile (base + u)) || (workOf profile (base + u) == workOf profile (base + x) && decide (u < x))).length < n)

/-- One row of one logical die: logical keys with their cores. -/
def State.placeRow (s : State) (profile : List Byte) (byCeiling : Bool) (i d y : Nat) : List (Nat × Nat) :=
  let cs := s.keptRow byCeiling d y
  let base := 256 * i + 16 * y
  ((if cs.length < 16 then rowKeeps profile base cs.length else List.range 16).map (base + ·)).zip cs

/-- Mesh hops from the position (x, y) of a die to a core. -/
def hops (x y c : Nat) : Nat :=
  let cx := c % 17
  let cy := c % 272 / 17
  (if cx < x then x - cx else cx - x) + (if cy < y then y - cy else cy - y)

/-- The free usable core of a die nearest to (x, y), ties to the lower row, then the lower column. -/
def State.nearest (s : State) (taken : List Nat) (d x y : Nat) : Option Nat :=
  ((List.range 272).map (d * 272 + ·)).foldl (fun a c =>
    if !s.coreUsable c || taken.contains c then a
    else match a with | none => some c | some b => if hops x y c < hops x y b then some c else some b) none

/-- Dies in ascending number of links from a die, ties to the lower number. -/
def byDistance (d : Nat) (ds : List Nat) : List Nat :=
  (List.range 12).flatMap fun n => ds.filter fun e => e != d && (route d e).length == n

/-- A core for a logical core that its row cannot hold: on its own die, or on another of the partition (R292). -/
def State.refuge (s : State) (taken ds : List Nat) (d x y : Nat) : Option Nat :=
  (d :: byDistance d ds).findSome? fun e => s.nearest taken e x y

/-- Places the logical cores of a list of keys that their rows could not hold. -/
def State.placeRest (s : State) (dies : List Nat) (keys : List Nat) (m : Map Nat) : Map Nat :=
  keys.foldl (fun m k =>
    match s.refuge (m.map Prod.snd) dies.mergeSort (dies.getD (k / 256) 0) (k % 16) (k / 16 % 16) with
    | none => m
    | some c => mset m 4352 k c) m

/-- The physical core of each logical core. -/
def State.placeCores (s : State) (profile : List Byte) (dies : List Nat) : Map Nat :=
  let rows := ((List.range dies.length).zip dies).flatMap fun e =>
    (List.range 16).flatMap fun y => s.placeRow profile (decide (3 ≤ dies.length)) e.1 e.2 y
  let m := rows.foldl (fun m e => mset m 4352 e.1 e.2) []
  s.placeRest dies ((List.range (256 * dies.length)).filter fun k => !mhas m k) m

/-! ### Logical Skink engines (R291, R293) -/

/-- Engines in service of partitions other than `p`. -/
def State.takenSkinks (s : State) (p : Nat) : List Nat :=
  (List.range 16).flatMap fun r => if r = p then [] else (s.part r).placement.skinks.map Prod.snd

/-- The lowest engine of an engine die that is usable and free. -/
def State.freeSkink (s : State) (taken : List Nat) (e : Nat) : Option Nat :=
  ((List.range 18).map (18 * e + ·)).find? fun k => !s.spares.skinks.contains k && !taken.contains k

/-- Binds logical engines in ascending order: on the home die while the partition's count there lasts, else on the other, and, where the other has
no free engine either, on the home die beyond the count. -/
def State.placeSkinks (s : State) (p : Nat) (profile : List Byte) : Map Nat :=
  let n (e : Nat) : Nat := s.dval 0x2000 p (3 + e) 0
  let mask := if profile = [] then 0 else leNat (profile.drop (profile.length - 4))
  let taken := s.takenSkinks p
  (List.range (n 0 + n 1)).foldl (fun m i =>
    let home := if mask.testBit i then 1 else 0
    let free (e : Nat) : Option Nat := s.freeSkink (taken ++ m.map Prod.snd) e
    let first := if n home ≤ (m.filter fun x => x.2 / 18 == home).length then none else free home
    match first <|> free (1 - home) <|> free home with
    | some k => mset m 36 i k
    | none => m) []

/-- A full placement of a partition (R291). -/
def State.fullPlacement (s : State) (p : Nat) (profile : List Byte) : Placement :=
  let dies := s.placeDies profile (s.partDies p)
  let cores := s.placeCores profile dies
  { dies := dies, cores := cores, maps := cores.foldl (fun m e => mset m [] e.2 (s.coreMap e.2)) [], skinks := s.placeSkinks p profile }

/-! ### What a placement swap changes (R294, R295) -/

/-- The physical macro of a logical macro, numbered 16 × logical key + logical macro; none where its core is not placed. -/
def Placement.macroAt (pl : Placement) (lm : Nat) : Option Nat :=
  let c := pl.core (lm / 16)
  if c < 4352 then ((mget pl.maps [] c).getD (lm % 16) 18 |> fun m => if m < 18 then some (macKey c m) else none) else none

/-- A logical macro's code in the reload list (Table 9.7): key `DIE_LOG` y x becomes `DIE_LOG` x y. -/
def reloadCode (lm : Nat) : Nat := lm / 4096 % 16 * 4096 + lm / 16 % 16 * 256 + lm / 256 % 16 * 16 + lm % 16

/-- A macro erased whole (R111): no page valid, no shadow, zeros in all 64 pages, whose rows count as restored (R61). -/
def Macro.eraseAll (m : Macro) : Macro :=
  { m with pages := (List.range 64).map fun i => (i, (m.page i).wiped), shadow := [], noRestore := [] }

/-- Erases the macros of a list, those that hold anything. -/
def State.eraseMacros (s : State) (ks : List Nat) : State := ks.foldl (fun s k => if mhas s.macros k then s.updMac k Macro.eraseAll else s) s

/-- Logical macros that a new placement moves: each was placed and now stands elsewhere. -/
def movedMacros (old new : Placement) : List Nat :=
  old.cores.flatMap fun e => ((List.range 16).map (16 * e.1 + ·)).filter fun lm => old.macroAt lm != new.macroAt lm

/-- The coordinates that a placement gives a core (R22, R33). -/
def State.seatCores (s : State) (p : Nat) (pl : Placement) : State :=
  pl.cores.foldl (fun s e => s.updCore e.2 fun k => { k with part := some p, dieLog := e.1 / 256, x := e.1 % 16, y := e.1 / 16 % 16 }) s

/-- Cores of a partition lose their places. -/
def State.unseatCores (s : State) (p : Nat) : State :=
  s.cores.foldl (fun s e => if e.2.part = some p then s.updCore e.1 fun k => { k with part := none, dieLog := 0, x := 0, y := 0 } else s) s

/-- An engine takes a configuration that the hub writes and commits for the placer. -/
def Skink.seat (x : Skink) (enable : Bool) (part logical : Nat) : Skink :=
  { x with stEnable := enable, stPart := part, stLogical := logical, committed := some (enable, part, logical) }.commitConfig

/-- The hub configures the partition's engines as the placement binds them (R235, R293). -/
def State.seatSkinks (s : State) (p : Nat) (pl : Placement) : State :=
  let s := s.skinks.foldl (fun s e => if e.2.enable ∧ e.2.part = p then s.updSkink e.1 fun x => x.seat false 0 0 else s) s
  pl.skinks.foldl (fun s e => s.updSkink e.2 fun x => x.seat true p e.1) s

/-- Pages of a window after its die or core has moved: its die's store, or its core's scratchpads, at the same offsets. -/
def Window.rebase (w : Window) (old new : Placement) : Window :=
  let d := w.unit / 4096 % 16
  let key := logicalKey d (w.unit / 256 % 16) (w.unit / 16 % 16)
  if !w.isOpen then w
  else if w.target = 5 ∧ d < old.dies.length ∧ d < new.dies.length then
    { w with pages := w.pages.map fun a => a - storeBase (old.dies.getD d 0) + storeBase (new.dies.getD d 0) }
  else if w.target = 6 ∧ new.core key < 4352 then
    { w with pages := (List.range w.pages.length).map fun i => coreBase (new.core key) + i * 2 ^ 16 }
  else w

/-- A placement takes effect: the moved logical macros start empty, and so do the macros they leave, they enter the reload list, windows follow their
units, and the version is traced (R294, R295, R475). -/
def State.swapPlacement (s : State) (p : Nat) (pl : Placement) (version : Nat) : State :=
  let old := (s.part p).placement
  let moved := if old.cores = [] then [] else movedMacros old pl
  let s := s.eraseMacros (moved.filterMap old.macroAt ++ moved.filterMap pl.macroAt)
  let s := ((s.unseatCores p).seatCores p pl).seatSkinks p pl
  let rebase (ws : Map Window) : Map Window := ws.map fun (e : Nat × Window) => (e.1, e.2.rebase old pl)
  ((s.updPart p fun q =>
    { q with placement := pl, version := version, waiting := none,
             windows := if old.cores = [] then q.windows else rebase q.windows,
             newWindows := if old.cores = [] then q.newWindows else q.newWindows.map rebase,
             reload := q.reload ++ (moved.map reloadCode).filter fun c => !q.reload.contains c }).settleTrims p).trace p 5 (leBytes 4 version)

/-! ### Moves after a failure (R293, R437, R438) -/

/-- The partition that a core is placed in. -/
def State.seat (s : State) (c : Nat) : Option (Nat × Nat) :=
  (List.range 16).findSome? fun p => ((s.part p).placement.cores.find? fun e => e.2 == c).map fun e => (p, e.1)

/-- A failed core's logical core goes to its row's left-out core, or under the last part of R292. -/
def State.moveCore (s : State) (p key c : Nat) (pl : Placement) : Placement :=
  let taken := pl.cores.map Prod.snd
  let cores := mset pl.cores 4352 key 4352
  let home := (s.rowCores (c / 272) (c % 272 / 17)).find? fun k => !taken.contains k
  let to_ := match home with
    | some k => some k
    | none => s.refuge taken (s.partDies p) (pl.dies.getD (key / 256) 0) (key % 16) (key / 16 % 16)
  match to_ with
  | none => { pl with cores := cores, maps := mset pl.maps [] c [] }
  | some k => { pl with cores := mset cores 4352 key k, maps := mset (mset pl.maps [] c []) [] k (s.coreMap k) }

/-- A failed macro's logical macro goes to a spare macro of the same core. -/
def State.moveMacro (s : State) (k : Nat) (pl : Placement) : Placement :=
  let c := macCore k
  let mp := mget pl.maps [] c
  match (List.range 18).find? fun m => !mp.contains m && !s.spares.macros.contains (macKey c m) with
  | none => pl
  | some m => { pl with maps := mset pl.maps [] c (mp.map fun x => if x = k % 18 then m else x) }

/-- A failed engine's logical engine goes to a spare of the same die, then of the other. -/
def State.moveSkink (s : State) (p e : Nat) (pl : Placement) : Placement :=
  match pl.skinks.find? fun x => x.2 == e with
  | none => pl
  | some x =>
    let taken := s.takenSkinks p ++ pl.skinks.map Prod.snd
    match s.freeSkink taken (e / 18) with
    | some k => { pl with skinks := mset pl.skinks 36 x.1 k }
    | none => match s.freeSkink taken (1 - e / 18) with
      | some k => { pl with skinks := mset pl.skinks 36 x.1 k }
      | none => { pl with skinks := mset pl.skinks 36 x.1 36 }

/-- What a retirement means for the device as a whole: replace-me where the die has no spare left (R28, R389). -/
def State.capacityLost (s : State) : Bool :=
  (List.range 16).any (fun d => decide (16 < (s.spares.cores.filter fun c => c / 272 == d).length)) ||
    [0, 1].any fun e => decide (2 < (s.spares.skinks.filter fun k => k / 18 == e).length)

/-- The lane decisions of a macro that is retired, itself or with its core, are discarded (R438). -/
def Macro.discardLanes (m : Macro) : Macro :=
  { m with staged := { m.staged with lanes := (m.committed.getD m.cfg).lanes }, rebuild := [], rebuildHold := false }

/-- A macro leaves service: what it still had to commit acts first, then `ENABLE` 0 (R58, R67, R69, R438). -/
def Macro.retire (m : Macro) : Macro :=
  let m := m.discardLanes.applyCommit
  { m with cfg := { m.cfg with enable := false }, mapReject := false, retired := true, staged := { m.staged with enable := false } }

/-- The spare-map version that retires the units waiting for the boundary of partition `p`, or, with none, of dies that no job uses: engines,
cores, then macros, the larger unit first (R438); `ENABLE` of a retired macro becomes 0 (R67). -/
def State.retire (s : State) (cores macros skinks : List Nat) : State :=
  let s := { s with macros := mmap s.macros Macro.reset fun k m => if cores.contains (macCore k) then m.discardLanes else m }
  ((macros.filter fun k => !cores.contains (macCore k)).foldl (fun s k => s.updMac k Macro.retire) s).updSpares fun x =>
    { x with cores := x.cores ++ cores, macros := x.macros ++ macros.filter (fun k => !cores.contains (macCore k)), skinks := x.skinks ++ skinks,
             pendingCores := x.pendingCores.filter (fun c => !cores.contains c), pendingMacros := x.pendingMacros.filter (fun k => !macros.contains k),
             pendingSkinks := x.pendingSkinks.filter fun e => !skinks.contains e }

/-- The placement of a partition after units of it have been retired. -/
def State.movedPlacement (s : State) (p : Nat) (cores macros skinks : List Nat) (pl : Placement) : Placement :=
  let pl := cores.foldl (fun pl c => match pl.cores.find? fun e => e.2 == c with | none => pl | some e => s.moveCore p e.1 c pl) pl
  let pl := macros.foldl (fun pl k => if (mget pl.maps [] (macCore k)).contains (k % 18) then s.moveMacro k pl else pl) pl
  skinks.foldl (fun pl e => s.moveSkink p e pl) pl

/-- The pending retirements that belong to a partition. -/
def State.pendingOf (s : State) (p : Nat) : List Nat × List Nat × List Nat :=
  let pl := (s.part p).placement
  (s.spares.pendingCores.filter fun c => (s.partDies p).contains (c / 272),
   s.spares.pendingMacros.filter fun k => (s.partDies p).contains (macCore k / 272),
   s.spares.pendingSkinks.filter fun e => pl.skinks.any fun x => x.2 == e)

/-- A placement changed by spares takes effect as a new version; a version still building follows it with a number of its own. -/
def State.swapSpares (s : State) (p : Nat) (pl : Placement) (waiting : Option Placement) : State :=
  let n := (s.part p).nextVersion
  (s.swapPlacement p pl (n + 1)).updPart p fun q => { q with waiting := waiting, nextVersion := n + 1 + bit waiting.isSome }

/-- Pending spares of a partition take effect at its boundary: the units are retired and their logical identities move (R29, R293, R437), in the
placement in force, which then is a new version, and in a version built and waiting. Where that version is ready, it takes the spares to the same
boundary, whose one swap follows. Answers the state and whether a core or a macro was replaced. -/
def State.takeSpares (s : State) (p : Nat) : State × Bool :=
  let u := s.pendingOf p
  if u.1.isEmpty && u.2.1.isEmpty && u.2.2.isEmpty then (s, false)
  else
    let r := s.retire u.1 u.2.1 u.2.2
    let q := s.part p
    let move := r.movedPlacement p u.1 u.2.1 u.2.2
    let pl := move q.placement
    let waiting := q.waiting.map move
    let r := if waiting.isSome && !q.building.contains 0x2100 then r.updPart p fun q => { q with waiting := waiting }
      else if pl = q.placement then r.updPart p fun q => { q with waiting := waiting }
      else r.swapSpares p pl waiting
    let r := if r.capacityLost then r.replaceMe else r
    (r.spareAlarm s, !(movedMacros q.placement pl).isEmpty)

/-- Pending spares of units that no partition holds take effect at the next tick. -/
def State.retireFree (s : State) : State :=
  let cs := s.spares.pendingCores.filter fun c => (s.dieOwner (c / 272)).isNone
  let ms := s.spares.pendingMacros.filter fun k => (s.dieOwner (macCore k / 272)).isNone
  let es := s.spares.pendingSkinks.filter fun e => !(List.range 16).any fun p => (s.part p).placement.skinks.any fun x => x.2 == e
  if cs.isEmpty && ms.isEmpty && es.isEmpty then s
  else
    let r := s.retire cs ms es
    (if r.capacityLost then r.replaceMe else r).spareAlarm s

/-- The spares of every partition without a job in hand, and of free units, take effect with the tick (R437). -/
def State.settleSpares (s : State) : State :=
  ((List.range 16).foldl (fun s p => if s.exists_ p && (s.part p).job.isNone then (s.takeSpares p).1 else s) s).retireFree

end Sys2Proof.Machine
end

