-- ==== Sys2Proof/Machine/Windows.lean ====
section
/-! DEFINITION. The window block: checks, pages, credit reservations, and the swap to a new version (R310, R313 to R318, R434). -/

namespace Sys2Proof.Machine

/-! ### Windows that hold pages -/

/-- The newest windows of a partition. -/
def Partition.latest (q : Partition) : Map Window := q.newWindows.getD q.windows

/-- Extents of a window's pages. -/
def Window.extents (w : Window) : List (Nat × Nat) := if w.isOpen then w.pages.map fun a => (a, pageSize w.psz) else []

/-- Extents that a new version of partition `p` must leave alone: its own newest windows but `w`, and both versions of every other partition. -/
def State.takenPages (s : State) (p w : Nat) : List (Nat × Nat) :=
  s.parts.flatMap fun e =>
    if e.1 = p then (e.2.latest.filter fun x => x.1 != w).flatMap fun x => x.2.extents
    else (e.2.windows ++ e.2.newWindows.getD []).flatMap fun x => x.2.extents

/-- Ranges that a start-up withheld (R433, R434). -/
def State.withheld (s : State) : List (Nat × Nat) :=
  (s.spares.plazaHeld.map fun r => (plazaBase (r / 64) + r % 64 * 2 ^ 23, 2 ^ 23)) ++
    s.spares.storeHeld.map fun r => (storeBase (r / 16) + r % 16 * 2 ^ 22, 2 ^ 22)

/-- The memory an extent draws on: 0, 1 the towers of an engine die; 2, 3 its plaza; 4 + d the store of array die d; 20 scratchpads. -/
def memoryKind (a : Nat) : Nat :=
  if a < 2 ^ 40 then towerOf a / 4 else if a < 2 ^ 41 then 2 + (a - 2 ^ 40) / 2 ^ 30 else if a < 2 ^ 42 then 4 + (a - 2 ^ 41) / 2 ^ 26 else 20

/-- A partition's share of a memory, in bytes (R369). -/
def State.shareOf (s : State) (p kind : Nat) : Nat :=
  if kind < 2 then s.dval 0x2000 p (7 + kind) 0 * 2 ^ 30 else if kind < 4 then s.dval 0x2000 p (3 + kind) 0 * 2 ^ 20 else 2 ^ 26

/-- Bytes of a memory that a list of windows draws. -/
def bytesDrawn (ws : Map Window) (kind : Nat) : Nat :=
  (ws.flatMap fun x => (x.2.extents.filter fun e => memoryKind e.1 == kind).map Prod.snd).sum

/-! ### Allocation (R314) -/

/-- A memory region from which pages are taken in turn: its start, its length, the next page to try, and the share it counts on. -/
structure Region where
  base : Nat
  length : Nat
  next : Nat
  kind : Nat
deriving DecidableEq, Repr

/-- Two extents overlap. -/
def overlaps (a n b m : Nat) : Bool := decide (a < b + m ∧ b < a + n)

/-- The next free page of a region. -/
def Region.take (r : Region) (taken : List (Nat × Nat)) (ps : Nat) : Nat → Option (Nat × Region)
  | 0 => none
  | fuel + 1 =>
    let a := r.base + r.next * ps
    if r.base + r.length < a + ps then none
    else if taken.any fun e => overlaps a ps e.1 e.2 then { r with next := r.next + 1 }.take taken ps fuel
    else some (a, { r with next := r.next + 1 })

/-- `n` pages round robin over regions; a region that has no page left, or whose share is spent, leaves the round. `left` holds what each
share still allows. -/
def takePages (taken : List (Nat × Nat)) (ps : Nat) : Nat → Nat → Map Nat → List Region → Option (List Nat)
  | 0, n, _, _ => if n = 0 then some [] else none
  | _, 0, _, _ => some []
  | _, _, _, [] => none
  | fuel + 1, n + 1, left, r :: rest =>
    if mget left 0 r.kind < ps then takePages taken ps fuel (n + 1) left rest
    else
      match r.take taken ps (r.length / ps + 1) with
      | none => takePages taken ps fuel (n + 1) left rest
      | some (a, r') =>
        match takePages taken ps fuel n (mset left 0 r.kind (mget left 0 r.kind - ps)) (rest ++ [r']) with
        | none => none
        | some as => some (a :: as)

/-- A tower as a region. -/
def State.towerRegion (s : State) (t : Nat) : Region := { base := towerBase t, length := (s.tower t).channels * 3 * 2 ^ 30, next := 0, kind := t / 4 }

/-- The regions that a window's pages come from (Table 10.7). -/
def State.regions (s : State) (p target unit : Nat) : List Region :=
  let towers (e : Nat) : List Region := if s.shareOf p e = 0 then [] else ((List.range 4).map (4 * e + ·)).map s.towerRegion
  if target = 0 then towers 0 ++ towers 1
  else if target ≤ 2 then towers (target - 1)
  else if target ≤ 4 then [{ base := plazaBase (target - 3), length := 2 ^ 29, next := 0, kind := target - 1 }]
  else
    let d := (s.part p).placement.dies.getD (unit / 4096) 0
    [{ base := storeBase d, length := 2 ^ 26, next := 0, kind := 4 + d }]

/-- The pages of a new window; none where the partition's share, or the memory, is exhausted (0x0405). -/
def State.allocate (s : State) (p w : Nat) (new : Window) : Option (List Nat) :=
  let ps := pageSize new.psz
  let n := new.size / ps
  if new.target = 6 then
    some ((List.range n).map fun i => coreBase ((s.part p).placement.core (logicalKey (new.unit / 4096) (new.unit / 256 % 16) (new.unit / 16 % 16))) + i * 2 ^ 16)
  else
    let mine := (s.part p).latest.filter fun x => x.1 != w
    let rs := s.regions p new.target new.unit
    let left := rs.foldl (fun m r => mset m 0 r.kind (s.shareOf p r.kind - bytesDrawn mine r.kind)) []
    takePages (s.takenPages p w ++ s.withheld) ps (n + rs.length) n left rs

/-! ### Credits (R310) -/

/-- The endpoint that holds an address: a tower, a plaza (8, 9), a die store (16 + d), a core's scratchpads (64 + c). -/
def endpointOf (a : Nat) : Nat :=
  if a < 2 ^ 40 then towerOf a else if a < 2 ^ 41 then 8 + (a - 2 ^ 40) / 2 ^ 30 else if a < 2 ^ 42 then 16 + (a - 2 ^ 41) / 2 ^ 26
  else 64 + (a - 2 ^ 42) / 2 ^ 20

/-- Beats that an endpoint's buffer reserves for windows (Table 10.4). -/
def endpointRoom (e : Nat) : Nat := if e < 8 then 4096 else if e < 16 then 8192 else if e < 64 then 3072 else 64

/-- The engine die that owns an endpoint; 20 for an array die's. -/
def endpointDie (e : Nat) : Nat := if e < 8 then 16 + e / 4 else if e < 16 then 16 + (e - 8) else 20

/-- Source dies that reserve credits for a window at an endpoint. -/
def State.sources (s : State) (p : Nat) (w : Window) (e : Nat) : Nat :=
  let engines := [0, 1].filter fun d => 16 + d != endpointDie e && [3, 5, 7].any fun k => s.dval 0x2000 p (k + d) 0 != 0
  (if w.rights.testBit rWR || w.rights.testBit rATOM then (s.partDies p).length + engines.length else 0) + bit (w.rights.testBit rHWR)

/-- Endpoints of a window's pages. -/
def Window.endpoints (w : Window) : List Nat := (w.extents.map fun x => endpointOf x.1).eraseDups

/-- Beats that the newest windows of every partition but window `w` of `p` reserve at an endpoint. -/
def State.reserved (s : State) (p w e : Nat) : Nat :=
  (s.parts.flatMap fun x => x.2.latest.map fun y =>
    if (x.1 = p ∧ y.1 = w) ∨ !y.2.endpoints.contains e then 0 else y.2.credits * s.sources x.1 y.2 e).sum

/-- The reservations of a new window do not fit (0x0407). -/
def State.noCredits (s : State) (p w : Nat) (new : Window) : Bool :=
  new.endpoints.any fun e => decide (endpointRoom e < s.reserved p w e + new.credits * s.sources p new e)

/-! ### Commits (R314) -/

/-- The window that a staged copy describes, without its pages. -/
def stagedWindow (v : Nat → Nat) : Window :=
  { isOpen := true, target := v 3, unit := v 4, size := v 5, psz := v 6, rights := v 7, crossing := v 8, credits := v 9, pages := [] }

/-- 0x0408. -/
def Window.badField (w : Window) : Bool :=
  decide (7 ≤ w.target ∨ 3 ≤ w.psz ∨ 32 ≤ w.rights ∨ 64 ≤ w.crossing ∨ w.crossing % 4 = 3 ∨ w.crossing / 4 % 4 = 3 ∨ (w.target = 6 ∧ w.psz ≠ 0) ∨
    w.credits = 0 ∨ 4096 < w.credits)

/-- 0x0404. -/
def State.badUnit (s : State) (p : Nat) (w : Window) : Bool :=
  let pl := (s.part p).placement
  let d := w.unit / 4096
  w.size == 0 || w.size % pageSize w.psz != 0 ||
    (if w.target < 5 then w.unit != 0
     else if w.target = 5 then w.unit % 4096 != 0 || decide (pl.dies.length ≤ d) || decide (2 ^ 26 < w.size)
     else w.unit % 16 != 0 || decide (4352 ≤ pl.core (logicalKey d (w.unit / 256 % 16) (w.unit / 16 % 16))) || decide (0x70000 < w.size))

/-- An enabled ring of the partition names the window (0x0409). -/
def State.ringNames (s : State) (p w : Nat) : Bool := s.rings.any fun e => e.2.part == p && e.2.size != 0 && e.2.rwin == w

/-- Page entries of the newest version, device-wide, without window `w` of `p` (R317). -/
def State.entriesUsed (s : State) (p w : Nat) : Nat :=
  (s.parts.flatMap fun x => x.2.latest.map fun y => if x.1 = p ∧ y.1 = w then 0 else y.2.pages.length).sum

/-- Puts a window into the partition's next version, which then builds. -/
def State.buildWindow (s : State) (p w : Nat) (new : Window) : State :=
  s.updPart p fun q =>
    { q with newWindows := some (mset q.latest Window.reset w new),
             building := if q.building.contains 0x8400 then q.building else q.building ++ [0x8400] }

/-- A commit of 0x8400: refused with the first status that applies, or the next version. -/
def State.commitWindow (s : State) (p : Nat) (v : Nat → Nat) : Except Nat State :=
  let w := v 1
  let new := stagedWindow v
  if 3 ≤ v 2 then .error 0x0104
  else if v 2 = 0 then .ok s
  else if v 2 = 2 then (if s.ringNames p w then .error 0x0409 else .ok (s.buildWindow p w Window.reset))
  else if new.badField then .error 0x0408
  else if s.badUnit p new then .error 0x0404
  else if s.ringNames p w then .error 0x0409
  else match s.allocate p w new with
    | none => .error 0x0405
    | some pages =>
      let full := { new with pages := pages }
      if 262144 < s.entriesUsed p w + pages.length then .error 0x0406
      else if s.noCredits p w full then .error 0x0407
      else .ok (s.buildWindow p w full)

/-! ### The swap (R295, R314, R315) -/

/-- Zeroes extents. -/
def State.zeroExtents (s : State) (ext : List (Nat × Nat)) : State := s.setMem (ext.foldl (fun m e => m.clear e.1 e.2) s.mem)

/-- The page entries of the windows that change are written anew in every die's translation memory (R317, R432). -/
def State.newEntries (s : State) (p : Nat) (new : Map Window) : State :=
  let old (b : Nat) : Bool := !transWord b || decide ((b - transBase) / 2 ^ 29 % 16 ≠ p) ||
    mget new Window.reset ((b - transBase) / 2 ^ 21 % 256) == mget (s.part p).windows Window.reset ((b - transBase) / 2 ^ 21 % 256)
  s.setMem { s.mem with bad := s.mem.bad.filter old }

/-- A new window version takes effect: the pages released are zeroed, and windows that changed start with no credit in use. -/
def State.swapWindows (s : State) (p : Nat) : State :=
  match (s.part p).newWindows with
  | none => s
  | some new =>
    let changed := (s.part p).windows.filter fun x => mget new Window.reset x.1 != x.2
    ((s.zeroExtents (changed.flatMap fun x => x.2.extents)).newEntries p new).updPart p fun q =>
      { q with windows := new, newWindows := none,
               credits := mdrop q.credits fun k => mget new Window.reset (k / 256) != mget q.windows Window.reset (k / 256) }

/-- What has been built takes effect in one tick (R295); a version still building waits for its end. -/
def State.swapVersions (s : State) (p : Nat) : State :=
  let building := (s.part p).building
  let s := match (s.part p).waiting with
    | none => s
    | some pl => if building.contains 0x2100 then s else s.swapPlacement p pl (s.part p).nextVersion
  if building.contains 0x8400 then s else s.swapWindows p

end Sys2Proof.Machine
end

