-- ==== Sys2Proof/Machine/Clear.lean ====
section
/-! DEFINITION. What is cleared at a job's start, after a fault, when a die changes hands and when it wakes (R149, R226, R376, R492, Table 4.21). -/

namespace Sys2Proof.Machine

/-- Accumulators, drain buffer, input registers and queue of a macro are cleared. -/
def Macro.clearWork (m : Macro) : Macro :=
  { m with acc := [], entry := [], sigma := 0, queue := [], accepted := false, run := none, drainBuf := none, order := 0 }

/-- Scalar registers, token counters, `CORE_PSUM_BUSY`, `CORE_CONFLICT_STAT`, unit queues and fetch buffer of a core are cleared; it idles. -/
def Core.clearWork (k : Core) : Core :=
  { k with inJob := false, state := 0, pc := 0, segStart := 0, segCount := 0, regs := [], tokens := [], busy := [], ran := false, ended := false,
           dmaQ := [], memQ := [], haloTx := [], haloRx := [], sktQ := [], sktOut := 0, swps := [] }

/-- The clear of a core after a fault, or when its die changes hands: its handles, lengths and macro map become invalid too. -/
def Core.clearAll (k : Core) : Core := { k.clearWork with cfg := CoreConfig.reset }

/-- Clears the cores of an array die with their macros' work: `wake` keeps the handle tables, as a die that wakes does. -/
def State.clearCores (s : State) (d : Nat) (wake : Bool) : State :=
  { s with cores := mmap s.cores Core.reset fun c k => if coreDie c = d then (if wake then k.clearWork else k.clearAll) else k,
           macros := mmap s.macros Macro.reset fun k m => if macCore k / 272 = d then m.clearWork else m,
           mem := s.mem.clear (coreBase (272 * d)) (272 * 2 ^ 20) }

/-- Zeros over a die store. -/
def State.clearStore (s : State) (d : Nat) : State := s.setMem (s.mem.clear (storeBase d) (2 ^ 26))

/-- Clears an array die: cores and store. -/
def State.clearDie (s : State) (d : Nat) (wake : Bool) : State := (s.clearCores d wake).clearStore d

/-- An engine's accumulator memory and chain states are cleared, and it abandons its tiles (R226). -/
def Skink.clear (x : Skink) : Skink :=
  { x with acc := [], chainSigma := [], chainCount := [], queue := [], draining := [], state := if x.enable then 0 else 7 }

/-- The clear of an engine: its accumulator memory holds zeros with valid check bits (R226). -/
def State.clearSkink (s : State) (e : Nat) : State := (s.updSkink e Skink.clear).setMem (s.mem.clear (skinkBase e) (2 ^ 18))

/-- Clears the engines that serve a partition. -/
def State.clearSkinks (s : State) (p : Nat) : State :=
  ((s.skinks.filter fun e => e.2.enable && e.2.part == p).map Prod.fst).foldl State.clearSkink s

/-- Extents of the partition's plaza pages. -/
def State.plazaPages (s : State) (p : Nat) : List (Nat × Nat) :=
  (s.part p).windows.flatMap fun x => x.2.extents.filter fun e => decide (2 ^ 40 ≤ e.1 ∧ e.1 < 2 ^ 41)

/-- The bytes that the job's present run wrote to package DRAM are of undetermined content (R374): free. -/
def State.forget (s : State) (ranges : List (Nat × Nat)) : State :=
  ranges.foldl (fun s e => let b := s.freeBytes e.2; b.2.setMem (b.2.mem.write e.1 b.1)) s

/-- Open page operations of a macro are undone and recorded (R81, R113): the page named, the status of the job, a coordinate that the spec does
not give. With several open, `MAC_LOAD_REJECT` names the first of those at work, then of those between segments (DESIGN CHOICE, log entry 92). -/
def State.abortMacro (s : State) (k status : Nat) : State :=
  let m := s.mac k
  match m.allOps with
  | [] => s.updMac k fun m => { m with armed := false }
  | o :: _ =>
    let w := s.freeWord
    w.2.updMac k fun m => { (m.abortOps.reject o.page (w.1.toNat % 512) (w.1.toNat / 512 % 256) status) with armed := false }

/-- Every macro of the partition's placed cores undoes what is open and disarms its swap (R92, R150). -/
def State.abortMacros (s : State) (p status : Nat) : State :=
  s.macros.foldl (fun s e => if (s.core (macCore e.1)).part = some p then s.abortMacro e.1 status else s) s

end Sys2Proof.Machine
end

