-- ==== Sys2Proof/Machine/Partitions.lean ====
section
/-! DEFINITION. Creating, changing and removing partitions; dies and their owners; erasure (R365, R369 to R372, R384, R385, R492). -/

namespace Sys2Proof.Machine

/-! ### Checks (R365) -/

/-- Ranges of Table 12.4. -/
def badPartition (v : Nat → Nat) : Bool :=
  decide (16 < v 3 ∨ 16 < v 4 ∨ 512 < v 5 ∨ 512 < v 6 ∨ 192 < v 7 ∨ 192 < v 8 ∨ 15 < v 9 ∨ 3 ≤ v 0xA)

/-- The sum of an entry of 0x2000 over the partitions other than `p` that exist. -/
def State.othersHold (s : State) (p sub : Nat) : Nat := ((s.partsHere.filter fun r => r != p).map fun r => s.dval 0x2000 r sub 0).sum

/-- What the device has of a share: engines, plaza MiB, DRAM GiB of an engine die (R369, R434). -/
def State.capacity (s : State) (sub : Nat) : Nat :=
  if sub ≤ 4 then 16
  else if sub ≤ 6 then 512 - 8 * (s.spares.plazaHeld.filter fun r => r / 64 == sub - 5).length
  else ((List.range 4).map fun t => 3 * (s.tower (4 * (sub - 7) + t)).channels).sum

/-- 0x070A. -/
def State.taken (s : State) (p : Nat) (v : Nat → Nat) : Bool :=
  ((List.range 16).any fun d => (v 1).testBit d && (match s.holder d with | none => false | some r => r != p)) ||
    [3, 4, 5, 6, 7, 8].any fun k => decide (s.capacity k < s.othersHold p k + v k)

/-- 0x070B: a job is in hand, or a descriptor waits. -/
def State.partBusy (s : State) (p : Nat) : Bool :=
  (s.part p).job.isSome || (s.ringsOf p).any fun e => e.2.size != 0 && e.2.waiting != 0

/-! ### Windows and rings that a commit closes (R372, Table 13.1) -/

/-- Disables the rings of a partition that a test picks; a removal takes their `PART` too. -/
def State.disableRings (s : State) (p : Nat) (f : Ring → Bool) (release : Bool) : State :=
  { s with rings := mmap s.rings Ring.reset fun _ r => if r.part = p ∧ f r then { r with size := 0, part := if release then 255 else p } else r }

/-- Closes windows of a partition: their pages are zeroed, the rings that name them disabled. -/
def State.closeWindows (s : State) (p : Nat) (ws : List Nat) : State :=
  let old := (s.part p).windows.filter fun x => ws.contains x.1
  let s := (s.zeroExtents (old.flatMap fun x => x.2.extents)).updPart p fun q =>
    { q with windows := mdrop q.windows ws.contains, newWindows := q.newWindows.map fun m => mdrop m ws.contains,
             credits := mdrop q.credits fun k => ws.contains (k / 256) }
  s.disableRings p (fun r => ws.contains r.rwin) false

/-- The windows of a partition, in force and in the version that waits or builds. -/
def Partition.allWindows (q : Partition) : Map Window := q.windows ++ q.newWindows.getD []

/-- Windows with a page on one of the dies. -/
def Partition.windowsOn (q : Partition) (ds : List Nat) : List Nat :=
  (q.allWindows.filter fun x => x.2.extents.any fun e => decide (2 ^ 41 ≤ e.1) && ds.contains (dieOfAddr e.1)).map Prod.fst

/-- The windows to close, in descending number, until those that draw on a share fit in `room` (R372). -/
def overShare (kind room : Nat) (ws : Map Window) : List Nat → List Nat
  | [] => []
  | w :: rest =>
    if bytesDrawn ws kind ≤ room then []
    else if ((mget ws Window.reset w).extents.any fun e => memoryKind e.1 == kind) then w :: overShare kind room (mdrop ws fun k => k == w) rest
    else overShare kind room ws rest

/-- The windows beyond the partition's shares. -/
def State.beyondShares (s : State) (p : Nat) : List Nat :=
  let ws := (s.part p).latest
  [0, 1, 2, 3].flatMap fun k => overShare k (s.shareOf p k) ws (ws.map Prod.fst).reverse

/-! ### Dies and owners (R384, R385, R492) -/

/-- Dies of a list that must be erased before a tenant may have them. -/
def State.toErase (s : State) (tenant : Nat) (ds : List Nat) : List Nat :=
  ds.filter fun d => mget s.spares.owners 0 d != tenant && s.dieValid d

/-- The owner of each die that needs no erasure is recorded at once. -/
def State.recordOwners (s : State) (tenant : Nat) (ds : List Nat) : State :=
  let e := s.toErase tenant ds
  s.updSpares fun x => { x with owners := (ds.filter fun d => !e.contains d).foldl (fun m d => mset m 0 d tenant) x.owners }

/-- A log record of a partition's new state (Table 17.5, class 4); it names no ring and slot, whose places are free. -/
def State.logState (s : State) (p st : Nat) : State :=
  let b := s.freeBytes 4
  b.2.log (some p) 4 4 (b.1 ++ leBytes 4 st ++ List.replicate 8 0)

/-- Begins a build: state 1, or 3 where dies are erased or the partition goes. -/
def State.beginBuild (s : State) (p : Nat) (erase clear : List Nat) (remove : Bool) : State :=
  let st := if remove || !erase.isEmpty then 3 else 1
  (s.updPart p fun q => { q with state := st, erasing := erase, clearing := clear, removing := remove }).logState p st

/-! ### The commit -/

/-- The RWS values of 0x2000 in force. -/
def State.setPartValues (s : State) (p : Nat) (v : Nat → Nat) : State :=
  let put (s : State) (sub n : Nat) : State := { s with dict := mset s.dict [] (dkey 0x2000 p sub) (leBytes n (v sub)) }
  [(1, 2), (2, 4), (3, 1), (4, 1), (5, 2), (6, 2), (7, 2), (8, 2), (9, 1), (0xA, 1)].foldl (fun s e => put s e.1 e.2) s

/-- A partition begins: counters at 0, level 12 (R392), its log kept (R472). -/
def Partition.begin (q : Partition) : Partition := { Partition.reset with log := q.log, stream := q.stream }

/-- The level of a partition at its dies (R392), their trim 0 in one of three dies or more (R397). -/
def State.levelDies (s : State) (p : Nat) (ds : List Nat) : State :=
  let l := (s.part p).level
  let untrimmed := s.byCeilings p
  ds.foldl (fun s d => s.updDie d fun x =>
    let x := if untrimmed then { x with trim := 0, goodTicks := 0, clearTicks := 0 } else x
    { x with level := l, targetMv := x.volts (pacePoint l) }) s

/-- Sessions bound to a partition. -/
def State.sessionsOf (s : State) (p : Nat) : List Nat := (s.slp.sessions.filter fun e => e.2.part == p).map Prod.fst

/-- Creation (Table 13.1). -/
def State.createPart (s : State) (p : Nat) (v : Nat → Nat) : State :=
  let s := (s.updPart p Partition.begin).setPartValues p v
  let ds := s.partDies p
  let s := s.recordOwners (v 2) ds
  ((s.levelDies p ds).beginBuild p (s.toErase (v 2) ds) ds false).setBaseShares

/-- A change of an existing partition (Table 13.1); answers the sessions to close. -/
def State.changePart (s : State) (p : Nat) (v : Nat → Nat) : State × List Nat :=
  let old := s.partDies p
  let tenant := s.owner p
  let skinks := (s.dval 0x2000 p 3 0, s.dval 0x2000 p 4 0)
  let t := s.setPartValues p v
  let new := t.partDies p
  let added := new.filter fun d => !old.contains d
  let gone := old.filter fun d => !new.contains d
  let t := t.levelDies p added
  if v 2 ≠ tenant then
    let t := (t.closeWindows p ((s.part p).allWindows.map Prod.fst)).disableRings p (fun _ => true) false
    let t := { t with dict := mset t.dict [] (dkey 0x6040 p 1) (leBytes 1 0) }
    let t := (t.updPart p fun q => { q with debug := 0, debugNext := 0 }).recordOwners (v 2) new
    ((t.beginBuild p (t.toErase (v 2) new) (new ++ gone) false).setBaseShares, s.sessionsOf p)
  else
    let t := t.closeWindows p ((t.part p).windowsOn gone)
    let t := (t.closeWindows p (t.beyondShares p)).recordOwners (v 2) added
    let quiet := added.isEmpty && gone.isEmpty && skinks == (v 3, v 4)
    ((if quiet then t else t.beginBuild p (t.toErase (v 2) added) (added ++ gone) false).setBaseShares, [])

/-- Removal (Table 13.1). `ACTION` takes its staged value (R360); the entries that describe the partition keep theirs while it stands (R365). -/
def State.removePart (s : State) (p : Nat) : State :=
  let s := { s with dict := mset s.dict [] (dkey 0x2000 p 0xA) (leBytes 1 2) }
  let t := (s.closeWindows p ((s.part p).allWindows.map Prod.fst)).disableRings p (fun _ => true) true
  (t.beginBuild p [] (s.partDies p) true).setBaseShares

/-- A commit of 0x2000: a refusal, or the new state and the sessions to close. -/
def State.commitPartition (s : State) (p : Nat) (v : Nat → Nat) : Except Nat (State × List Nat) :=
  let act := v 0xA
  if act = 0 then .ok (s, [])
  else if badPartition v ∨ (act = 1 ∧ v 1 = 0) ∨ (s.slotOf (v 2)).isNone then .error 0x0104
  else if act = 2 ∧ !s.exists_ p then .error 0x0414
  else if s.exists_ p ∧ s.partBusy p then .error 0x070B
  else if s.taken p v then .error 0x070A
  else if act = 2 then .ok (s.removePart p, s.sessionsOf p)
  else if s.exists_ p then .ok (s.changePart p v) else .ok (s.createPart p v, [])

/-! ### The end of a build -/

/-- A partition's dictionary values go with it. -/
def State.dropValues (s : State) (p : Nat) : State :=
  { s with dict := mdrop s.dict fun k => k / 256 % 65536 == p && (match blockAt (k / 256 / 65536) with | none => false | some b => b.perPart) }

/-- A die that belongs to no partition sleeps: its rail is at the PP0 voltage (R492). -/
def State.sleepDie (s : State) (d : Nat) : State := s.updDie d fun x => { x with level := 12, decided := none, raise := none, trim := 0, targetMv := Config.paceMv 0 }

/-- The end of a removal: the dies sleep, the partition is absent. -/
def State.endRemoval (s : State) (p : Nat) : State :=
  let ds := s.partDies p
  let s := ((s.unseatCores p).seatSkinks p Placement.reset).dropValues p
  let s := ds.foldl State.sleepDie s
  (s.updPart p Partition.begin).logState p 0

/-- The placement that the build ends with: full after a change of dies, else with its engines bound anew (R291, R372). -/
def State.builtPlacement (s : State) (p : Nat) : Placement :=
  let pl := (s.part p).placement
  let profile := s.dbytes 0x2100 p 3
  let ok := if profile.length = 512 * (s.partDies p).length + 4 then profile else []
  if pl.dies.mergeSort = s.partDies p then { pl with skinks := s.placeSkinks p ok } else s.fullPlacement p ok

/-- `PARTITION_READY`: the clears and erasures are over, the placement is in force, and the partition is ready, or gone (R295, R372). -/
def partitionReadyStep (p : Nat) (s : State) : State :=
  let q := s.part p
  if (q.state ≠ 1 ∧ q.state ≠ 3) ∨ q.erasing ≠ [] then s
  else
    let s := (q.clearing.foldl (fun s d => s.clearDie d (!q.placement.dies.contains d)) s).clearSkinks p
    if q.removing then s.endRemoval p
    else
      let gone := q.clearing.filter fun d => !(s.partDies p).contains d
      let s := gone.foldl State.sleepDie s
      let pl := s.builtPlacement p
      let s := if pl = q.placement then s
        else (s.updPart p fun q => { q with nextVersion := q.nextVersion + 1 }).swapPlacement p pl (q.nextVersion + 1)
      (s.updPart p fun q => { q with state := 2, clearing := [] }).logState p 2

/-- `TENANT_ERASURE`: every macro of a die is erased, its cores are cleared, and the new owner is recorded (R111, R385). -/
def tenantErasureStep (d : Nat) (s : State) : State :=
  match (List.range 16).find? fun p => (s.part p).erasing.contains d with
  | none => s
  | some p =>
    let s := s.clearDie d false
    let s := { s with macros := mmap s.macros Macro.reset fun k m => if macCore k / 272 = d then m.eraseAll else m }
    (s.updSpares fun x => { x with owners := mset x.owners 0 d (s.owner p) }).updPart p fun q => { q with erasing := q.erasing.filter fun e => e != d }

def execTenantErasure (die : Nat) (s : State) : Host.Outcome State Fault Refusal := act (arrayDieOk die) s (tenantErasureStep die s)

end Sys2Proof.Machine
end

