-- ==== Sys2Proof/Machine/EngineUnits.lean ====
section
/-! DEFINITION. What the engines of chapter 8 share: the operation a descriptor hands them, its record, check values, operands and
completion (R237 to R249). -/

namespace Sys2Proof.Machine

/-- An operation as an engine takes it: submitting core, engine die, descriptor, record, the valid indices of the primary input, whether its
output crosses wide, and the check values found. -/
structure Op where
  core : Nat
  die : Nat
  d : Desc
  record : List Byte
  dims : List (List Nat)
  cache : Bool
  wide : Bool
deriving DecidableEq, Repr

def Op.src (o : Op) (s : State) : Handle := (s.core o.core).cfg.handle o.d.srcH
def Op.dst (o : Op) (s : State) : Handle := (s.core o.core).cfg.handle o.d.dstH
/-- A handle that a byte of the record names. -/
def Op.handleAt (o : Op) (s : State) (b : Nat) : Handle := (s.core o.core).cfg.handle (uAt o.record b 1 % 64)
/-- Header fields (Table 8.1). -/
def Op.code (o : Op) : Nat := uAt o.record 0 1 % 16
def Op.ckin (o : Op) : Nat := uAt o.record 1 1 % 4
def Op.ckout (o : Op) : Bool := (uAt o.record 1 1).testBit 2
def Op.aexp (o : Op) : Bool := (uAt o.record 1 1).testBit 3
def Op.cb (o : Op) : Nat := uAt o.record 3 1 % 32
def Op.alive (o : Op) : Nat := uAt o.record 4 4
/-- A four-byte field of the record. -/
def Op.u (o : Op) (b : Nat) : Nat := uAt o.record b 4
/-- An operand at a handle byte and an offset field of the record. -/
def Op.operand (o : Op) (s : State) (h off : Nat) : Operand := { h := o.handleAt s h, off := o.u off }

/-- Source elements in address-generation order: index tuple and element number. -/
def Op.elements (o : Op) : List (List Nat × Nat) := (tuples o.dims).map fun t => (t, elementAt o.d.ss t)
def Op.count (o : Op) : Nat := (o.dims.map List.length).foldl (· * ·) 1

/-- The instance's key: 8 × die + engine. -/
def instKey (die eng : Nat) : Nat := 8 * die + eng

/-- The instance that the operation's record names. -/
def Op.inst (o : Op) : Nat := instKey o.die (uAt o.record 0 1 / 16)

/-- Operations of an engine (Table 8.2). -/
def opListed (eng code : Nat) : Bool :=
  decide (code < (if eng = 1 then 1 else if eng = 2 then 3 else if eng = 3 then 8 else if eng = 4 then 7 else 2))

/-! ### Elements -/

/-- Bits [·] of an element of `b` bits at number n of an operand: byte offset and bit position. -/
def bitPlace (off n b : Nat) : Nat × Nat := ((off + n * b / 8) % 2 ^ 32, if b < 8 then n * b % 8 else 0)

/-- Reads element `n` of `b` bits. -/
def Op.get (o : Op) (s : State) (h : Handle) (off b n : Nat) : Except Nat (Nat × State) :=
  let q := bitPlace off n b
  match s.readAt o.die o.core o.cache { h := h, off := q.1 } (if b < 8 then 1 else b / 8) with
  | .error e => .error e
  | .ok (bs, s) => .ok (leNat bs / 2 ^ q.2 % 2 ^ b, s)

/-- Reads elements in order. -/
def Op.gets (o : Op) (h : Handle) (off b : Nat) (s : State) : List Nat → Except Nat (List Nat × State)
  | [] => .ok ([], s)
  | n :: rest =>
    match o.get s h off b n with
    | .error e => .error e
    | .ok (v, s) =>
      match Op.gets o h off b s rest with
      | .error e => .error e
      | .ok (vs, s) => .ok (v :: vs, s)

/-- Bytes that cross to another die in wide form are counted (R318, Table 6.11). -/
def Op.countWide (o : Op) (s : State) (x : Operand) (n : Nat) : State :=
  match s.extentsAt o.die o.core x n rWR, (s.core o.core).part with
  | .ok ext, some p => if o.wide && leaves o.die ext then s.count p cWideBytes n u64Max else s
  | _, _ => s

/-- What a write answers that finds no credit: the operation waits, nothing of it is done (R25, R310). -/
abbrev noCredit : Nat := 2 ^ 40

/-- The write of `n` bytes at an operand waits for a credit of the engine's die (R310). -/
def Op.waits (o : Op) (s : State) (x : Operand) (n : Nat) : Bool := match (s.core o.core).part with | some p => s.heldAt o.die p x n | none => false

/-- Bytes of a write, by the places they go to. -/
def pieces : List (Nat × Nat) → List Byte → List (Nat × List Byte)
  | [], _ => []
  | (a, n) :: rest, bs => (a, bs.take n) :: pieces rest (bs.drop n)

/-- The byte at a place that the operation in hand wrote there last. -/
def Engine.wrote (x : Engine) (a : Nat) : Option Byte :=
  match x.writes.find? fun w => decide (w.1 ≤ a ∧ a < w.1 + w.2.length) with | some w => w.2[a - w.1]? | none => none

/-- The engine writes bytes; an operation that makes output records keeps what it writes for their CRCs (R247). -/
def Op.write (o : Op) (s : State) (x : Operand) (bs : List Byte) : Except Nat State :=
  if o.waits s x bs.length then .error noCredit
  else
    match s.extentsAt o.die o.core x bs.length rWR with
    | .error e => .error e
    | .ok ext =>
      match s.deposit o.die (s.core o.core).part (leaves o.die ext) (x.h.kind == 4) ext bs with
      | .error e => .error e
      | .ok s => .ok (if o.ckout then s.updEngine o.inst fun i => { i with writes := pieces ext bs ++ i.writes } else s)

/-- Stores element `n` of `b` bits; the other bits of its byte stay. -/
def Op.put (o : Op) (s : State) (h : Handle) (off b n v : Nat) : Except Nat State :=
  let q := bitPlace off n b
  let x : Operand := { h := h, off := q.1 }
  if b < 8 then
    match s.extentsAt o.die o.core x 1 rWR with
    | .error e => .error e
    | .ok ext =>
      match readExtents s.mem ext with
      | .error e => .error e
      | .ok bs =>
        let old := leNat bs
        let low := old % 2 ^ q.2
        let high := old / 2 ^ (q.2 + b) * 2 ^ (q.2 + b)
        o.write s x [BitVec.ofNat 8 (high + v % 2 ^ b * 2 ^ q.2 + low)]
  else o.write s x (leBytes (b / 8) v)

/-- Stores elements in order; what was stored before a fault stays. A byte that several narrow elements fill one after the other is counted once. An
error that the residues do not see reaches the element that it befell (R249). -/
def Op.putsFrom (o : Op) (h : Handle) (off b : Nat) (last : Option Nat) (s : State) : List (Nat × Nat) → Done
  | [] => (s, none)
  | (n, v) :: rest =>
    let q := bitPlace off n b
    let s := if last = some q.1 then s else o.countWide s { h := h, off := q.1 } (ceilDiv b 8)
    onward s 5 (o.put s h off b n (((v : Int) + s.errorAt n) % 2 ^ b).toNat) fun s => Op.putsFrom o h off b (some q.1) s rest

def Op.puts (o : Op) (h : Handle) (off b : Nat) (s : State) (vs : List (Nat × Nat)) : Done := o.putsFrom h off b none s vs

/-- The output of shape (n0, n1, n2) at the destination: element (i0, i1, i2) steps by the destination strides (R287). -/
def Op.shape (o : Op) (n0 n1 n2 : Nat) : List Nat :=
  (tuples [List.range n0, List.range n1, List.range n2]).map fun t => elementAt o.d.ds t

/-- Reads `n` bytes of an operand of the record. -/
def Op.bytes (o : Op) (s : State) (x : Operand) (n : Nat) : Except Nat (List Byte) := s.peekAt o.die o.core x n

/-- Reads bytes as the engine reaches them, through the die store as a cache for a die-store Newt (R298). -/
def Op.read (o : Op) (s : State) (x : Operand) (n : Nat) : Except Nat (List Byte × State) := s.readAt o.die o.core o.cache x n

/-- Work by an engine: faults name `UNIT` 5 (Table 11.11). -/
def eng {α : Type} (s : State) (r : Except Nat α) (go : α → Done) : Done := onward s 5 r go

/-! ### Check values (R246, R247) -/

/-- Blocks of a region: offset and length; a region of no bytes has none. -/
def checkBlocks (cb len : Nat) : List (Nat × Nat) :=
  (List.range (ceilDiv len (2 ^ cb))).map fun j => (j * 2 ^ cb, min (2 ^ cb) (len - j * 2 ^ cb))

/-- The CRC of a block under an alive value. -/
def blockCrc (bs : List Byte) (alive : Nat) : Nat := crc32c (bs ++ leBytes 4 alive)

/-- Verifies blocks against their records: the alive value the records carry, or the status that faults. -/
def Op.verifyBlocks (o : Op) (s : State) (x : Operand) (ckOff : Nat) (alive : Option Nat) (j : Nat) : List (Nat × Nat) → Except Nat (Option Nat × State)
  | [] => .ok (alive, s)
  | (b, n) :: rest =>
    match o.read s (x.plus b) n with
    | .error e => .error e
    | .ok bs =>
      match o.read bs.2 { h := o.handleAt s 2, off := (ckOff + 8 * j) % 2 ^ 32 } 8 with
      | .error e => .error e
      | .ok r =>
        let a := leNat (r.1.drop 4)
        if blockCrc bs.1 a ≠ leNat (r.1.take 4) then .error 0x0306
        else if alive.getD a ≠ a then .error 0x0305
        else Op.verifyBlocks o r.2 x ckOff (some a) (j + 1) rest

/-- Verifies one checked region. -/
def Op.verifyRegion (o : Op) (s : State) (x : Operand) (ckOff len : Nat) (expect : Bool) : Except Nat (Option Nat × State) :=
  match o.verifyBlocks s x ckOff none 0 (if len = 0 then [(0, 0)] else checkBlocks o.cb len) with
  | .error e => .error e
  | .ok a => if expect ∧ a.1 ≠ some o.alive then .error 0x0305 else .ok a

/-- The bytes of a block: those the operation wrote as it wrote them, the others by the scan port after its last write (R247). -/
def Op.blockBytes (o : Op) (s : State) (x : Operand) (n : Nat) : Except Nat (List Byte × State) :=
  let known := fun (ext : List (Nat × Nat)) => (ext.flatMap fun e => List.range' e.1 e.2).map (s.engine o.inst).wrote
  match (s.extentsAt o.die o.core x n rWR).map known with
  | .error _ => o.read s x n
  | .ok ws =>
    if ws.all Option.isSome then .ok (ws.map fun w => w.getD 0, s)
    else (o.read s x n).map fun r => (List.zipWith (fun (w : Option Byte) b => w.getD b) ws r.1, r.2)

/-- Writes the records of an output region. -/
def Op.writeRecords (o : Op) (x : Operand) (ckOff alive : Nat) (j : Nat) (s : State) : List (Nat × Nat) → Except Nat State
  | [] => .ok s
  | (b, n) :: rest =>
    match o.blockBytes s (x.plus b) n with
    | .error e => .error e
    | .ok bs =>
      match o.write bs.2 { h := o.handleAt s 2, off := (ckOff + 8 * j) % 2 ^ 32 } (leBytes 4 (blockCrc bs.1 alive) ++ leBytes 4 alive) with
      | .error e => .error e
      | .ok s => Op.writeRecords o x ckOff alive (j + 1) s rest

/-- The primary input's base. -/
def Op.primary (o : Op) (s : State) : Operand := { h := o.src s, off := o.d.srcOff }
/-- The output's base. -/
def Op.output (o : Op) (s : State) : Operand := { h := o.dst s, off := o.d.dstOff }

/-- Counts blocks verified (Table 8.7). -/
def Op.countBlocks (o : Op) (s : State) (n : Nat) : State :=
  match (s.core o.core).part with
  | none => s
  | some p => s.count p cVerified n u64Max

/-- Verification first, then the operation, then the output's records (R247, R248). -/
def Op.checked (o : Op) (second : State → Option Operand) (body : State → Done) (s : State) : Done :=
  let a := if o.ckin.testBit 0 then o.verifyRegion s (o.primary s) (o.u 8) (o.u 12) o.aexp else .ok (none, s)
  eng s a fun a =>
    let b := match o.ckin.testBit 1, second a.2 with
      | true, some x => o.verifyRegion a.2 x (o.u 16) (o.u 20) false
      | _, _ => .ok (none, a.2)
    eng a.2 b fun b =>
      let n := (if o.ckin.testBit 0 then max 1 (ceilDiv (o.u 12) (2 ^ o.cb)) else 0) + (if o.ckin.testBit 1 then ceilDiv (o.u 20) (2 ^ o.cb) else 0)
      (body (o.countBlocks b.2 n)).andThen fun s =>
        if o.ckout then
          let alive := match a.1 with | some v => (v + 1) % 2 ^ 32 | none => o.alive
          eng s (o.writeRecords (o.output s) (o.u 24) alive 0 s (checkBlocks o.cb (o.u 28))) fun s => (s, none)
        else (s, none)

/-- Reserved, misused or unused fields of the common header (R241); `second` and `output`: the operation has a secondary input, makes output
records. A region has bytes, but Toad's may have none (R246, R268). -/
def Op.headerBad (o : Op) (second output : Bool) : Bool :=
  let in0 := o.ckin.testBit 0
  let in1 := o.ckin.testBit 1
  decide (16 ≤ uAt o.record 1 1) || decide (64 ≤ uAt o.record 2 1) || decide (32 ≤ uAt o.record 3 1) || (in1 && !second) || (o.ckout && !output) ||
  ((o.ckin != 0 || o.ckout) && (decide (o.cb < 8) || decide (20 < o.cb))) ||
  (!in0 && (o.aexp || o.u 8 != 0 || o.u 12 != 0)) || (!in1 && (o.u 16 != 0 || o.u 20 != 0)) || (!o.ckout && (o.u 24 != 0 || o.u 28 != 0)) ||
  (uAt o.record 0 1 / 16 != 6 && ((in0 && o.u 12 == 0) || (in1 && o.u 20 == 0) || (o.ckout && o.u 28 == 0))) || (!o.aexp && !(o.ckout && !in0) && o.alive != 0)

/-- Check offsets that are not multiples of 8. -/
def Op.checkMisaligned (o : Op) : Bool := o.u 8 % 8 != 0 || o.u 16 % 8 != 0 || o.u 24 % 8 != 0

/-! ### Taking a descriptor -/

/-- What the DMA unit finds when it hands a descriptor on. -/
inductive Taken where
  | nothing
  | bad (status unit : Nat)
  | ready (o : Op) (after : State)
deriving DecidableEq, Repr

/-- The die of the primary input's base address (R239). -/
def State.engineDie (s : State) (c eng : Nat) (d : Desc) : Except Nat Nat :=
  let h := (s.core c).cfg.handle d.srcH
  if h.kind ≤ 2 then .error 0x0140
  else
    match s.extents c { h := h, off := d.srcOff } 1 rRD with
    | .error e => .error e
    | .ok [] => .error 0x0140
    | .ok ((a, _) :: _) => if dieOfAddr a < 16 ∧ eng ≠ 1 ∧ eng ≠ 6 then .error 0x0140 else .ok (dieOfAddr a)

/-- The mode of the primary input's window carries the output (R318). -/
def State.wideSource (s : State) (c : Nat) (d : Desc) : Bool :=
  let k := s.core c
  let h := k.cfg.handle d.srcH
  match k.part with
  | none => false
  | some p => h.kind == 4 && (s.window p h.win).cross != 0

/-- The operations that write no data and ignore their destination: `ADAPT`, `CLIPSTAT`, `GENERATE`, `VERIFY` (Table 8.2). -/
def noOutput (eng code : Nat) : Bool := eng == 6 || (eng == 3 && decide (6 ≤ code))

/-- An engine operation as its instance finds it: no-op, refused, or ready with its record and the state after its reading. -/
def State.takeOp (s : State) (c eng greg : Nat) (d : Desc) : Taken :=
  let k := s.core c
  let dims := validIndices k greg d
  if eng ≠ 6 ∧ dims.any List.isEmpty then .nothing
  else if badHandles k [d.srcH, d.recH] then .bad 0x0103 3
  else if cachedKind3 s k [d.srcH, d.recH] then .bad 0x0104 3
  else
    match s.engineDie c eng d with
    | .error e => .bad e (if e = 0x0140 then 5 else 3)
    | .ok die =>
      if (s.engine (instKey die eng)).state = 5 then .bad 0x0140 5 else
      let cache := decide (die < 16) && eng == 1
      match s.readAt die c cache { h := k.cfg.handle d.recH, off := d.recOff } 64 with
      | .error e => .bad e 5
      | .ok rec =>
        let o : Op := { core := c, die := die, d := d, record := rec.1, dims := dims, cache := cache, wide := s.wideSource c d }
        if uAt rec.1 0 1 / 16 ≠ eng ∨ !opListed eng o.code then .bad 0x0141 5
        else if !noOutput eng o.code && cachedKind3 s k [d.dstH] then .bad 0x0104 3
        else .ready o rec.2

/-- The operation faulted: `_FAULT` keeps the first, the DMA unit stops (R244, R271). -/
def State.engineFail (s : State) (c die eng status unit pc : Nat) : State :=
  let p := (s.core c).part.getD 0
  let s := s.updEngine (instKey die eng) fun x =>
    let x := { x with queue := x.queue.filter (fun e => e.2 != c), writes := [] }
    if unit = 3 ∨ x.faultValid then x else { x with faultValid := true, faultPart := p, faultStatus := statusOf status }
  s.dmaFail c status unit pc

/-- The operation completed: the next of the instance is that of the next partition (R240). -/
def State.engineDone (s : State) (c die eng slots : Nat) (q : DmaOp) : State :=
  (s.updEngine (instKey die eng) fun x =>
    { x with ops := satAdd u64Max x.ops 1, queue := x.queue.filter (fun e => e.2 != c), writes := [], served := (s.core c).part.getD 0 }).dmaDone c slots q

/-! ### The queues of an instance (R240) -/

/-- Operations that a partition has queued. -/
def Engine.queued (x : Engine) (p : Nat) : Nat := (x.queue.filter fun e => e.1 == p).length

/-- The partition served next: round robin from the one served last. -/
def Engine.next (x : Engine) : Option Nat := ((List.range 16).map fun i => (x.served + 1 + i) % 16).find? fun p => x.queue.any fun e => e.1 == p

/-- Is the operation that a core has handed on the one served next? -/
def Engine.turn (x : Engine) (c : Nat) : Bool :=
  match x.next with | none => false | some p => x.queue.find? (fun e => e.1 == p) == some (p, c)

/-- The DMA unit hands its operation on; a full queue holds it. -/
def State.handOn (s : State) (c i : Nat) : State :=
  let p := (s.core c).part.getD 0
  let x := s.engine i
  if (x.queue.any fun e => e.2 == c) || decide (8 ≤ x.queued p) then s else s.updEngine i fun x => { x with queue := x.queue ++ [(p, c)] }

/-- How an operation refuses its own fields: the first condition that holds (R241, R272). -/
def Op.refusal (o : Op) (s : State) (second output plain : Bool) (handles : List Nat) (own : List (Bool × Nat)) : Option Nat :=
  let k := s.core o.core
  let ck := if o.ckin ≠ 0 ∨ o.ckout then [uAt o.record 2 1 % 64] else []
  let hs := handles ++ ck ++ (if output then [o.d.dstH] else [])
  firstOf ([(o.headerBad second (output || plain), 0x0141)] ++ own ++
    [(o.checkMisaligned, 0x0102), (badHandles k hs, 0x0103), (cachedKind3 s k hs, 0x0104)])

/-- What one operation is made of: has it a secondary input, an output; does it write its own check records (`plain`); its handles; its
refusals; the secondary operand; whether it has nothing to do (R253); its work. -/
structure Recipe where
  second : Bool
  output : Bool
  plain : Bool
  handles : Op → List Nat
  own : Op → List (Bool × Nat)
  secondary : Op → State → Option Operand
  idle : Op → Bool := fun _ => false
  body : Op → State → Done

/-- Carries out an operation under its recipe; a residue that disagrees in the engine's arithmetic faults it (R249, R430), as does a word of the
instance's buffer that cannot be corrected, or a buffer withdrawn (R432, R433). -/
def Op.run (o : Op) (r : Recipe) (s : State) : Done :=
  match o.refusal s r.second r.output r.plain (r.handles o) (r.own o) with
  | some e => (s, some (e, 5))
  | none =>
    if r.idle o then (s, none)
    else if s.residueFails then (s, some (residueStatus false o.inst, 5))
    else match s.bufferFault 0 o.inst with
      | some e => (s, some (e, 5))
      | none =>
        let s := if o.ckout then s.updEngine o.inst fun x => { x with writes := [] } else s
        if r.plain then r.body o s else o.checked (r.secondary o) (r.body o) s

/-- Some write of the operation finds no credit of its engine's die: the operation waits whole (R310; log entry 22). -/
def Op.starved (o : Op) (s : State) (r : Recipe) : Bool := (o.run r s).2 == some (noCredit, 5)

/-- The instance carries an operation out. -/
def Op.serve (o : Op) (eng : Nat) (r : Recipe) (q : DmaOp) (s : State) : State :=
  let w := o.run r s
  match w.2 with
  | none => w.1.engineDone o.core o.die eng o.d.slots q
  | some e => w.1.engineFail o.core o.die eng e.1 e.2 q.pc

/-- An operation in its phase: handed on, served in its turn, or, at an instance with nothing queued, both at once. -/
def Op.phase (o : Op) (eng : Nat) (r : Recipe) (ph : Carry) (q : DmaOp) (after s : State) : State :=
  let i := instKey o.die eng
  let x := s.engine i
  match ph with
  | .issue => s.handOn o.core i
  | .perform => if x.turn o.core && !o.starved after r then o.serve eng r q after else s
  | .whole => if x.queue.isEmpty && !o.starved after r then o.serve eng r q after else s.handOn o.core i

/-- The command of one operation: the front descriptor, when it is this engine's and its record names this operation. -/
def engineStep (c eng code : Nat) (r : Recipe) (ph : Carry) (s : State) : State :=
  match (s.core c).dmaQ with
  | [] => s
  | q :: _ =>
    match s.nextDesc c q with
    | .error e => s.dmaFail c e 3 q.pc
    | .ok d =>
      if d.eng ≠ eng then s
      else
        match s.takeOp c eng q.greg d with
        | .nothing => s.dmaDone c d.slots q
        | .bad e unit => s.engineFail c (match s.engineDie c eng d with | .ok die => die | .error _ => coreDie c) eng e unit q.pc
        | .ready o after => if o.code ≠ code then s else o.phase eng r ph q after s

end Sys2Proof.Machine
end

