-- ==== Sys2Proof/Machine/JobChecks.lean ====
section
/-! DEFINITION. The job descriptor, the program image, and the checks that stand before a job's first instruction (R273 to R279, R346, R347, R34). -/

namespace Sys2Proof.Machine

/-- The little-endian number of `n` bytes at an offset. -/
def numAt (bs : List Byte) (off n : Nat) : Nat := leNat ((bs.drop off).take n)

/-! ### Rings' areas -/

/-- Bytes of a ring's window, which `HD` reads as every source does (R308, R309, R316). -/
def State.ringRead (s : State) (p win off n : Nat) : Except Nat (List Byte) := s.readWindow 18 p win off n rRD

/-- A record that `HD` writes into a ring's window (R308, R309, R316); an area that cannot take it keeps what it holds (DESIGN CHOICE, log entry 44). -/
def State.ringWrite (s : State) (p win off : Nat) (bs : List Byte) : State :=
  match s.windowAt 18 p win off bs.length rWR with
  | .error _ => s
  | .ok ext => match s.arrived ((ext.headD (0, 0)).1) bs with
    | .error _ => s
    | .ok got => match writeExtents s.mem ext got with
      | .error _ => s
      | .ok m => s.setMem m

/-- The accesses of a command after the first `k` (R426): the one that suffers is counted from there. -/
def State.afterBeats (s : State) : Nat → State
  | 0 => s
  | k + 1 => State.afterBeats s.crossed k

/-- The 64 bytes of the descriptor in a slot (R345). -/
def State.descriptor (s : State) (p : Nat) (r : Ring) (slot : Nat) : Except Nat (List Byte) := s.ringRead p r.rwin (r.subOff + 64 * slot) 64

/-! ### The descriptor (Table 11.10) -/

/-- The fields of a descriptor that no check reads from it again. -/
structure JobDesc where
  noevt : Bool
  restartable : Bool
  inCb : Nat
  progWin : Nat
  inWin : Nat
  ckWin : Nat
  progOff : Nat
  inOff : Nat
  ckOff : Nat
  inLen : Nat
  inAlive : Nat
  rtlen0 : Nat
  rtlen1 : Nat
  tlimit : Nat
  tag : Nat
deriving DecidableEq, Repr

def readDesc (bs : List Byte) : JobDesc :=
  let b (i : Nat) : Nat := numAt bs i 1
  { noevt := (b 0).testBit 1, restartable := (b 0).testBit 0, inCb := b 1 % 32, progWin := b 2, inWin := b 3, ckWin := b 4,
    progOff := numAt bs 8 8, inOff := numAt bs 16 8, ckOff := numAt bs 24 8, inLen := numAt bs 32 4, inAlive := numAt bs 36 4,
    rtlen0 := numAt bs 40 4, rtlen1 := numAt bs 44 4, tlimit := numAt bs 48 4, tag := numAt bs 52 8 }

/-- Step 1 of R347. -/
def badDcrc (bs : List Byte) : Bool := crc32c (bs.take 60) != numAt bs 60 4

/-- Step 2 of R347. -/
def badJobDesc (bs : List Byte) : Bool :=
  let d := readDesc bs
  numAt bs 0 1 / 4 != 0 || numAt bs 1 1 / 32 != 0 || numAt bs 5 3 != 0 ||
    decide ((1 ≤ d.inCb ∧ d.inCb ≤ 7) ∨ 21 ≤ d.inCb) || d.progOff % 64 != 0 || d.inOff % 2 ^ d.inCb != 0 || d.ckOff % 8 != 0 ||
    (d.inCb == 0 && (d.inWin != 0 || d.ckWin != 0 || d.inOff != 0 || d.ckOff != 0 || d.inLen != 0))

/-! ### The image (Tables 9.1 to 9.3) -/

/-- An assignment entry. -/
structure Assign where
  die : Nat
  x0 : Nat
  x1 : Nat
  y0 : Nat
  y1 : Nat
  seg : Nat
  hset : Nat
  rsvd : Bool
deriving DecidableEq, Repr

/-- A program image as its tables give it; a page entry is its first three bytes. -/
structure Image where
  header : List Byte
  segs : List (Nat × Nat)
  assigns : List Assign
  pages : List Nat
  badPage : Bool
  hsets : List Byte
deriving DecidableEq, Repr

def readAssign (bs : List Byte) : Assign :=
  let b (i : Nat) : Nat := numAt bs i 1
  { die := b 0 % 16, x0 := b 1 % 16, x1 := b 1 / 16, y0 := b 2 % 16, y1 := b 2 / 16, seg := numAt bs 4 2, hset := numAt bs 6 2,
    rsvd := b 0 / 16 != 0 || b 3 != 0 }

/-- Entries of 8 bytes each. -/
def entries8 (bs : List Byte) : List (List Byte) := (List.range (bs.length / 8)).map fun i => (bs.drop (8 * i)).take 8

/-- A page entry's fields: logical die, x, y, logical macro, `REWR`, page. -/
def pgDie (e : Nat) : Nat := e % 16
def pgX (e : Nat) : Nat := e / 4096 % 16
def pgY (e : Nat) : Nat := e / 256 % 16
def pgMacro (e : Nat) : Nat := e / 16 % 16
def pgRewr (e : Nat) : Bool := e.testBit 23
def pgPage (e : Nat) : Nat := e / 65536 % 64
/-- The logical macro of a page entry, as 16 × logical key + macro. -/
def pgLogical (e : Nat) : Nat := 16 * logicalKey (pgDie e) (pgX e) (pgY e) + pgMacro e

/-- The header alone is wrong (R279): fields, counts, offsets and extents. -/
def badHeader (h : List Byte) : Bool :=
  let n (off k : Nat) : Nat := numAt h off k
  let len := n 28 4
  let beyond (off count size : Nat) : Bool := decide (len < n off 4 + n count (if count = 12 then 4 else 2) * size)
  decide (len < 128) || n 0 4 != 0x53541620 || n 4 1 / 16 != 1 || n 4 1 / 2 % 8 != 0 || n 5 1 / 32 != 0 || n 6 1 / 64 != 0 || n 7 1 != 0 ||
    n 34 2 != 0 || n 40 8 != 0 || n 48 8 != 0 || n 56 8 != 0 ||
    decide (n 5 1 % 32 = 0 ∨ 16 < n 5 1 % 32 ∨ 32 < n 6 1 % 64 ∨ n 8 2 = 0 ∨ 4096 < n 8 2 ∨ n 10 2 = 0 ∨ 4096 < n 10 2 ∨ 4194304 < n 12 4 ∨
      n 32 2 = 0 ∨ 4096 < n 32 2) ||
    [16, 20, 24, 36].any (fun o => n o 4 % 16 != 0) || beyond 16 8 8 || beyond 20 10 8 || beyond 24 12 8 || beyond 36 32 1024 ||
    ((n 4 1).testBit 0 && decide (4 < n 5 1 % 32))

/-- The bytes of declaration L (Table 9.2). -/
def declBytes (h : List Byte) (l : Nat) : List Byte := (h.drop (64 + 16 * l)).take 16

/-- `TILE_` of dimension d at level L. -/
def levelTile (h : List Byte) (l d : Nat) : Nat := numAt h (64 + 16 * l + 4 + 2 * d) 2

/-- The five loop codes of a declaration. -/
def loopCodes (h : List Byte) (l : Nat) : List Nat := (List.range 5).map fun p => numAt h (64 + 16 * l + 2) 2 / 8 ^ p % 8

/-- A code other than 7 follows a 7. -/
def gapped : List Nat → Bool
  | a :: b :: rest => (a == 7 && b != 7) || gapped (b :: rest)
  | _ => false

/-- A declaration that R275 refuses. -/
def badDecl (h : List Byte) (l : Nat) : Bool :=
  let cs := loopCodes h l
  let real := cs.filter fun c => c != 7
  numAt h (64 + 16 * l) 1 != l || numAt h (65 + 16 * l) 1 != 0 || (numAt h (66 + 16 * l) 2).testBit 15 || numAt h (78 + 16 * l) 2 != 0 ||
    cs.any (fun c => c == 5 || c == 6) || real.eraseDups.length != real.length || gapped cs ||
    (List.range 5).any (fun d => cs.contains d != (levelTile h l d != 0)) ||
    (l == 0 && decide (256 < levelTile h 0 0 ∨ 512 < levelTile h 0 1)) ||
    (l != 0 && (List.range 5).any fun d => levelTile h l d != 0 && levelTile h (l - 1) d != 0 && levelTile h l d % levelTile h (l - 1) d != 0)

/-- Reads the image's tables, whose extents the header has been found to give rightly: accesses 2 to 5 of the checks. -/
def State.readImage (s : State) (p : Nat) (d : JobDesc) (h : List Byte) : Except Nat Image :=
  let get (k off n : Nat) : Except Nat (List Byte) := (s.afterBeats k).readWindow 18 p d.progWin (d.progOff + numAt h off 4) n rRD
  match get 1 16 (8 * numAt h 8 2) with
  | .error e => .error e
  | .ok sg =>
    match get 2 20 (8 * numAt h 10 2) with
    | .error e => .error e
    | .ok asg =>
      match get 3 24 (8 * numAt h 12 4) with
      | .error e => .error e
      | .ok pg =>
        match get 4 36 (1024 * numAt h 32 2) with
        | .error e => .error e
        | .ok hs =>
          .ok { header := h, segs := (entries8 sg).map fun e => (numAt e 0 4, numAt e 4 4), assigns := (entries8 asg).map readAssign,
                pages := (entries8 pg).map fun e => numAt e 0 3, badPage := (entries8 pg).any fun e => (numAt e 2 1).testBit 6 || numAt e 3 5 != 0,
                hsets := hs }

/-- Two rectangles of one logical die share a core. -/
def Assign.meets (a b : Assign) : Bool :=
  a.die == b.die && decide (a.x0 ≤ b.x1 ∧ b.x0 ≤ a.x1 ∧ a.y0 ≤ b.y1 ∧ b.y0 ≤ a.y1)

/-- Some pair of a list is related. -/
def anyPair {α : Type} (f : α → α → Bool) : List α → Bool
  | [] => false
  | a :: rest => rest.any (f a) || anyPair f rest

/-- A handle entry with a reserved bit set (Table 4.4). -/
def badHandle (bs : List Byte) : Bool := numAt bs 7 1 != 0 || numAt bs 12 4 % 2 ^ 28 != 0

/-- The tables are wrong (R279). -/
def Image.bad (g : Image) : Bool :=
  let len := numAt g.header 28 4
  [0, 1, 2, 3].any (badDecl g.header) ||
    g.segs.any (fun e => e.1 % 16 != 0 || decide (e.2 = 0 ∨ 65536 < e.2 ∨ len < e.1 + 16 * e.2)) ||
    g.assigns.any (fun a => a.rsvd || decide (g.segs.length ≤ a.seg ∨ a.x1 < a.x0 ∨ a.y1 < a.y0 ∨ numAt g.header 32 2 ≤ a.hset)) ||
    anyPair Assign.meets g.assigns || g.badPage || anyPair (fun a b => a % 2 ^ 22 == b % 2 ^ 22) g.pages ||
    anyPair (fun a b => a % 65536 == b % 65536 && pgRewr a != pgRewr b) g.pages || g.pages.any (fun e => pgRewr e && decide (31 < pgPage e)) ||
    (List.range (g.hsets.length / 16)).any fun i => badHandle ((g.hsets.drop (16 * i)).take 16)

/-- The logical cores that an assignment covers, with its segment and handle set. -/
def Assign.cores (a : Assign) : List (Nat × Nat × Nat) :=
  (List.range (a.y1 + 1 - a.y0)).flatMap fun y => (List.range (a.x1 + 1 - a.x0)).map fun x => (logicalKey a.die (a.x0 + x) (a.y0 + y), a.seg, a.hset)

def Image.covered (g : Image) : List (Nat × Nat × Nat) := g.assigns.flatMap Assign.cores

/-- A macro holds a valid page. -/
def Macro.holdsValid (m : Macro) : Bool := m.pages.any fun e => e.2.valid

/-- What the partition cannot provide (R279): 0x0705. -/
def State.cannotServe (s : State) (p : Nat) (g : Image) : Bool :=
  let pl := (s.part p).placement
  g.covered.any (fun c => decide (c.1 / 256 < pl.dies.length ∧ 4352 ≤ pl.core c.1)) ||
    decide (s.dval 0x2000 p 3 0 + s.dval 0x2000 p 4 0 < numAt g.header 6 1 % 64) ||
    g.pages.any fun e => match pl.macroAt (pgLogical e) with
      | none => false
      | some k => (s.mac k).cfg.rewritable != pgRewr e && (s.mac k).holdsValid

/-- Logical dies beyond the partition (R34): 0x0703. -/
def State.beyondDies (s : State) (p : Nat) (g : Image) : Bool :=
  let n := (s.part p).placement.dies.length
  decide (n < numAt g.header 5 1 % 32) || g.assigns.any (fun a => decide (n ≤ a.die)) || g.pages.any fun e => decide (n ≤ pgDie e)

/-- Step 4 of R347: the image, or the first status, with where a fault lies above bit 16. -/
def State.checkImage (s : State) (p : Nat) (d : JobDesc) : Except Nat Image :=
  match s.readWindow 18 p d.progWin d.progOff 128 rRD with
  | .error e => .error e
  | .ok h =>
    if badHeader h then .error 0x0704
    else match s.readImage p d h with
      | .error e => .error e
      | .ok g => if g.bad then .error 0x0704 else if s.cannotServe p g then .error 0x0705 else if s.beyondDies p g then .error 0x0703 else .ok g

/-! ### The input blocks -/

/-- Step 5 of R347: blocks in ascending order, `CRC` before `ALIVE`; block j and its record are accesses 5 + 2 j and 6 + 2 j after the header's. -/
def State.checkInput (s : State) (p : Nat) (d : JobDesc) (j : Nat) : List (Nat × Nat) → Option Nat
  | [] => none
  | (b, n) :: rest =>
    match (s.afterBeats (5 + 2 * j)).readWindow 18 p d.inWin (d.inOff + b) n rRD with
    | .error e => some e
    | .ok bs =>
      match (s.afterBeats (6 + 2 * j)).readWindow 18 p d.ckWin (d.ckOff + 8 * j) 8 rRD with
      | .error e => some e
      | .ok r =>
        if blockCrc bs (leNat (r.drop 4)) ≠ leNat (r.take 4) then some 0x0304
        else if leNat (r.drop 4) ≠ d.inAlive then some 0x0305
        else State.checkInput s p d (j + 1) rest

/-- Steps 4 and 5. -/
def State.checkProgram (s : State) (p : Nat) (d : JobDesc) : Except Nat Image :=
  match s.checkImage p d with
  | .error e => .error e
  | .ok g =>
    if d.inCb = 0 ∨ d.inLen = 0 then .ok g
    else match s.checkInput p d 0 (checkBlocks d.inCb d.inLen) with
      | some e => .error e
      | none => .ok g

/-- Accesses that the checks make in all, the descriptor's own aside. -/
def JobDesc.accesses (d : JobDesc) : Nat := 5 + 2 * (checkBlocks d.inCb d.inLen).length

/-- The checks of R347; `alive` is `NEXT_ALIVE`, and none at a restart. Answers the status of the first that fails, and whether step 3 passed. -/
def State.checkJob (s : State) (p : Nat) (bs : List Byte) (alive : Option Nat) : Bool × Except Nat Image :=
  let d := readDesc bs
  if badDcrc bs then (false, .error 0x0304)
  else if badJobDesc bs then (false, .error 0x0700)
  else match alive with
    | none => (false, s.checkProgram p d)
    | some a => if d.inAlive ≠ a then (false, .error 0x0305) else (true, s.checkProgram p d)

/-! ### Staging (R278) -/

/-- A handle from the 16 bytes of a handle set's entry (Table 4.4). -/
def readHandle (bs : List Byte) : Handle :=
  { base := numAt bs 0 6, win := numAt bs 6 1, size := numAt bs 8 4, valid := (numAt bs 12 4).testBit 31, kind := numAt bs 12 4 / 2 ^ 28 % 8 }

/-- The handle table of a handle set. -/
def Image.handles (g : Image) (h : Nat) : Map Handle :=
  (List.range 64).foldl (fun m i => mset m Handle.reset i (readHandle ((g.hsets.drop (1024 * h + 16 * i)).take 16))) []

/-- The hub stages the registers of every participating core and commits them; they act at the job start (R130, R278). -/
def State.stageCores (s : State) (p : Nat) (d : JobDesc) (g : Image) : State :=
  let pl := (s.part p).placement
  g.covered.foldl (fun s e =>
    s.updCore (pl.core e.1) fun k =>
      let g : CoreConfig := { handles := g.handles e.2.2, rtlen0 := d.rtlen0, rtlen1 := d.rtlen1, macroMap := mget pl.maps [] (pl.core e.1) }
      { k with staged := g, committed := some g }) s

end Sys2Proof.Machine
end

