-- ==== Sys2Proof/Machine/Jobs.lean ====
section
/-! DEFINITION. The life of a job: selection, checks, start, faults, kills, clearing, boundaries, restarts, completion records, and the job
control block's actions (R129, R149, R296, R345 to R349, R373 to R387, R406). -/

namespace Sys2Proof.Machine

/-! ### Log records and traces of jobs -/

/-- Ring and slot as a record shows them. -/
def Job.place (j : Job) : List Byte := leBytes 2 j.ring ++ leBytes 2 j.slot

/-- A job record: 1 selected, 2 running, 3 completed (Table 17.5, class 4). -/
def State.logJob (s : State) (p : Nat) (j : Job) (code status : Nat) : State :=
  s.log (some p) 4 code (j.place ++ leBytes 4 status ++ List.replicate 8 0)

/-- The record of a run that ends badly (Table 17.5, class 3). -/
def State.logRun (s : State) (p : Nat) (j : Job) (status : Nat) (f : FaultRec) : State :=
  s.log (some p) 3 status (j.place ++ leBytes 1 j.restarts ++ [0, 0, 0] ++ leBytes 4 (faultWord f) ++ leBytes 4 0)

/-- The record of an accepted commit, or of an entry into debug mode (Table 17.5, class 5): the slot that holds the committing tenant, and the
sub-index of `ACTION`. -/
def State.logConfig (s : State) (ring : Option Nat) (index slot sub : Nat) : State :=
  s.log ring 5 index (leBytes 2 slot ++ leBytes 1 sub ++ List.replicate 13 0)

/-- The slot that holds a tenant identity, as a record shows it. -/
def State.slotNo (s : State) (tenant : Nat) : Nat := (s.slotOf tenant).getD 0xFFFF

/-- The debug mode last committed takes effect; an entry into it is logged (R463), and its block has no `ACTION` (Table 17.5). -/
def State.settleDebug (s : State) (p : Nat) : State :=
  let q := s.part p
  let s := s.updPart p fun q => { q with debug := q.debugNext }
  if q.debugNext = 1 ∧ q.debug ≠ 1 then s.logConfig (some p) 0x6040 (s.slotNo (s.owner p)) 0 else s

/-! ### The completion record (R349) -/

/-- Bytes 2 and 3 of a record. -/
def recordFlags (r : Ring) (j : Job) : Nat :=
  r.cmpTail / r.size % 2 * 2 ^ 15 + j.restarts % 4 * 8 + bit j.audited * 4 + bit j.longsum * 2 + bit j.rescaled

/-- The 32 bytes of a completion record. -/
def recordBytes (r : Ring) (j : Job) (status ticks : Nat) : List Byte :=
  leBytes 2 status ++ leBytes 2 (recordFlags r j) ++ leBytes 2 j.ring ++ leBytes 2 j.slot ++ leBytes 8 j.tag ++
    leBytes 4 (min ticks 0xFFFFFFFF) ++ leBytes 4 (min (j.energy / 10 ^ 9) 0xFFFFFFFF) ++
    leBytes 4 (if status = 0 then 0 else faultWord j.fault) ++ leBytes 4 r.cmpAlive

/-- A ring after a record: the descriptor is consumed, the record counted (R345, R349). -/
def Ring.advance (r : Ring) (energy : Nat) : Ring :=
  { r with subHead := (r.subHead + 1) % 2 ^ 32, cmpTail := (r.cmpTail + 1) % 2 ^ 32, cmpAlive := (r.cmpAlive + 1) % 2 ^ 32,
           written := r.written + 1, energy := r.energy + energy, counted := r.counted + 1 }

/-- Writes a job's completion record, advances its ring, counts it, and queues the copy for the ring's session (R343, R349, R387). -/
def State.writeRecord (s : State) (p : Nat) (j : Job) (status ticks : Nat) : State :=
  let r := s.ring j.ring
  let bs := recordBytes r j status ticks
  let s := s.ringWrite p r.rwin (r.cmpOff + 32 * (r.cmpTail % r.size)) bs
  let s := s.setRing j.ring (r.advance j.energy)
  let s := if status = 0 then s.count p cJobsOk 1 u64Max else s.count p cJobsBad 1 u64Max
  let s := if j.longsum then s.count p cLongsum 1 0xFFFFFFFF else s
  if j.noevt ∨ r.sess = 0 then s else s.queueRecord r.sess bs

/-- The completion of the job in hand: its record, its log record, and the boundary at the entry to `IDLE` (R373). -/
def State.completeJob (s : State) (p : Nat) (j : Job) (status ticks : Nat) : State :=
  let s := (s.writeRecord p j status ticks).logJob p j 3 status
  (s.updPart p fun q => { q with job := none, faults := [] }).trace p 1 j.place

/-! ### Faults at a descriptor, an image or an input block -/

/-- The alarm of a descriptor or input check, which names `HD` (Table 17.3), and the record of an integrity fault (R441). -/
def State.checkFailed (s : State) (p : Nat) (j : Job) (status : Nat) : State :=
  let s := if status / 256 = 3 then s.logRun p j status j.fault else s
  s.integrity status (alarmSource 18 (some p) 0)

/-- A job as a fault of `HD`'s own read leaves it: a beat check that fails at a port names `UNIT` 6, anything else no unit (Table 15.6). -/
def State.hubRead (s : State) (j : Job) (e : Nat) : Job × State :=
  let w := (s.badTower e).freePc { FaultRec.reset with unit := if e / 65536 = 9 then 6 else 0 }
  ({ j with fault := w.1 }, w.2)

/-- What a descriptor that is never checked gives its record: `TAG` and `NOEVT`. A fault met in reading it is
reported (R322, R441), and its `TAG` is free. -/
def State.glance (s : State) (p : Nat) (r : Ring) (j : Job) : Job × State :=
  match s.descriptor p r j.slot with
  | .ok bs => ({ j with tag := (readDesc bs).tag, noevt := (readDesc bs).noevt }, s.crossed)
  | .error e =>
    let b := s.freeBytes 8
    let w := b.2.hubRead { j with tag := leNat b.1 } e
    ({ w.1 with fault := j.fault }, (w.2.checkFailed p w.1 (statusOf e)).crossed)

/-! ### Flush (R378) -/

/-- Descriptors of a ring complete with 0x0701, oldest first, while its completion area has room. -/
def State.flushRing (s : State) (p k : Nat) : Nat → State
  | 0 => s
  | fuel + 1 =>
    let r := s.ring k
    if r.waiting = 0 ∨ r.size ≤ (r.cmpTail + 2 ^ 32 - r.cmpHead) % 2 ^ 32 then s
    else
      let slot := r.subHead % r.size
      let j := { Job.reset with ring := k, slot := slot }
      let e := s.glance p r j
      State.flushRing ((e.2.writeRecord p e.1 0x0701 0).logJob p e.1 3 0x0701).crossed p k fuel

/-- The flush goes on while no job is in hand; it ends when no descriptor of the partition is left. -/
def State.flushRings (s : State) (p : Nat) : State :=
  if !(s.part p).flushing || (s.part p).job.isSome then s
  else
    let s := (s.ringsOf p).foldl (fun s e => if e.2.size = 0 then s else s.flushRing p e.1 e.2.waiting) s
    s.updPart p fun q => { q with flushing := (s.ringsOf p).any fun e => e.2.size != 0 && e.2.waiting != 0 }

/-! ### Checking (R347) -/

/-- A check fails: the fault is reported, and the job completes with its status. -/
def State.failCheck (s : State) (p : Nat) (j : Job) (e : Nat) : State :=
  let w := s.hubRead j e
  (w.2.checkFailed p w.1 (statusOf e)).completeJob p w.1 (statusOf e) 0

/-- A job in `CHECKING`: its descriptor read from its slot, checked, and its cores staged; a check that fails completes it. -/
def State.enterChecking (s : State) (p : Nat) (j : Job) (first : Bool) : State :=
  let r := s.ring j.ring
  match s.descriptor p r j.slot with
  | .error e =>
    let b := s.freeBytes 8
    let j := if first then { j with tag := leNat b.1 } else j
    b.2.crossed.failCheck p j e
  | .ok bs =>
    let d := readDesc bs
    let j := { j with state := 1, restartable := d.restartable, noevt := d.noevt, progWin := d.progWin, progOff := d.progOff, tlimit := d.tlimit,
                      tag := d.tag, ready := true }
    let c := s.crossed.checkJob p bs (if first then some r.nextAlive else none)
    let s := s.afterBeats (1 + d.accesses)
    let s := if c.1 then s.updRing j.ring fun r => { r with nextAlive := (d.inAlive + 1) % 2 ^ 32 } else s
    match c.2 with
    | .error e => s.failCheck p j e
    | .ok g =>
      let pl := (s.part p).placement
      let segOf (k : Nat) : Nat × Nat := g.segs.getD k (0, 0)
      let j := { j with cached := (numAt g.header 4 1).testBit 0, cores := g.covered.map fun e => pl.core e.1,
                        assign := g.covered.map fun e => (pl.core e.1, (segOf e.2.1).1, (segOf e.2.1).2), pageTable := g.pages }
      let s := (s.stageCores p d g).updPart p fun q => { q with job := some j }
      if first then [0, 1, 2, 3].foldl (fun s l => s.trace p 2 (declBytes g.header l)) s else s

/-! ### Selection (R345, R406) -/

/-- May the partition choose a job: it is ready, idle, and neither held nor flushing. -/
def State.maySelect (s : State) (p : Nat) : Bool :=
  let q := s.part p
  s.hub.phase == .running && q.state == 2 && q.job.isNone && !q.held && !q.flushing

/-- A ring that has a descriptor and a free completion slot. -/
def Ring.eligible (r : Ring) : Bool :=
  r.size != 0 && r.subTail != r.subHead && decide ((r.cmpTail + 2 ^ 32 - r.cmpHead) % 2 ^ 32 < r.size)

/-- The better of two rings: higher `PRIO`, then nearer above the last one served. -/
def betterRing (last : Nat) (a b : Nat × Ring) : Bool :=
  decide (b.2.prio < a.2.prio) || (a.2.prio == b.2.prio && decide ((a.1 + 65535 - last) % 32768 < (b.1 + 65535 - last) % 32768))

/-- The ring that the next job comes from. -/
def State.chooseRing (s : State) (p : Nat) : Option (Nat × Ring) :=
  ((s.ringsOf p).filter fun e => e.2.eligible).foldl (fun a e => match a with
    | none => some e
    | some b => if betterRing (s.part p).lastRing e b then some e else some b) none

/-- `JOB_SELECTION`: the next descriptor is selected and checked; of a marked partition one descriptor completes with 0x0501, then none is
taken (R345, R373, R406). -/
def jobSelectionStep (p : Nat) (s : State) : State :=
  let q := s.part p
  if !s.maySelect p || (q.marked && q.preempted) then s
  else match s.chooseRing p with
    | none => s
    | some e =>
      let j := { Job.reset with state := 1, ring := e.1, slot := e.2.subHead % e.2.size }
      let s := s.updPart p fun q => { q with lastRing := e.1, preempted := q.marked, job := some j }
      let s := (s.logJob p j 1 0).trace p 1 j.place
      if q.marked then
        let g := s.glance p e.2 j
        (g.2.count p cPreempted 1 0xFFFFFFFF).completeJob p g.1 0x0501 0
      else s.enterChecking p j true

def execJobSelection (p : Nat) (h : Harm) (s : State) : Host.Outcome State Fault Refusal := act (partOk p) s (jobSelectionStep p (s.suffer h))

/-! ### The start of a run (Table 9.6, R130, R149, R226, R277) -/

/-- Macros of a partition's placed cores, with their keys. -/
def State.partMacros (s : State) (p : Nat) : Map Macro := s.macros.filter fun e => (s.core (macCore e.1)).part == some p

/-- A macro still has work of the boundary before it: a due calibration, a rebuild, a restore (R95, R99, R101). -/
def Macro.holdsStart (m : Macro) : Bool :=
  m.cfg.enable && (m.bankA.due || m.bankB.due || m.rebuildHold || m.pages.any fun e => m.restorable e.1)

/-- `REWRITABLE` of the macros that the page table names, where no valid page stands in the way (R277). -/
def State.setRewritable (s : State) (p : Nat) (pages : List Nat) : State :=
  pages.foldl (fun s e => match (s.part p).placement.macroAt (pgLogical e) with
    | none => s
    | some k => if (s.mac k).holdsValid || (s.mac k).cfg.rewritable == pgRewr e then s
      else s.updMac k fun m =>
        { m with cfg := { m.cfg with rewritable := pgRewr e }, staged := { m.staged with rewritable := pgRewr e } }) s

/-- The commits of a partition's macros that still wait act at the boundary (R58, R68). -/
def State.commitMacros (s : State) (p : Nat) : State :=
  { s with macros := mmap s.macros Macro.reset fun k m => if (s.core (macCore k)).part = some p then m.applyCommit else m }

/-- A core at a job start: staged copies act, `CORE_FAULT` and the state of Table 4.21 are cleared. -/
def Core.atStart (k : Core) : Core := { k.applyCommit.clearWork with faultValid := false, faultPc := 0, faultStatus := 0 }

/-- A macro at a job start (Table 4.21, R177). -/
def Macro.atStart (m : Macro) : Macro := { m.clearWork with lastSigma := 0 }

/-- An engine at a job start (R226, R236). -/
def Skink.atStart (x : Skink) : Skink :=
  { x.clear with sigma := 0, faultValid := false, faultDie := 0, faultX := 0, faultY := 0, faultStatus := 0 }

/-- The units of the partition at a job start; its engines' accumulator memories are cleared with them (R226). -/
def State.startUnits (s : State) (p : Nat) : State :=
  let s := s.clearSkinks p
  { s with cores := mmap s.cores Core.reset fun _ k => if k.part = some p then k.atStart else k,
           macros := mmap s.macros Macro.reset fun k m => if (s.core (macCore k)).part = some p then m.atStart else m,
           skinks := mmap s.skinks Skink.reset fun _ x => if x.enable ∧ x.part = p then x.atStart else x }

/-- A participating core fetches instruction 0 of its segment. -/
def State.startCore (s : State) (a : Nat × Nat × Nat) : State :=
  s.updCore a.1 fun k => { k with inJob := true, ran := true, state := 1, pc := 0, segStart := a.2.1, segCount := a.2.2 }

/-- `JOB_START`: when the work of the boundary has ended, the run begins. -/
def jobStartStep (p : Nat) (s : State) : State :=
  match (s.part p).job with
  | none => s
  | some j =>
    if j.state ≠ 1 ∨ !j.ready ∨ (s.partMacros p).any fun e => e.2.holdsStart then s
    else
      let j := { j with state := 2, ready := false, startTick := s.hub.tick, ran := true, rescaled := false, longsum := false, audited := false,
                        wrote := [] }
      let s := ((s.commitMacros p).setRewritable p j.pageTable).startUnits p
      let s := j.assign.foldl State.startCore s
      let s := s.updPart p fun q =>
        { q with job := some j, faults := [], policy := s.dval 0x9010 p 1 0, barriers := [], cacheLines := [], pageTable := some j.pageTable }
      s.logJob p j 2 0

def execJobStart (p : Nat) (s : State) : Host.Outcome State Fault Refusal := act (partOk p) s (jobStartStep p s)

/-! ### Faults, the time limit, kills (R348, R375, R378, R379) -/

/-- `TIME_LIMIT`: a job still running `TLIMIT` ms after its first instruction faults. -/
def timeLimitStep (p : Nat) (s : State) : State :=
  match (s.part p).job with
  | none => s
  | some j =>
    if j.state = 2 ∧ j.tlimit ≠ 0 ∧ j.tlimit * 10 ^ 6 ≤ (s.hub.tick - j.startTick) * 240 ∧ !(s.part p).faults.any (fun f => f.status == 0x0706) then
      s.updPart p fun q => { q with faults := q.faults ++ [{ FaultRec.reset with status := 0x0706 }] }
    else s

def execTimeLimit (p : Nat) (s : State) : Host.Outcome State Fault Refusal := act (partOk p) s (timeLimitStep p s)

/-- The order of Table 17.1 within one tick: `UNIT`, die, y, x, status. -/
def FaultRec.before (a b : FaultRec) : Bool :=
  let key (f : FaultRec) : Nat := (((f.unit * 16 + f.die % 16) * 16 + f.y % 16) * 16 + f.x % 16) * 65536 + f.status % 65536
  decide (key a < key b)

/-- The first fault of a tick. -/
def firstFault (f : FaultRec) (fs : List FaultRec) : FaultRec := fs.foldl (fun a b => if b.before a then b else a) f

/-- Strikes of the faults sampled (R439). -/
def State.chargeFaults (s : State) (fs : List FaultRec) : State := fs.foldl (fun s f => if f.charge = 0 then s else s.strike (f.charge - 1)) s

/-- The units of a partition stop in the tick of a fault or a kill (R375): open page operations are undone and swaps disarmed, every other piece of
queued work is abandoned (R150, R226, R244). A core's program counter and a product's accumulators stay until the clear. -/
def Core.halt (k : Core) : Core := { k with busy := [], dmaQ := [], memQ := [], haloTx := [], haloRx := [], sktQ := [], sktOut := 0, swps := [] }
def Macro.halt (m : Macro) : Macro := { m with queue := [], accepted := false, run := none, drainBuf := none }
def State.stopUnits (s : State) (p status : Nat) : State :=
  let s := s.abortMacros p status
  { s with cores := mmap s.cores Core.reset fun _ k => if k.part = some p then k.halt else k,
           macros := mmap s.macros Macro.reset fun k m => if (s.core (macCore k)).part = some p then m.halt else m,
           skinks := mmap s.skinks Skink.reset fun _ x => if x.enable ∧ x.part = p then { x with queue := [], draining := [] } else x,
           engines := mmap s.engines Engine.reset fun _ x => { x with queue := x.queue.filter fun e => e.1 != p } }

/-- A job enters `STOPPING` with its status and the unit it names, and its run's end is logged. -/
def State.stopJob (s : State) (p : Nat) (j : Job) (status : Nat) (f : FaultRec) (killed : Bool) : State :=
  ((s.updJob p fun j => { j with state := 3, status := status, fault := f, killed := j.killed || killed }).logRun p j status f).stopUnits p status

/-- The record of a fault that stops no job: of the job in hand, or of none (R441). -/
def State.recordFault (s : State) (p : Nat) (g : FaultRec) : State :=
  match (s.part p).job with
  | some j => s.logRun p j g.status g
  | none => s.outsideRecord (some p) g

/-- The device samples the faults that a partition's units have reported: each has its counter and alarm (R441, R467) and strikes whom it is
charged to; the first stops a running job and is its status. Every other fault is recorded too (R17). -/
def faultStep (p : Nat) (s : State) : State :=
  match (s.part p).faults with
  | [] => s
  | f :: fs =>
    let s := (s.updPart p fun q => { q with faults := [] }).chargeFaults (f :: fs)
    let s := (f :: fs).foldl (fun s g => s.integrity g.status g.source) s
    let others (s : State) (gs : List FaultRec) : State := gs.foldl (fun s g => s.recordFault p g) s
    match (s.part p).job with
    | none => others s (f :: fs)
    | some j =>
      if j.state ≠ 2 then others s (f :: fs)
      else
        let first := firstFault f fs
        let w := s.freePc first
        others (w.2.stopJob p j w.1.status w.1 false) ((f :: fs).erase first)

/-- The faults of every partition are sampled at the boundary that opens a tick (R467, rank 4 of Table 17.1). -/
def State.sampleFaults (s : State) : State := (List.range 16).foldl (fun s p => faultStep p s) s

def execFault (p : Nat) (s : State) : Host.Outcome State Fault Refusal := act (partOk p) s (faultStep p s)

/-- `ACTION` 1 of 0x2010. A fault already reported in the tick ranks above the kill (R379). -/
def State.kill (s : State) (p : Nat) : State :=
  let s := faultStep p s
  match (s.part p).job with
  | none => s
  | some j =>
    if j.state = 1 then (s.updJob p fun j => { j with state := 3, status := 0x0701, killed := true, ready := false }).stopUnits p 0x0701
    else if j.state = 2 then s.stopJob p j 0x0701 FaultRec.reset true
    else s.updJob p fun j => { j with killed := true, state := if j.state = 4 ∧ j.cleared then 5 else j.state }

/-- `ACTION` 2: kill, flush, and hold. -/
def State.flush (s : State) (p : Nat) : State := ((s.kill p).updPart p fun q => { q with held := true, flushing := true }).flushRings p

/-- `ACTION` 3. -/
def State.hold (s : State) (p : Nat) : State := s.updPart p fun q => { q with held := true }

/-- `ACTION` 4. -/
def State.release (s : State) (p : Nat) : State := s.updPart p fun q => { q with held := false }

/-! ### Stopping and clearing (R375 to R377) -/

/-- The cores and macros of the partition leave what they held of the run; its engines do so at the end of their clear (R226). -/
def State.abandon (s : State) (p : Nat) : State :=
  let ds := s.partDies p
  { s with cores := mmap s.cores Core.reset fun c k => if ds.contains (coreDie c) then k.clearWork else k,
           macros := mmap s.macros Macro.reset fun k m => if ds.contains (macCore k / 272) then m.clearWork else m }

/-- `UNITS_STOPPED`: every unit has reported stopped, and the clears start. -/
def unitsStoppedStep (p : Nat) (s : State) : State :=
  match (s.part p).job with
  | none => s
  | some j =>
    if j.state ≠ 3 then s
    else ((s.abandon p).updJob p fun j => { j with state := 4, cleared := false }).updPart p fun q => { q with barriers := [], credits := [] }

def execUnitsStopped (p : Nat) (s : State) : Host.Outcome State Fault Refusal := act (partOk p) s (unitsStoppedStep p s)

/-- The run may be repeated: the rules of R380 and Table 13.6 but for the count. -/
def Job.again (j : Job) (replaced : Bool) : Bool := j.status / 256 == 3 && j.restartable && !j.killed && !replaced

/-- `CLEARING_COMPLETE`: the clears of Table 13.3 have ended; what the run wrote to package DRAM is of undetermined content (R374). The job completes
where no restart follows; else it stays in `CLEARING` until the boundary (Table 13.2). -/
def clearingStep (p : Nat) (s : State) : State :=
  match (s.part p).job with
  | none => s
  | some j =>
    if j.state ≠ 4 ∨ j.cleared ∨ (s.partMacros p).any fun e => e.2.testPage.isSome then s
    else
      let s := ((s.partDies p).foldl (fun s d => s.clearDie d false) s).clearSkinks p
      let s := (s.zeroExtents (s.plazaPages p)).forget j.wrote
      s.updJob p fun j =>
        { j with state := if j.again false && decide (j.restarts < 3) && (s.part p).reload.isEmpty then 4 else 5, cleared := true, wrote := [] }

def execClearingComplete (p : Nat) (s : State) : Host.Outcome State Fault Refusal := act (partOk p) s (clearingStep p s)

/-! ### The boundary (R296, R373, R380 to R382) -/

/-- An armed swap takes effect (R92, R115). -/
def Macro.swapBanks (m : Macro) : Macro :=
  if m.armed then
    { m with liveB := !m.liveB, armed := false, shadow := m.shadow.map fun (e : Nat × Nat) => (e.1, if e.2 = 2 then 3 else e.2),
             stats := { m.stats with swaps := satAdd 0xFFFF m.stats.swaps 1 } }
  else m

/-- Tick b of Table 9.6: bank swaps, spares, waiting versions, staged configurations, the debug mode. The spares are all taken before the placement swap
(R29). Answers whether a macro or core was replaced. -/
def State.boundary (s : State) (p : Nat) : State × Bool :=
  let mine (k : Nat) : Bool := (s.core (macCore k)).part == some p
  let s := { s with macros := mmap s.macros Macro.reset fun k m => if mine k then m.swapBanks else m }
  let r := s.takeSpares p
  let s := r.1.swapVersions p
  let s := { s with cores := mmap s.cores Core.reset fun _ k => if k.part = some p then k.applyCommit else k,
                    macros := mmap s.macros Macro.reset fun k m => if (s.core (macCore k)).part = some p then m.applyCommit else m,
                    skinks := mmap s.skinks Skink.reset fun _ x => if x.awaits = p then x.commitConfig else x }
  (s.settleDebug p, r.2)

/-- The boundary is reached: every participating core has ended and is quiet with no fault reported, or the clearing is over and no rebuild
staged after the fault still runs (R101, R374). -/
def State.atEnd (s : State) (p : Nat) (j : Job) : Bool :=
  (j.state == 2 && (s.part p).faults.isEmpty && j.cores.all fun c => (s.core c).ended && s.quiet c) ||
    (j.cleared && !(s.partMacros p).any fun e => e.2.rebuildHold)

/-- Ticks since the first instruction of the last run. -/
def State.runTicks (s : State) (j : Job) : Nat := if j.ran then s.hub.tick - j.startTick else 0

/-- `JOB_BOUNDARY`: the boundary's actions, then a restart or the completion record, then what is left of a flush. -/
def jobBoundaryStep (p : Nat) (s : State) : State :=
  match (s.part p).job with
  | none => s
  | some j =>
    if !s.atEnd p j || s.hub.phase == .tripped then s
    else
      let b := s.boundary p
      let s := b.1
      if j.again b.2 && decide (j.restarts < 3) && (s.part p).reload.isEmpty then
        let n := { j with restarts := j.restarts + 1, state := 1, status := 0, fault := FaultRec.reset, rescaled := false, longsum := false,
                          audited := false, cleared := false, wrote := [] }
        ((s.count p cRestarts 1 0xFFFFFFFF).trace p 1 j.place).enterChecking p n false
      else
        let status := if j.again b.2 && j.restarts == 3 then 0x0702 else j.status
        (s.completeJob p j status (s.runTicks j)).crossed.flushRings p

def execJobBoundary (p : Nat) (h : Harm) (s : State) : Host.Outcome State Fault Refusal := act (partOk p) s (jobBoundaryStep p (s.suffer h))

end Sys2Proof.Machine
end

