-- ==== Sys2Proof/Machine/Commit.lean ====
section
/-! DEFINITION. Commits of the blocks that set the device, a port, a partition's power or a ring: what each refuses and what it does (R14, R108,
R327, R329, R336, R342, R360, R366, R378, R417 to R422, R435, R471, R476, R478, R497). -/

namespace Sys2Proof.Machine

/-- What a commit comes to: the refusal's status, or the new state and the sessions that close in its tick. -/
abbrev Verdict := Except Nat (State × List Nat)

/-- A staged value as a number, and as bytes. -/
def Staged.num (c : Staged) (sub : Nat) : Nat := leNat (mget c.vals [] sub)
def Staged.bytes (c : Staged) (sub : Nat) : List Byte := mget c.vals [] sub

/-- Every RWS entry that the test keeps takes its staged value. -/
def State.store (s : State) (c : Staged) (keep : Nat → Bool) : State :=
  { s with dict := c.vals.foldl (fun m e => if keep e.1 then mset m [] (dkey c.block c.inst e.1) e.2 else m) s.dict }

/-- Some value lies outside its range (sub-index, lowest, highest). -/
def Staged.outside (c : Staged) (rs : List (Nat × Nat × Nat)) : Bool := rs.any fun r => decide (c.num r.1 < r.2.1 ∨ r.2.2 < c.num r.1)

/-- A block whose values are checked by range and then stand, with an effect. -/
def State.settle1 (s : State) (c : Staged) (rs : List (Nat × Nat × Nat)) (f : State → State) : Verdict :=
  if c.outside rs then .error 0x0104 else .ok (f (s.store c fun _ => true), [])

/-! ### Device settings -/

/-- 0x1020 (Table 11.7). -/
def commitSlp (s : State) (c : Staged) : Verdict := s.settle1 c [(1, 200, 64000)] fun s => s

/-- 0x1040 (Table 11.3). -/
def commitTime (s : State) (c : Staged) : Verdict := s.settle1 c [(1, 0, 16)] fun s => s

/-- A port block's values (Table 11.2): refused with 0x0603. -/
def badPort (p : Nat) (c : Staged) : Bool :=
  decide ((if p = 16 then 2 else 3) < c.num 1 ∨ 2 < c.num 2 ∨ 2 ^ 48 ≤ c.num 3 ∨ 1 < c.num 9) || !((c.bytes 5).length == 0 || (c.bytes 5).length == 16) ||
    !(c.num 8 == 1500 || c.num 8 == 9000)

/-- 0x1100..0x1110 (R327): a new mode, role or MTU drops the link. -/
def commitPort (s : State) (c : Staged) : Verdict :=
  let p := indexPort c.block
  if badPort p c then .error 0x0603
  else
    let drops := s.portVal p 1 != c.num 1 || s.portVal p 2 != c.num 2 || s.portVal p 8 != c.num 8
    let t := s.store c fun _ => true
    .ok (if drops then t.updPort p fun q => { q with link := 0 } else t, [])

/-- 0x5110 (Table 3.7). -/
def commitMaintenance (s : State) (c : Staged) : Verdict := s.settle1 c [(1, 100, 5000), (2, 2, 20), (3, 1, 600)] fun s => s

/-- 0x5120 and 0x5210 (Tables 15.3, 10.9). -/
def commitPatrol (s : State) (c : Staged) : Verdict := s.settle1 c [(1, 1, 168)] fun s => s

/-! ### Power -/

/-- 0x3000 (R366): the new budget and the shares act in this tick. -/
def commitBudget (s : State) (c : Staged) : Verdict := s.settle1 c [(1, 400, 3400)] State.setBaseShares

/-- 0x3010 (R366). -/
def commitWeight (s : State) (c : Staged) : Verdict := s.settle1 c [(1, 1, 1000)] State.setBaseShares

/-- 0x3020 (R417): a lower host maximum decides a lower level. -/
def commitPace (s : State) (c : Staged) : Verdict :=
  s.settle1 c [(1, 0, 7)] fun s => if s.hostCap c.inst < (s.part c.inst).level then s.requestLevel c.inst (s.hostCap c.inst) else s

/-- A rail's word that R419 refuses: reserved bits, an AVSBus code, an AVSBus field on a fixed rail, a reserved PMBus address. -/
def badRail (rail v : Nat) : Bool :=
  decide (2 ^ 23 ≤ v) || decide (2 < v / 16 % 16) || (decide (18 ≤ rail) && v % 256 != 0) ||
    (v / 2 ^ 16 % 128 != 0 && Config.pmbusReserved (v / 2 ^ 16 % 128))

/-- 0x3040 (R419): what is committed acts at the next 1 ms reading. -/
def commitRails (s : State) (c : Staged) : Verdict :=
  if (List.range 24).any fun r => badRail r (c.num (r + 1)) then .error 0x0104
  else .ok (s.updPower fun w => { w with newRails := some ((List.range 24).map fun r => c.num (r + 1)) }, [])

/-- 0x3050 (R420). -/
def commitAlert (s : State) (c : Staged) : Verdict := .ok (s.store c fun _ => true, [])

/-- 0x4000 (R422). -/
def commitThermal (s : State) (c : Staged) : Verdict := s.settle1 c [(1, 85, 100)] fun s => s

/-- 0x9010 (Table 5.7): the policy acts at the next job start. -/
def commitOverflow (s : State) (c : Staged) : Verdict := s.settle1 c [(1, 0, 1)] fun s => s

/-! ### Logs, alarms, traces (R471, R475, R476) -/

/-- A session that a stream may go to. -/
def State.streamOk (s : State) (n : Nat) (ok : Session → Bool) : Bool :=
  n == 0 || (match s.session n with | none => false | some q => ok q)

/-- Clears the latches of a mask whose condition does not hold; replace-me stays. -/
def State.clearAlarms (s : State) (mask : Nat) : State :=
  (List.range 15).foldl (fun s a =>
    if mask.testBit a && a != 12 && !s.alarmActive a then s.updHub fun h => { h with alarms := mset h.alarms Alarm.reset a Alarm.reset } else s) s

/-- 0x7000: a stream that changes its session begins with the next record. -/
def commitAlarms (s : State) (c : Staged) : Verdict :=
  if 2 ^ 15 ≤ c.num 2 ∨ !s.streamOk (c.num 3) s.isAdmin then .error 0x0104
  else
    let t := (s.store c fun _ => true).clearAlarms (c.num 2)
    .ok (if s.dval 0x7000 0 3 0 = c.num 3 then t else t.updHub fun h => { h with stream := h.log.next }, [])

/-- 0x7020. -/
def commitTrace (s : State) (c : Staged) : Verdict :=
  if 32 ≤ c.num 2 ∨ !s.streamOk (c.num 1) (fun q => q.part == c.inst) then .error 0x0104
  else
    let t := s.store c fun _ => true
    .ok (if s.dval 0x7020 c.inst 1 0 = c.num 1 then t else t.updPart c.inst fun q => { q with stream := q.log.next }, [])

/-! ### Job control (R378, Table 13.5) -/

/-- 0x2010: kill, flush, hold, release. -/
def commitJob (s : State) (c : Staged) : Verdict :=
  let p := c.inst
  s.settle1 c [(1, 0, 4)] fun s =>
    if c.num 1 = 1 then s.kill p else if c.num 1 = 2 then s.flush p else if c.num 1 = 3 then s.hold p else if c.num 1 = 4 then s.release p else s

/-! ### Placement (R297) -/

/-- 0x2100: a full placement from the profile begins to build, or the reload list is emptied. -/
def commitPlacement (s : State) (c : Staged) : Verdict :=
  let p := c.inst
  let n := (c.bytes 3).length
  if 2 < c.num 4 ∨ (n ≠ 0 ∧ n ≠ 512 * (s.partDies p).length + 4) then .error 0x0104
  else
    let t := s.store c fun _ => true
    if c.num 4 = 1 then
      .ok (t.updPart p fun q =>
        { q with waiting := some (t.fullPlacement p (c.bytes 3)), nextVersion := q.nextVersion + 1,
                 building := if q.building.contains 0x2100 then q.building else q.building ++ [0x2100] }, [])
    else if c.num 4 = 2 then .ok (t.updPart p fun q => { q with reload := [] }, [])
    else .ok (t, [])

/-! ### Rings (R342, R497) -/

/-- A descriptor waits, or a job of the ring is in hand. -/
def State.ringBusy (s : State) (k : Nat) : Bool :=
  (s.ring k).waiting != 0 || s.parts.any fun e => match e.2.job with | none => false | some j => j.ring == k

/-- `SIZE`, `RWIN` or an area is wrong (0x0709); a ring that belongs to no partition has no window, and can only be disabled (log entry 25). -/
def State.badArea (s : State) (v : Nat → Nat) : Bool :=
  let size := v 3
  let w := s.window (v 2) (v 4)
  if 16 ≤ v 2 then size != 0
  else (size != 0 && !(List.range 16).any (fun i => 2 ^ i == size)) || !w.isOpen || decide (2 < w.target) || v 5 % 64 != 0 ||
    v 6 % 32 != 0 || decide (w.size < v 5 + 64 * size ∨ w.size < v 6 + 32 * size)

/-- 0x8100. -/
def commitRing (s : State) (q : Session) (c : Staged) : Verdict :=
  let k := c.num 1
  let r := s.ring k
  let part := if s.isAdmin q then c.num 2 else r.part
  let v (sub : Nat) : Nat := if sub = 2 then part else c.num sub
  if !s.isAdmin q ∧ r.part ≠ q.part then .error 0x0410
  else if (16 ≤ part ∧ part ≠ 255) ∨ 3 < c.num 7 ∨ 32768 ≤ k then .error 0x0104
  else if s.ringBusy k then .error 0x0708
  else if s.badArea v then .error 0x0709
  else
    .ok ((s.store c fun i => i == 1).setRing k
      { part := part, size := c.num 3, rwin := c.num 4, subOff := c.num 5, cmpOff := c.num 6, prio := c.num 7, sess := c.num 8, alive0 := c.num 9,
        subHead := 0, subTail := 0, cmpHead := 0, cmpTail := 0, nextAlive := c.num 9, cmpAlive := 0, written := 0, energy := 0, counted := 0 }, [])

/-! ### Windows and partitions -/

/-- 0x8400 (R314). -/
def commitWin (s : State) (c : Staged) : Verdict :=
  match s.commitWindow c.inst c.num with
  | .error e => .error e
  | .ok t => .ok (t.store c fun i => i == 1, [])

/-- 0x2000 (R365, R372). A commit with `ACTION` 0 leaves every value in force. -/
def commitPart (s : State) (c : Staged) : Verdict := s.commitPartition c.inst c.num

end Sys2Proof.Machine
end

