-- ==== Sys2Proof/Machine/Queries.lean ====
section
/-! DEFINITION. Page CRC queries and the debug reads of accumulators (R107, R179, R180), and the commands that end a unit's instruction. -/

namespace Sys2Proof.Machine

/-- A value of a partition's block that a query leaves. -/
def State.leave (s : State) (index p sub : Nat) (v : List Byte) : State := { s with dict := mset s.dict [] (dkey index p sub) v }

/-! ### Page CRCs (Table 3.6) -/

/-- The page that a query names: logical macro and page number, or the refusal. -/
def State.queryTarget (s : State) (p : Nat) : Except Nat (Nat × Nat) :=
  let a := s.dval 0x5130 p 1 0
  if s.dval 0x5130 p 3 0 = 0 then
    match (s.part p).pageTable with
    | none => .error 0x0418
    | some t => match t.drop a with
      | [] => .error 0x0418
      | e :: _ => .ok (pgLogical e, pgPage e)
  else if (s.partDies p).length ≤ a / 2 ^ 28 then .error 0x0410
  else .ok (16 * logicalKey (a / 2 ^ 28 % 16) (a / 2 ^ 24 % 16) (a / 2 ^ 20 % 16) + a / 2 ^ 16 % 16, a % 64)

/-- The macro and physical page that a query reads, or its result. A logical macro with no physical one has no valid page. -/
def State.queryPage (s : State) (p : Nat) : Except Nat (Nat × Nat) :=
  match s.queryTarget p with
  | .error e => .error e
  | .ok t =>
    match (s.part p).placement.macroAt t.1 with
    | none => .error 0x0110
    | some k =>
      let m := s.mac k
      let shadow := s.dval 0x5130 p 2 0 == 2
      if s.dval 0x5130 p 3 0 = 1 ∧ m.cfg.rewritable ∧ 32 ≤ t.2 then .error 0x0113
      else if shadow ∧ !m.cfg.rewritable then .error 0x0209
      else
        let page := if shadow then m.shadowPage (t.2 % 32) else m.livePage t.2
        if (m.page page).lost then .error 0x0302 else if !(m.page page).valid then .error 0x0110 else .ok (k, page)

/-- A page read through the verify path: every suspect row decoded, corrected rows rewritten (R84, R107). -/
def remeasure (p : Page) (fresh : Nat) : Page × Nat × Bool × List (Nat × List Nat) :=
  p.suspects.foldl (fun a r =>
    let d := decodeRow a.1 a.2.1 r
    (d.page, d.fresh, a.2.2.1 || d.uncorrectable, if d.corrected then a.2.2.2 ++ [(r, d.lanes)] else a.2.2.2)) (p, fresh, false, [])

/-- The result of a query, with the CRC and `GEN` where it is 0. -/
def State.answerQuery (s : State) (p result : Nat) (found : Option (Nat × Nat)) : State :=
  let s := (s.leave 0x5130 p 0x12 (leBytes 2 result)).leave 0x5130 p 0x13 [0]
  match found with
  | none => s
  | some f => (s.leave 0x5130 p 0x10 (leBytes 4 f.1)).leave 0x5130 p 0x11 (leBytes 1 f.2)

/-- Mode 1: the page is read between products, and its CRC formed of what its cells hold. An uncorrectable codeword is the query's result, an integrity
fault outside the job, and leaves the page's attributes as they are: a remeasure is no event of R74 (log entry 54). -/
def State.remeasurePage (s : State) (p k page : Nat) : State :=
  let r := remeasure ((s.mac k).page page) s.fresh
  let s := { s with fresh := r.2.1 }.updMac k fun m =>
    { ((m.updPage page fun _ => r.1).useBank (decide (32 ≤ page)) s.hub.tick) with stats := { m.stats with verifyRewrites := satAdd 255 m.stats.verifyRewrites r.2.2.2.length } }
  let s := r.2.2.2.foldl (fun s e => s.chargeLanes k page e.1 e.2) s
  let c := macCore k
  if r.2.2.1 then (s.outsideFault (s.partOf c) (coreDie c) (coreFault (s.core c) 0x0302 2 0)).answerQuery p 0x0302 none
  else s.answerQuery p 0 (some ((r.1.crcNow).toNat, r.1.gen % 256))

/-- A query of the values in force, if its macro stands between products; it waits otherwise. -/
def State.query (s : State) (p : Nat) : State :=
  match s.queryPage p with
  | .error e => s.answerQuery p e none
  | .ok (k, page) =>
    if s.dval 0x5130 p 2 0 = 1 then (if (s.mac k).betweenProducts then s.remeasurePage p k page else s.leave 0x5130 p 0x13 [1])
    else s.answerQuery p 0 (some (((s.mac k).page page).crc.toNat, ((s.mac k).page page).gen % 256))

/-- 0x5130: a malformed query is refused with 0x0206, one that names no page to read with its own status (R107, R360); any other begins. -/
def commitQuery (s : State) (c : Staged) : Verdict :=
  if 2 < c.num 2 ∨ 1 < c.num 3 ∨ (c.num 3 = 1 ∧ c.num 1 / 64 % 1024 ≠ 0) then .error 0x0206
  else
    let t := s.store c fun _ => true
    match t.queryPage c.inst with
    | .error e => .error e
    | .ok _ => .ok (t.query c.inst, [])

/-! ### Accumulators (Table 5.9) -/

/-- The unit of the partition that a debug read names: a macro, or an engine as 100000 + e. -/
def State.peekTarget (s : State) (p : Nat) : Option Nat :=
  let a := s.dval 0xA020 p 1 0
  if s.dval 0xA020 p 2 0 = 2 then
    let e := mget (s.part p).placement.skinks 36 (a % 65536)
    if e < 36 then some (100000 + e) else none
  else if (s.part p).placement.dies.length ≤ a / 2 ^ 28 then none
  else (s.part p).placement.macroAt (16 * logicalKey (a / 2 ^ 28 % 16) (a / 2 ^ 24 % 16) (a / 2 ^ 20 % 16) + a / 2 ^ 16 % 16)

/-- The 32-bit words of a kind, and the chain shift at the offset read. -/
def State.peekWords (s : State) (p unit : Nat) : List Nat × Nat :=
  let off := s.dval 0xA020 p 3 0 / 4
  let n := s.dval 0xA020 p 4 1024 / 4
  let kind := s.dval 0xA020 p 2 0
  if kind = 2 then
    let x := s.skink (unit - 100000)
    (((List.range n).map (off + ·)).filterMap fun i => if i < 65536 then some (mget x.acc 0 i).toNat else none, mget x.chainSigma 0 (off / 256))
  else
    let m := s.mac unit
    (((List.range n).map (off + ·)).filterMap fun i => if i < 256 then some (u32 (mget m.acc 0 (256 * kind + i))) else none, m.sigma)

/-- The result of a debug read. -/
def State.answerPeek (s : State) (p result : Nat) (found : Option (List Byte × Nat)) : State :=
  let s := (s.leave 0xA020 p 0x12 (leBytes 2 result)).leave 0xA020 p 0x13 [0]
  match found with
  | none => s
  | some f => (s.leave 0xA020 p 0x10 f.1).leave 0xA020 p 0x11 (leBytes 1 f.2)

/-- The unit stands between two instructions: no step of a product runs, nor has a preload set the accumulators of one that is still to start. -/
def State.unitIdle (s : State) (unit : Nat) : Bool :=
  if unit < 100000 then (match (s.mac unit).run with | none => true | some r => !r.started && !r.preloaded) else (s.skink (unit - 100000)).draining.isEmpty

/-- A fault or kill of the partition's job has not been followed by its clears yet (R180). -/
def State.unclean (s : State) (p : Nat) : Bool :=
  match (s.part p).job with
  | none => false
  | some j => j.state == 3 || (j.state == 4 && !j.cleared) || !(s.part p).faults.isEmpty

/-- A debug read of the values in force, if its unit stands between two instructions and no clear is due; it waits otherwise. -/
def State.peek (s : State) (p : Nat) : State :=
  if (s.part p).debug ≠ 1 then s.answerPeek p 0x0411 none
  else match s.peekTarget p with
    | none => s.answerPeek p 0x0410 none
    | some u =>
      if s.unitIdle u && !s.unclean p then
        let r := s.peekWords p u
        s.answerPeek p 0 (some (r.1.flatMap fun w => leBytes 4 w, r.2))
      else s.leave 0xA020 p 0x13 [1]

/-- 0xA020: values out of range, a partition not in debug mode and a unit that is not the caller's are refused (R179, R360). -/
def commitPeek (s : State) (c : Staged) : Verdict :=
  let t := s.store c fun _ => true
  if 2 < c.num 2 ∨ c.num 3 % 4 ≠ 0 ∨ c.num 4 < 4 ∨ 1024 < c.num 4 ∨ c.num 4 % 4 ≠ 0 then .error 0x0104
  else if (s.part c.inst).debug ≠ 1 then .error 0x0411
  else if (t.peekTarget c.inst).isNone then .error 0x0410
  else .ok (t.peek c.inst, [])

/-- Queries and debug reads that waited for their unit go on: as a product or a tile of it ends, or with the tick (R107, R179). -/
def State.settleQueries (s : State) : State :=
  (List.range 16).foldl (fun s p =>
    let s := if s.dval 0x5130 p 0x13 0 = 1 then s.query p else s
    if s.dval 0xA020 p 0x13 0 = 1 then s.peek p else s) s

def execProductComplete (core n : Nat) (s : State) : Host.Outcome State Fault Refusal :=
  act (coreOk core && macroOk n) s (productCompleteStep core n s).settleQueries

def execSkinkDrain (e : Nat) (h : Harm) (s : State) : Host.Outcome State Fault Refusal := act (skinkOk e) s (skinkDrainStep e (s.suffer h)).settleQueries

end Sys2Proof.Machine
end

