-- ==== Sys2Proof/Machine/Security.lean ====
section
/-! DEFINITION. Tenants, MACsec keys, attestation, debug mode and the firmware block (R362, R445 to R464). -/

namespace Sys2Proof.Machine

/-! ### Tenants (R362, R457, R460) -/

/-- A slot's values as staged. -/
def stagedTenant (c : Staged) : Tenant := { tenant := c.num 2, rights := c.num 3, parts := c.num 4, key := (c.bytes 5).drop 1 }

/-- A credential of type 1 with its key. -/
def goodCredential (bs : List Byte) : Bool := bs.length == 33 && bs.head? == some 1

/-- The refusal of a tenant commit, in the order of R360. -/
def State.tenantRefusal (s : State) (c : Staged) : Option Nat :=
  let t := stagedTenant c
  let after := mset s.tenants Tenant.reset (c.num 1) t
  firstOf
    [(decide (64 ≤ c.num 1 ∨ 8 ≤ t.rights), 0x0104), (!after.any (fun e => e.2.tenant != 0 && e.2.rights.testBit 0), 0x0419),
     (t.tenant != 0 && s.tenants.any (fun e => e.1 != c.num 1 && e.2.tenant == t.tenant), 0x0104),
     (t.tenant == 0 && (t.rights != 0 || t.parts != 0 || !(c.bytes 5).isEmpty), 0x0104), (t.tenant != 0 && !goodCredential (c.bytes 5), 0x0104)]

/-- Sessions that a slot's commit closes. -/
def State.tenantCloses (s : State) (old new : Tenant) : List Nat :=
  (s.slp.sessions.filter fun e =>
    (old.tenant != 0 && e.2.tenant == old.tenant && (new.tenant != old.tenant ||
      (decide (e.2.part < 16) && old.parts.testBit e.2.part && !new.parts.testBit e.2.part))) ||
      (e.2.bootstrap && s.noTenants && e.2.tenant != new.tenant)).map Prod.fst

/-- 0x6010. -/
def commitTenant (s : State) (c : Staged) : Verdict :=
  match s.tenantRefusal c with
  | some e => .error e
  | none =>
    let k := c.num 1
    let new := stagedTenant c
    let closes := s.tenantCloses (mget s.tenants Tenant.reset k) new
    .ok ({ (s.store c fun i => i == 1) with tenants := mset s.tenants Tenant.reset k new }, closes)

/-! ### MACsec keys (R461) -/

/-- 0x6200..0x6210: an association installed or deleted. -/
def commitKeys (s : State) (c : Staged) : Verdict :=
  let p := indexPort c.block
  let an := c.num 2
  let install := c.num 7 == 1
  if 1 < c.num 1 ∨ 3 < an ∨ (install ∧ (c.bytes 3).length ≠ 32) ∨ (c.num 1 = 1 ∧ install ∧ c.num 5 = 0) ∨ c.num 7 = 0 ∨ 2 < c.num 7 then .error 0x0104
  else
    let t := s.store c fun _ => true
    .ok (t.updPort p fun q =>
      if c.num 1 = 0 then
        (if install then { q with txSa := some (an, c.bytes 3, c.num 4, c.num 5) }
         else { q with txSa := match q.txSa with | some a => if a.1 = an then none else some a | none => none })
      else if install then { q with rxSas := mput q.rxSas an (c.bytes 3, c.num 4, c.num 5, c.num 6) }
      else { q with rxSas := mdrop q.rxSas fun k => k == an }, [])

/-! ### Quotes (R454, R455) -/

/-- Exactly `n` bytes: the string's own, then zeros. -/
def padTo (n : Nat) (bs : List Byte) : List Byte := bs.take n ++ List.replicate (n - bs.length) 0

/-- The values that `CONFIG_HASH` covers. -/
def State.configBytes (s : State) (p : Nat) : List Byte :=
  ([(1, 2), (2, 4), (3, 1), (4, 1), (5, 2), (6, 2), (7, 2), (8, 2), (9, 1)].flatMap fun e => leBytes e.2 (s.dval 0x2000 p e.1 0)) ++
    leBytes 4 (s.part p).version ++ leBytes 1 (s.dval 0x4000 0 1 100) ++ leBytes 1 (s.dval 0x3020 p 1 7) ++
    ((s.part p).windows.flatMap fun e => if e.2.isOpen then leBytes 1 e.1 ++
      ([(3, 1), (4, 2), (5, 8), (6, 1), (7, 1), (8, 1), (9, 2)].flatMap fun f => leBytes f.2 (e.2.value f.1)) else []) ++
    (List.range 17).flatMap fun q => leBytes 1 (s.portVal q 9)

/-- The body of a quote (Table 16.6). -/
def State.quoteBody (s : State) (p leaf : Nat) (nonce user : List Byte) : List Byte :=
  leBytes 4 0x51541620 ++ leBytes 2 1 ++ leBytes 1 p ++
    leBytes 1 (bit s.hub.time.valid * 4 + bit s.hub.replaceMe * 2 + bit ((s.part p).debug == 1)) ++
    leBytes 8 Config.serial ++ leBytes 4 s.hub.bootEpoch ++ leBytes 4 s.hub.rootLeaf ++ leBytes 4 leaf ++ leBytes 4 (s.dval 0x2000 p 2 0) ++
    padTo 32 nonce ++ padTo 32 Config.romHash ++ padTo 32 s.hub.epochHash ++ leBytes 4 s.hub.svn ++ leBytes 4 s.hub.svnMin ++
    sha256 (s.configBytes p) ++ leBytes 8 s.hub.tick ++ leBytes 8 (s.asTime s.hub.tick) ++ padTo 32 user ++ List.replicate 40 0

/-- A message's signature by an epoch leaf (RFC 8554). -/
def State.epochSign (s : State) (leaf : Nat) (m : List Byte) : List Byte :=
  s.epochPair.sign leaf ((List.range 32).map (Config.epochRandomizer s.hub.rootLeaf leaf)) m

/-- 0x6030. -/
def commitQuote (s : State) (c : Staged) : Verdict :=
  let p := c.inst
  if (c.bytes 1).length ≠ 32 ∨ ((c.bytes 2).length ≠ 0 ∧ (c.bytes 2).length ≠ 32) then .error 0x0104
  else if 32768 ≤ s.hub.rootUsed then .error 0x0422
  else if s.hub.epochState = 3 then .error 0x0423
  else if s.hub.epochState ≠ 2 then .error 0x0424
  else
    let leaf := s.hub.epochUsed
    let body := s.quoteBody p leaf (c.bytes 1) (c.bytes 2)
    let quote := body ++ s.epochSign leaf body ++ s.epochEntry
    let t := (s.store c fun _ => true).updHub fun h =>
      { h with epochUsed := leaf + 1, epochState := if leaf + 1 = 32768 then 3 else h.epochState }
    .ok ({ t with dict := mset t.dict [] (dkey 0x6030 p 0x11) quote }, [])

/-! ### Debug mode (R463) -/

/-- 0x6040: the new mode acts at the next job boundary, or now with no job in hand. -/
def commitDebug (s : State) (q : Session) (c : Staged) : Verdict :=
  let p := c.inst
  if 1 < c.num 1 then .error 0x0104
  else if c.num 1 = 1 ∧ !(s.ofTenant q && s.hasDebug q) then .error 0x0412
  else
    let t := (s.store c fun _ => true).updPart p fun x => { x with debugNext := c.num 1 }
    .ok (if (s.part p).job.isNone then t.settleDebug p else t, [])

/-! ### The firmware image (R445 to R449) -/

/-- Fields of the image header (Table 16.1). -/
def hdrSvn (h : List Byte) : Nat := numAt h 8 4

/-- A well-formed header. -/
def goodHeader (h : List Byte) : Bool :=
  h.length == 64 && numAt h 0 4 == 0x46571620 && decide (numAt h 4 1 < 2) && numAt h 5 3 == 0 && decide (hdrSvn h ≤ 64) &&
    numAt h 12 4 % 64 == 0 && decide (numAt h 16 4 ≤ 8192) && decide (64 + numAt h 12 4 + numAt h 16 4 ≤ 2 ^ 25) && numAt h 20 8 == 0 && numAt h 28 4 == 0

/-- Bytes of the flash. -/
def State.flashBytes (s : State) (off n : Nat) : List Byte := (List.range n).map fun i => mget s.hub.flash 0 (off + i)
/-- A big-endian number of the flash. -/
def State.flashU32 (s : State) (off : Nat) : Nat := leNat (s.flashBytes off 4).reverse

/-- The header of the image in flash. -/
def State.imageHeader (s : State) : List Byte := s.flashBytes 0 64
/-- Its body. -/
def State.imageBody (s : State) : List Byte := s.flashBytes 64 (numAt s.imageHeader 12 4)

/-- The SHA-256 of an image's header and body (Table 16.3). -/
def State.imageHash (s : State) : List Byte := sha256 (s.imageHeader ++ s.imageBody)

/-- The bytes that an LMS signature in the flash takes, by its type codes; none where one is not of R446 (RFC 8554: LMS types 6 to 8, LMOTS types 3 and
4). -/
def State.lmsLength (s : State) (off : Nat) : Option Nat :=
  let ots := s.flashU32 (off + 4)
  if ots ≠ 3 ∧ ots ≠ 4 then none
  else
    let p := if ots = 3 then 67 else 34
    let lms := s.flashU32 (off + 40 + 32 * p)
    if lms < 6 ∨ 8 < lms then none else some (44 + 32 * p + 32 * (10 + 5 * (lms - 6)))

/-- The HSS signature in the flash has one or two levels of the parameter sets of R446 and the length that they give. -/
def State.goodSignature (s : State) : Bool :=
  let off := 64 + numAt s.imageHeader 12 4
  let len := numAt s.imageHeader 16 4
  match s.flashU32 off, s.lmsLength (off + 4) with
  | 0, some n => len == 4 + n
  | 1, some n => match s.lmsLength (off + 4 + n + 56) with | some k => len == 60 + n + k | none => false
  | _, _ => false

/-- The signature verifies under the ROM key that `KEY` names, of those that the ROM finds it to verify under (R445, R446; log entry 16). -/
def State.imageSigned (s : State) (i : ImageRead) : Bool := s.goodSignature && i.verifies.contains (numAt s.imageHeader 4 1)

/-- The status of the image in flash, 0 for one that R445 accepts. -/
def State.imageStatus (s : State) (i : ImageRead) : Nat :=
  if !goodHeader s.imageHeader || !s.imageSigned i || sha256 s.imageBody != s.imageHeader.drop 32 then 0x0420
  else if hdrSvn s.imageHeader < s.hub.svnMin then 0x0421
  else 0

/-- The actions of 0x6100 that outlast their tick: program and finish. -/
def slowAction (c : Staged) : Bool := c.num 3 == 1 || c.num 3 == 2

/-- 0x6100. -/
def commitFirmware (s : State) (c : Staged) : Verdict :=
  let act := c.num 3
  if c.num 1 % 4096 ≠ 0 ∨ 2 ^ 25 ≤ c.num 1 ∨ (act = 1 ∧ (c.bytes 2).length ≠ 4096) ∨ 4096 < (c.bytes 2).length ∨ act = 0 ∨ 4 < act then .error 0x0104
  else if act = 3 ∧ (s.hub.phase ≠ .recovery ∨ s.hub.straps.testBit 3) then .error 0x0426
  else if act = 4 ∧ (s.hub.verified ≠ s.hub.fwHash ∨ s.hub.fwHash = []) then .error 0x0104
  else
    let t := s.store c fun _ => true
    if act = 3 then .ok ({ t with tenants := [] }, [])
    else if act = 4 then .ok (t.updHub fun h => { h with svnMin := max h.svnMin h.svn }, [])
    else .ok (t, [])

/-- The chunk is programmed, or the flash fails and what the chunk's place holds is open (free). -/
def State.programChunk (s : State) (ok : Bool) : State × Nat :=
  let off := s.dval 0x6100 0 1 0
  let b := s.freeBytes 4096
  let bs := if ok then s.dbytes 0x6100 0 2 else b.1
  let t := if ok then s else b.2
  (t.updHub fun h => { h with flash := spliceCells h.flash off 4096 (cellsOf off bs), finished := false }, if ok then 0 else 0x0425)

/-- The image now in flash is verified; none is a flash that does not answer. -/
def State.finishImage (s : State) (i : Option ImageRead) : State × Nat :=
  match i with
  | none => (s.updHub fun h => { h with finished := false }, 0x0420)
  | some i =>
    let st := s.imageStatus i
    (s.updHub fun h => { h with finished := st == 0, verified := if st = 0 then s.imageHash else h.verified }, st)

end Sys2Proof.Machine
end

