-- ==== Sys2Proof/Machine/Service.lean ====
section
/-! DEFINITION. How the hub samples a commit: the block's own rules, the result, the record, the reply, and the commits that wait (R337, R360,
R361, R449, Table 17.5). -/

namespace Sys2Proof.Machine

/-! ### Replies -/

/-- A reply to a request of a session. The spec gives the `ALIVE` of a reply only for `READ` (R340): it is free here. -/
def State.reply (s : State) (n type status : Nat) (payload : List Byte) : State :=
  let w := s.freeWord
  w.2.sendMsg n (type + 0x80) status w.1.toNat false payload

/-- Is the session waiting for a commit or a firmware action? -/
def State.sessionWaits (s : State) (n : Nat) : Bool := s.slp.waits.any fun e => e.1 == n

/-! ### The block's own rules -/

/-- Blocks of areas 0x1000 to 0x4000. -/
def State.commit1 (s : State) (c : Staged) : Verdict :=
  if c.block = 0x1020 then commitSlp s c
  else if c.block = 0x1040 then commitTime s c
  else if c.block < 0x2000 then commitPort s c
  else if c.block = 0x2000 then commitPart s c
  else if c.block = 0x2010 then commitJob s c
  else if c.block = 0x2100 then commitPlacement s c
  else if c.block = 0x3000 then commitBudget s c
  else if c.block = 0x3010 then commitWeight s c
  else if c.block = 0x3020 then commitPace s c
  else if c.block = 0x3040 then commitRails s c
  else if c.block = 0x3050 then commitAlert s c
  else commitThermal s c

/-- Blocks of areas 0x5000 to 0xA000. -/
def State.commit2 (s : State) (q : Session) (c : Staged) : Verdict :=
  if c.block = 0x5110 then commitMaintenance s c
  else if c.block = 0x5120 ∨ c.block = 0x5210 then commitPatrol s c
  else if c.block = 0x5130 then commitQuery s c
  else if c.block = 0x6010 then commitTenant s c
  else if c.block = 0x6030 then commitQuote s c
  else if c.block = 0x6040 then commitDebug s q c
  else if c.block = 0x6100 then commitFirmware s c
  else if c.block < 0x7000 then commitKeys s c
  else if c.block = 0x7000 then commitAlarms s c
  else if c.block = 0x7020 then commitTrace s c
  else if c.block = 0x8100 then commitRing s q c
  else if c.block = 0x8400 then commitWin s c
  else if c.block = 0x9010 then commitOverflow s c
  else commitPeek s c

/-- What a staged copy comes to. -/
def State.verdict (s : State) (q : Session) (c : Staged) : Verdict := if c.block < 0x5000 then s.commit1 c else s.commit2 q c

/-! ### The outcome (R360) -/

/-- The block has a result entry `:10` that each commit sets. -/
def hasResult (index : Nat) : Bool :=
  [0x2000, 0x6030, 0x6100, 0x8100, 0x8400].contains index || decide (0x6200 ≤ index ∧ index ≤ 0x6210)

/-- The result entry of a block takes a status; those of a page query and a debug read, which these set otherwise, take a refusal (R107, R179). -/
def State.noteResult (s : State) (index inst status : Nat) : State :=
  if (index = 0x5130 ∨ index = 0xA020) ∧ status ≠ 0 then { s with dict := mset s.dict [] (dkey index inst 0x12) (leBytes 2 status) }
  else if hasResult index then { s with dict := mset s.dict [] (dkey index inst 0x10) (leBytes 2 status) } else s

/-- The sub-index of a block's `ACTION`, 0 for none (Table 17.5). -/
def actionSub (index : Nat) : Nat := if index = 0x2000 then 0xA else if index = 0x2010 then 1 else if index = 0x6100 then 3 else 0

/-- Sessions that an accepted commit closes. -/
def State.closeAll (s : State) (ns : List Nat) : State := ns.foldl (fun s n => s.dropSession n 2) s

/-- The mark of a firmware action that goes on, among the waits. -/
abbrev firmwareGoesOn : Nat := 0x16100

/-- The staged copy of session `n` is checked and acts, or is refused and kept. -/
def State.commitBlock (s : State) (n : Nat) (q : Session) (b : Block) (index : Nat) : State :=
  let inst := b.inst q
  let c := s.copyFor q b index inst
  match s.verdict q c with
  | .error e => (s.noteResult index inst e).reply n 0x11 e []
  | .ok r =>
    let t := (r.1.updSession n fun x => x.dropCopy index inst).logConfig (if b.perPart then some inst else none) index (s.slotNo q.tenant) (actionSub index)
    if index = 0x6100 ∧ slowAction c then { t with slp := { t.slp with waits := t.slp.waits ++ [(n, firmwareGoesOn)] } }
    else ((t.noteResult index inst 0).reply n 0x11 0 []).closeAll r.2

/-- The previous accepted commit of a block instance is still at work (R361). -/
def State.atWork (s : State) (index inst : Nat) : Bool :=
  if index = 0x2000 then (s.part inst).state == 1 || (s.part inst).state == 3
  else if index = 0x2100 ∨ index = 0x8400 then (s.part inst).building.contains index
  else if index = 0x5130 ∨ index = 0xA020 then s.dval index inst 0x13 0 == 1
  else index == 0x6100 && s.slp.waits.any fun e => e.2 == firmwareGoesOn

/-- An earlier commit of a block instance waits already: it is sampled first (R361). -/
def State.queuedBefore (s : State) (b : Block) (index inst : Nat) : Bool :=
  s.slp.waits.any fun e => e.2 == index && (match s.session e.1 with | none => false | some x => b.inst x == inst)

/-- A commit entry is written: 1 submits, 0 discards, any other value is refused (R360); a commit behind one still at work waits. -/
def State.writeCommit (s : State) (n : Nat) (q : Session) (b : Block) (index v : Nat) : State :=
  if v = 0 then (s.updSession n fun x => x.dropCopy index (b.inst q)).reply n 0x11 0 []
  else if v ≠ 1 then s.reply n 0x11 0x0104 []
  else if s.atWork index (b.inst q) || s.queuedBefore b index (b.inst q) then { s with slp := { s.slp with waits := s.slp.waits ++ [(n, index)] } }
  else s.commitBlock n q b index

/-! ### Versions (R295, R315) -/

/-- `VERSION_BUILD_COMPLETE`: what the partition builds is built. It takes effect at the job boundary, or in the next tick when no job is in hand
(State.settleVersions). -/
def versionBuiltStep (p : Nat) (s : State) : State :=
  let q := s.part p
  if q.building = [] then s
  else
    let s := if q.building.contains 0x2100 then s.updPart p fun x => { x with waiting := some (s.fullPlacement p (s.dbytes 0x2100 p 3)) } else s
    s.updPart p fun x => { x with building := [] }

/-- What a partition with no job in hand has built takes effect in the tick after its build (R295). -/
def State.settleVersions (s : State) : State :=
  (List.range 16).foldl (fun s p => if s.exists_ p && (s.part p).job.isNone then s.swapVersions p else s) s

def execVersionBuildComplete (p : Nat) (s : State) : Host.Outcome State Fault Refusal := act (partOk p) s (versionBuiltStep p s)

def execPartitionReady (p : Nat) (s : State) : Host.Outcome State Fault Refusal := act (partOk p) s (partitionReadyStep p s)

end Sys2Proof.Machine
end

