-- ==== Sys2Proof/Machine/Server.lean ====
section
/-! DEFINITION. The SLP server: messages received in order, `OPEN` and its proof, dictionary accesses, bulk transfers and doorbells (R332 to R344,
R355 to R357, R448, R458 to R460). -/

namespace Sys2Proof.Machine

/-! ### Faults of host requests -/

/-- An integrity fault that a host request meets: its record, its alarm, which names `PD`, and a DRAM tower's count (R441, Tables 10.8, 17.3). -/
def State.hostFault (s : State) (q : Session) (status : Nat) : State :=
  if statusOf status / 256 = 3 then (s.badTower status).outsideFault q.ring 19 { FaultRec.reset with status := status, unit := 7 } else s

/-- A reply that may carry an integrity fault. -/
def State.replyFault (s : State) (n type status : Nat) (q : Session) : State := (s.hostFault q status).reply n type (statusOf status) []

/-! ### Dictionary accesses (R341, R355 to R357) -/

/-- The layout of a `DREAD` request. -/
def badAccess (bs : List Byte) : Bool := decide (bs.length < 16) || numAt bs 3 1 != 0 || numAt bs 10 6 != 0
def accIndex (bs : List Byte) : Nat := numAt bs 0 2
def accSub (bs : List Byte) : Nat := numAt bs 2 1
def accOff (bs : List Byte) : Nat := numAt bs 4 4
def accLen (bs : List Byte) : Nat := numAt bs 8 2

/-- A `DREAD`. -/
def State.onDread (s : State) (n : Nat) (q : Session) (bs : List Byte) : State :=
  if badAccess bs ∨ bs.length ≠ 16 then s.reply n 0x10 0x0603 []
  else match s.readEntry q (accIndex bs) (accSub bs) (accOff bs) (accLen bs) with
    | .error e => s.reply n 0x10 e []
    | .ok v => s.reply n 0x10 0 v

/-- A `DWRITE`: an entry staged, or a commit entry written. Bytes beyond the length up to a multiple of 8 are padding (log entry 90). -/
def State.onDwrite (s : State) (n : Nat) (q : Session) (bs : List Byte) : State :=
  if badAccess bs ∨ bs.length < 16 + accLen bs ∨ (16 + accLen bs + 7) / 8 * 8 < bs.length then s.reply n 0x11 0x0603 []
  else match s.resolve q (accIndex bs) (accSub bs) true with
    | .error e => s.reply n 0x11 e []
    | .ok r =>
      if r.2.access = 2 then
        (if accOff bs ≠ 0 ∨ accLen bs ≠ 1 then s.reply n 0x11 0x0416 [] else s.writeCommit n q r.1 (accIndex bs) (numAt bs 16 1))
      else match s.stage n q r.1 r.2 (accIndex bs) (accOff bs) ((bs.drop 16).take (accLen bs)) with
        | .error e => s.reply n 0x11 e []
        | .ok t => t.reply n 0x11 0 []

/-! ### Bulk transfers (R338 to R340, Table 11.8) -/

/-- A bulk header. -/
structure Bulk where
  win : Nat
  ckWin : Nat
  cb : Nat
  off : Nat
  ckOff : Nat
  dlen : Nat
deriving DecidableEq, Repr

def readBulk (bs : List Byte) : Bulk :=
  { win := numAt bs 0 1, ckWin := numAt bs 1 1, cb := numAt bs 2 1 % 32, off := numAt bs 8 8, ckOff := numAt bs 16 8, dlen := numAt bs 24 4 }

/-- Bytes of a block, or of the unit that data comes in without a check array. -/
def Bulk.unit (b : Bulk) : Nat := if b.cb = 0 then 64 else 2 ^ b.cb

/-- The header is malformed: a reserved field, `CB`, an offset; `maxCb` is that of the port's MTU (Table 11.6). -/
def badBulk (bs : List Byte) (maxCb : Nat) : Bool :=
  let b := readBulk bs
  decide (bs.length < 32) || numAt bs 2 1 / 32 != 0 || numAt bs 3 5 != 0 || numAt bs 28 4 != 0 ||
    (b.cb != 0 && decide (b.cb < 8 ∨ maxCb < b.cb)) || b.off % b.unit != 0 || b.ckOff % 8 != 0

/-- The largest `CB` of a session's port. -/
def State.maxCb (s : State) (q : Session) : Nat := if s.portVal q.port 8 = 9000 then 13 else 10

/-- The bytes of a check record (R246). -/
def checkRecord (blk : List Byte) (alive : Nat) : List Byte := leBytes 4 (blockCrc blk alive) ++ leBytes 4 alive

/-- The scales with which bytes of a `B4` window cross on a host's transfer: a host names none, so each group's is free (R318, log entry 62). -/
def hostScales (p win off n : Nat) (w : Window) : List Nat :=
  if w.cross ≠ 1 then [] else
    (List.range ((n + groupSize w.gsize - 1) / groupSize w.gsize)).map fun i => (Config.hostScale p win (off / groupSize w.gsize + i)).toNat

/-- One piece of a host's `WRITE`, out of the port die's buffer: it crosses in its window's mode, counted as it does, and is stored (R318, R339).
Answers the bytes as stored. -/
def State.hostBeat (s : State) (p win off : Nat) (bs : List Byte) (kind : Nat) : Tried (List Byte) :=
  match s.bufferFault 3 0 with
  | some e => (s, .error e)
  | none =>
    match s.windowAt 19 p win off bs.length kind with
    | .error e => (s, .error e)
    | .ok ext =>
      let w := s.window p win
      let dst := dieOfAddr (firstAddr ext)
      (s.throughB4 p 19 dst (firstAddr ext) w (if kind = rHWR then hostScales p win off bs.length w else []) (fun _ _ s => .ok s) bs).andThen fun s bs =>
        let s := s.countCrossing p 19 dst w bs.length
        match s.deposit 19 (some p) true false ext bs with
        | .error e => (s, .error e)
        | .ok t => (t, .ok bs)

/-- The pieces in which a host's data goes to a window: beats of 64 bytes, or whole groups of a `B4` window, which may be longer (R185, R425). -/
def Window.piece (w : Window) : Nat := if w.cross = 1 then max 64 (groupSize w.gsize) else 64

/-- Stores data piece by piece: the state, the status of the piece that faulted, 0 for none, and the bytes stored (R339). -/
def State.storeBeats (p win : Nat) : Nat → Nat → List Byte → State → State × Nat × List Byte
  | 0, _, _, s => (s, 0, [])
  | fuel + 1, off, bs, s =>
    let n := (s.window p win).piece
    if bs = [] then (s, 0, [])
    else
      let t := s.hostBeat p win off (bs.take n) rHWR
      match t.2 with
      | .error e => (t.1, e, [])
      | .ok stored => let r := State.storeBeats p win fuel (off + n) (bs.drop n) t.1; (r.1, r.2.1, stored ++ r.2.2)

/-- Stores block after block, each followed by the check record of what it stored (R246, R339). -/
def State.storeBlocks (p : Nat) (b : Bulk) (alive : Nat) : Nat → Nat → List Byte → State → State × Nat
  | 0, _, _, s => (s, 0)
  | fuel + 1, j, bs, s =>
    if bs = [] then (s, 0)
    else
      let r := State.storeBeats p b.win (b.unit / 64) (b.off + j * b.unit) (bs.take b.unit) s
      if r.2.1 ≠ 0 then (r.1, r.2.1)
      else
        let t := r.1.hostBeat p b.ckWin (b.ckOff + 8 * j) (checkRecord r.2.2 alive) rWR
        match t.2 with
        | .error e => (t.1, e)
        | .ok _ => State.storeBlocks p b alive fuel (j + 1) (bs.drop b.unit) t.1

/-- A `WRITE`. -/
def State.onWrite (s : State) (n : Nat) (q : Session) (alive : Nat) (bs : List Byte) : State :=
  let b := readBulk bs
  let data := bs.drop 32
  if 16 ≤ q.part then s.reply n 0x20 0x0412 []
  else if badBulk bs (s.maxCb q) ∨ b.dlen ≠ 0 ∨ data.length % b.unit ≠ 0 then s.reply n 0x20 0x0603 []
  else
    let r := if b.cb = 0 then let x := State.storeBeats q.part b.win data.length b.off data s; (x.1, x.2.1)
      else State.storeBlocks q.part b alive data.length 0 data s
    r.1.replyFault n 0x20 r.2 q

/-- The blocks of a `READ` against their records: the records' alive value, or the status of the first mismatch (R247). -/
def verifyHost (unit : Nat) : Option Nat → List Byte → List Byte → Nat → Except Nat (Option Nat)
  | alive, _, _, 0 => .ok alive
  | alive, data, recs, fuel + 1 =>
    if data = [] then .ok alive
    else
      let a := numAt recs 4 4
      if blockCrc (data.take unit) a ≠ numAt recs 0 4 then .error 0x0306
      else if alive.getD a ≠ a then .error 0x0305
      else verifyHost unit (some a) (data.drop unit) (recs.drop 8) fuel

/-- What the port die receives of a host's read, into its buffer: the bytes as they come in their window's mode, counted as they do (R318). -/
def State.hostFetch (s : State) (p win off n kind : Nat) : Tried (List Byte) :=
  match s.windowAt 19 p win off n kind with
  | .error e => (s, .error e)
  | .ok ext =>
    let w := s.window p win
    let src := dieOfAddr (firstAddr ext)
    match s.receive true ext ((readExtents s.mem ext).map fun bs => (bs, s)) with
    | .error e => (s, .error e)
    | .ok r =>
      (r.2.throughB4 p src 19 (firstAddr ext) w (if kind = rHRD then hostScales p win off n w else []) (fun _ _ s => .ok s) r.1).andThen fun s bs =>
        (s.countCrossing p src 19 w n, match s.bufferFault 3 0 with | some e => .error e | none => .ok bs)

/-- What a `READ` finds: its data and their alive value, none where no record gives one. -/
def State.readBulkData (s : State) (p : Nat) (b : Bulk) : Tried (List Byte × Option Nat) :=
  (s.hostFetch p b.win b.off b.dlen rHRD).andThen fun s d =>
    if b.cb = 0 then (s, .ok (d, some 0))
    else (s.hostFetch p b.ckWin b.ckOff (8 * (b.dlen / b.unit)) rRD).andThen fun s r =>
      (s, (verifyHost b.unit none d r d.length).map fun a => (d, a))

/-- A `READ`. -/
def State.onRead (s : State) (n : Nat) (q : Session) (bs : List Byte) : State :=
  let b := readBulk bs
  if 16 ≤ q.part then s.reply n 0x21 0x0412 []
  else if badBulk bs (s.maxCb q) ∨ bs.length ≠ 32 ∨ s.payloadLimit q.port - 32 < b.dlen ∨ (b.cb ≠ 0 ∧ b.dlen % b.unit ≠ 0) then
    s.reply n 0x21 0x0603 []
  else
    let r := s.readBulkData q.part b
    match r.2 with
    | .error e => r.1.replyFault n 0x21 e q
    | .ok (d, some a) => r.1.sendMsg n 0xA1 0 a false d
    | .ok (d, none) => r.1.reply n 0x21 0 d

/-! ### Doorbells (R344) -/

/-- The refusal of one doorbell entry, 0 for none. -/
def State.bellStatus (s : State) (q : Session) (ring kind index : Nat) : Nat :=
  let r := s.ring ring
  let ahead (a b : Nat) : Nat := (a + 2 ^ 32 - b) % 2 ^ 32
  if (16 ≤ q.part ∨ r.part ≠ q.part) ∧ ring < 32768 then 0x0410
  else if 32768 ≤ ring ∨ 2 ≤ kind ∨ r.size = 0 then 0x0707
  else if kind = 0 then (if r.size < ahead index r.subHead ∨ r.size < ahead index r.subTail then 0x0707 else 0)
  else if ahead r.cmpTail r.cmpHead < ahead index r.cmpHead then 0x0707
  else 0

/-- One doorbell entry; freeing completion slots lets a flush go on. -/
def State.ringBell (s : State) (q : Session) (ring kind index : Nat) : State × Nat :=
  let e := s.bellStatus q ring kind index
  if e ≠ 0 then (s, e)
  else if kind = 0 then (s.updRing ring fun r => { r with subTail := index }, 0)
  else ((s.updRing ring fun r => { r with cmpHead := index }).flushRings (s.ring ring).part, 0)

/-- Entries of a message in order; the status of the first refused. -/
def State.ringBells (q : Session) : Nat → List Byte → State × Nat → State × Nat
  | 0, _, a => a
  | fuel + 1, bs, a =>
    if bs = [] then a
    else
      let r := a.1.ringBell q (numAt bs 0 2) (numAt bs 2 1) (numAt bs 4 4)
      State.ringBells q fuel (bs.drop 8) (r.1, if a.2 = 0 then r.2 else a.2)

/-- A malformed doorbell message: not 1 to 16 whole entries, or a reserved byte. -/
def badBells (bs : List Byte) : Bool :=
  bs.length % 8 != 0 || bs == [] || decide (128 < bs.length) || (List.range (bs.length / 8)).any fun i => numAt bs (8 * i + 3) 1 != 0

/-- A `DOORBELL`. -/
def State.onDoorbell (s : State) (n : Nat) (q : Session) (bs : List Byte) : State :=
  if badBells bs then s.reply n 0x30 0x0603 []
  else
    let r := State.ringBells q 16 bs (s, 0)
    r.1.reply n 0x30 r.2 []

/-! ### Messages of a session (R335, R337, R338) -/

/-- The payload check over a message. -/
def pcrcOk (r : Req) : Bool := r.pcrc == slpPcrc r.payload r.alive

/-- A header that Table 11.4 does not allow: another version, or a reserved bit set (0x0603). -/
def badReq (r : Req) : Bool := r.head != 16 || r.flags / 2 != 0

/-- `CLOSE`: the reply, then the session ends. -/
def State.onClose (s : State) (n : Nat) (bs : List Byte) : State :=
  if bs ≠ [] then s.reply n 0x02 0x0603 [] else (s.reply n 0x02 0 []).dropSession n 2

/-- The device acts on a request of session `n`. -/
def State.request (s : State) (n type : Nat) (r : Req) : State :=
  match s.session n with
  | none => s
  | some q =>
    if !pcrcOk r then s.replyFault n type 0x0304 q
    else if badReq r then s.reply n type 0x0603 []
    else if type = 0x02 then s.onClose n r.payload
    else if type = 0x10 then s.onDread n q r.payload
    else if type = 0x11 then s.onDwrite n q r.payload
    else if type = 0x20 then s.onWrite n q r.alive r.payload
    else if type = 0x21 then s.onRead n q r.payload
    else s.onDoorbell n q r.payload

/-- Acts on the messages received in order, until one waits. -/
def State.drainInbox (n : Nat) : Nat → State → State
  | 0, s => s
  | fuel + 1, s =>
    if s.sessionWaits n then s
    else match s.session n with
      | none => s
      | some q =>
        match q.inbox with
        | [] => s
        | e :: rest => State.drainInbox n fuel ((s.setSession n { q with inbox := rest }).request n e.1 e.2)

/-- Messages held early join the inbox as their turn comes. -/
def Session.promote : Nat → Session → Session
  | 0, q => q
  | fuel + 1, q =>
    match q.held.find? fun e => e.2.seq == q.rxNext with
    | none => q
    | some e =>
      Session.promote fuel { q with inbox := q.inbox ++ [e], rxNext := (q.rxNext + 1) % 2 ^ 32, held := q.held.filter fun x => x.2.seq != q.rxNext }

/-- A message of type `type` arrives at its turn. -/
def State.deliver (s : State) (n type : Nat) (r : Req) : State :=
  let s := s.updSession n fun q => { q with inbox := q.inbox ++ [(type, r)], rxNext := (q.rxNext + 1) % 2 ^ 32, ackDue := true }.promote 63
  State.drainInbox n (match s.session n with | none => 0 | some q => q.inbox.length) s

/-- How far ahead of the next expected number a message is, modulo 2^32. -/
def Session.ahead (q : Session) (seq : Nat) : Nat := (seq + 2 ^ 32 - q.rxNext) % 2 ^ 32

/-- A numbered message: acted on at its turn, held up to 63 ahead, discarded and acknowledged again when received before. -/
def State.sequence (s : State) (n : Nat) (q : Session) (type : Nat) (r : Req) : State :=
  let a := q.ahead r.seq
  if a = 0 then s.deliver n type r
  else if a ≤ 63 then
    s.updSession n fun q => { q with held := if q.held.any (fun e => e.2.seq == r.seq) then q.held else q.held ++ [(type, r)], ackDue := true }
  else if 2 ^ 31 ≤ a then s.updSession n fun q => { q with ackDue := true }
  else s

/-- Every message acknowledges through its `ACK` (R335). -/
def State.acknowledge (s : State) (n ack : Nat) : State :=
  (s.updSession n fun q => { q with unacked := q.unacked.filter fun e => e.2 == 0 || decide (2 ^ 31 ≤ (ack + 2 ^ 32 - e.1.seq) % 2 ^ 32) }).pumpSession n

/-- A message whose `HCRC` does not match, whose payload is not `LEN` bytes long, or that is too long, is discarded unseen (R332). -/
def State.unreadable (s : State) (type : Nat) (r : Req) : Bool :=
  r.hcrc != crc32c (reqHeader r type) || r.len != r.payload.length || decide (s.payloadLimit r.port < r.payload.length)

/-- A datagram for the port's own address, of the sender's kind, and for its UDP port, whose UDP checksum verifies; over IPv4 a zero checksum is accepted
(R328). -/
def State.ownDatagram (s : State) (type : Nat) (r : Req) : Bool :=
  s.ownAddr r.port r.dst && r.addr.length == r.dst.length && r.dport == s.portVal r.port 7 &&
    (r.check == udpCheck r.addr r.dst r.udp r.dport (reqHeader r type ++ leBytes 4 r.hcrc ++ r.payload) || (r.check == 0 && r.dst.length == 4))

/-- Bytes of the datagram that carries a message: IP, UDP and SLP headers and payload. -/
def datagramBytes (r : Req) : Nat := ipHeader r.dst + 8 + 32 + r.payload.length

/-- An SLP message reaches a port: through the MAC, MACsec and VLAN, address and datagram checks, and the header's check. Answers whether it is read. -/
def State.takeMessage (s : State) (type : Nat) (r : Req) : State × Bool :=
  let t := s.takeSized r.port r.wrap (datagramBytes r)
  if !t.2 then t
  else if !s.ownDatagram type r then (t.1.discarded r.port, false)
  else if s.unreadable type r then ((t.1.accepted r.port).unseen, false)
  else (t.1.accepted r.port, true)

/-- A message of a session: one from another address, or of a session that is not open, is answered with 0x0604 (R336). -/
def State.onMessage (s : State) (type : Nat) (r : Req) : State :=
  match s.session r.session with
  | none => s.sendBare r type r.session 0x0604 []
  | some q =>
    if q.addr ≠ r.addr ∨ q.udp ≠ r.udp then s.sendBare r type r.session 0x0604 []
    else
      let s := s.acknowledge r.session r.ack
      if type = 0x7F then s else s.sequence r.session q type r

/-- A message of a session arrives. -/
def State.slpReceive (s : State) (type : Nat) (r : Req) : State :=
  let t := s.takeMessage type r
  if t.2 then t.1.onMessage type r else t.1

def execCloseSession (r : Req) (s : State) : Host.Outcome State Fault Refusal := act (portOk r.port) s (s.slpReceive 0x02 r)
def execDread (r : Req) (s : State) : Host.Outcome State Fault Refusal := act (portOk r.port) s (s.slpReceive 0x10 r)
def execDwrite (r : Req) (s : State) : Host.Outcome State Fault Refusal := act (portOk r.port) s (s.slpReceive 0x11 r)
def execBulkWrite (r : Req) (h : Harm) (s : State) : Host.Outcome State Fault Refusal := act (portOk r.port) s ((s.suffer h).slpReceive 0x20 r)
def execBulkRead (r : Req) (h : Harm) (s : State) : Host.Outcome State Fault Refusal := act (portOk r.port) s ((s.suffer h).slpReceive 0x21 r)

/-- `LOG_READ`: a `DREAD` of one of the log entries (R476). -/
def logReadStep (r : Req) (s : State) : State := if isLog (accIndex r.payload) (accSub r.payload) then s.slpReceive 0x10 r else s

def execLogRead (r : Req) (s : State) : Host.Outcome State Fault Refusal := act (portOk r.port) s (logReadStep r s)

/-- A `DOORBELL` whose first entry sets `SUB_TAIL`, or, with `head`, `CMP_HEAD`. -/
def doorbellStep (head : Bool) (r : Req) (s : State) : State := if (numAt r.payload 2 1 == 1) == head then s.slpReceive 0x30 r else s

def execDoorbellSubTail (r : Req) (s : State) : Host.Outcome State Fault Refusal := act (portOk r.port) s (doorbellStep false r s)
def execDoorbellCmpHead (r : Req) (s : State) : Host.Outcome State Fault Refusal := act (portOk r.port) s (doorbellStep true r s)
def execAckMessage (r : Req) (s : State) : Host.Outcome State Fault Refusal := act (portOk r.port) s (s.slpReceive 0x7F r)

/-! ### `OPEN` (R334, R363, R448, R458 to R460) -/

/-- The 16-byte form of a host's address (RFC 4291). -/
def mappedAddr (a : List Byte) : List Byte := if a.length = 4 then List.replicate 10 0 ++ [0xFF, 0xFF] ++ a else a

/-- The 51 bytes that a proof signs. -/
def State.openMessage (s : State) (r : Req) (part tenant n : Nat) : List Byte :=
  [0x53, 0x4C, 0x50, 0x2D, 0x4F, 0x50, 0x45, 0x4E] ++ leBytes 8 Config.serial ++ leBytes 4 s.hub.bootEpoch ++ leBytes 1 part ++ leBytes 4 tenant ++
    leBytes 8 n ++ mappedAddr r.addr ++ leBytes 2 r.udp

/-- The bootstrap rule applies (R460). -/
def State.bootstraps (s : State) (r : Req) (tenant : Nat) : Bool := s.noTenants && r.port == 16 && tenant == 1

/-- The key that a tenant's proof is made with; none for no tenant. -/
def State.openKey (s : State) (r : Req) (tenant : Nat) : Option (List Byte) :=
  if s.bootstraps r tenant then some (padTo 32 Config.bootstrapKey)
  else match s.slotOf tenant with | none => none | some i => some (mget s.tenants Tenant.reset i).key

/-- The proof is good (R458). -/
def State.proofGood (s : State) (r : Req) (part tenant : Nat) : Bool :=
  let n := numAt r.payload 8 8
  decide (mget s.slp.admitted 0 tenant < n) &&
    (match s.openKey r tenant with
     | none => false
     | some k => (hmac256 k (s.openMessage r part tenant n)).take 24 == (r.payload.drop 16).take 24)

/-- A tenant may open a partition (R363). -/
def State.partAdmits (s : State) (r : Req) (part tenant : Nat) : Bool :=
  part == 255 ||
    (decide (part < 16) && (s.bootstraps r tenant ||
      (match s.slotOf tenant with
       | none => false
       | some i => (mget s.tenants Tenant.reset i).parts.testBit part &&
           ((s.exists_ part && s.owner part == tenant) || (mget s.tenants Tenant.reset i).rights.testBit 0))))

/-- An `OPEN` is admitted. -/
def State.admits (s : State) (r : Req) (part tenant : Nat) : Bool :=
  if s.inRecovery then r.port == 16 && part == 255 else s.proofGood r part tenant && s.partAdmits r part tenant

/-- A session number not in use, and not 0: the first from `a` upwards. -/
def State.sessionNumber (s : State) : Nat → Nat → Nat
  | 0, a => a
  | fuel + 1, a => if a % 2 ^ 32 = 0 ∨ (s.session (a % 2 ^ 32)).isSome then s.sessionNumber fuel (a + 1) else a % 2 ^ 32

/-- The status of an `OPEN`, 0 for one admitted. -/
def State.openStatus (s : State) (r : Req) : Nat :=
  if !pcrcOk r then 0x0304
  else if badReq r ∨ r.payload.length ≠ 40 ∨ numAt r.payload 1 3 ≠ 0 ∨ r.session ≠ 0 ∨ r.seq ≠ 0 then 0x0603
  else if !s.admits r (numAt r.payload 0 1) (numAt r.payload 4 4) then 0x0606
  else if 1024 ≤ s.slp.sessions.length then 0x0605
  else 0

/-- Opens a session under the number `n` and answers with it; the reply, of `SEQ` 0, is sent again until it is acknowledged (R335, R336). -/
def State.welcome (s : State) (r : Req) (n : Nat) : State :=
  let part := numAt r.payload 0 1
  let tenant := numAt r.payload 4 4
  let q : Session := { Session.reset with port := r.port, addr := r.addr, udp := r.udp, part := part, tenant := tenant,
                                          bootstrap := !s.inRecovery && s.bootstraps r tenant }
  let t := if s.inRecovery then s else { s with slp := { s.slp with admitted := mset s.slp.admitted 0 tenant (numAt r.payload 8 8) } }
  let w := t.freeWord
  let m : Msg := { port := r.port, addr := r.addr, udp := r.udp, type := 0x81, session := n, seq := 0, ack := 0, status := 0, alive := w.1.toNat,
                   loss := false, payload := leBytes 4 n ++ leBytes 4 s.hub.bootEpoch }
  ((w.2.setSession n { q with unacked := [(m, 0)] }).logSession n q 1).pumpSession n

/-- `OPEN`: refused with its status and the boot epoch, or a session. The device numbers its sessions as it likes (a free value). -/
def State.onOpen (s : State) (r : Req) : State :=
  let e := s.openStatus r
  if e ≠ 0 then (s.hostFault Session.reset e).sendBare r 0x01 0 e (leBytes 4 0 ++ leBytes 4 s.hub.bootEpoch)
  else
    let w := s.freeWord
    w.2.welcome r (s.sessionNumber 1025 w.1.toNat)

/-- An `OPEN` arrives. -/
def openStep (r : Req) (s : State) : State :=
  let t := s.takeMessage 0x01 r
  if t.2 then t.1.onOpen r else t.1

def execOpenSession (r : Req) (s : State) : Host.Outcome State Fault Refusal := act (portOk r.port) s (openStep r s)

/-! ### Commits that waited (R361) -/

/-- One waiting commit: sampled when its block instance is free, and the session's later messages after it. -/
def State.resume (s : State) (w : Nat × Nat) : State :=
  match s.session w.1, blockAt w.2 with
  | some q, some b =>
    if !s.slp.waits.contains w || s.atWork w.2 (b.inst q) then s
    else
      let s := { s with slp := { s.slp with waits := s.slp.waits.filter fun e => e.1 != w.1 } }
      State.drainInbox w.1 q.inbox.length (s.commitBlock w.1 q b w.2)
  | _, _ => s

/-- The waiting commits at a tick boundary, in the order of their arrival. -/
def State.resumeWaits (s : State) : State := s.slp.waits.foldl State.resume s

end Sys2Proof.Machine
end

