-- ==== Sys2Proof/Machine/Delivery.lean ====
section
/-! DEFINITION. What the device sends of its own accord: acknowledgments, retransmissions, completion records and log records (R335, R336, R343,
R476). -/

namespace Sys2Proof.Machine

/-- `SEND_ACK`: a side that has received without sending acknowledges (R335). -/
def sendAckStep (n : Nat) (s : State) : State :=
  match s.session n with
  | none => s
  | some q =>
    if !q.ackDue then s
    else
      let w := (s.setSession n { q with ackDue := false }).freeWord
      w.2.sendSlp { port := q.port, addr := q.addr, udp := q.udp, type := 0x7F, session := n, seq := 0, ack := q.ackNo, status := 0,
                    alive := w.1.toNat, loss := false, payload := [] }

def execSendAck (sess : Nat) (s : State) : Host.Outcome State Fault Refusal := act true s (sendAckStep sess s)

/-- The timeout of a message runs out: it is sent again, or, after its eighth transmission, the session closes (R336). `i` is its place among
the messages not acknowledged. -/
def retransmitStep (n i : Nat) (s : State) : State :=
  match s.session n with
  | none => s
  | some q =>
    match q.unacked.drop i with
    | [] => s
    | (m, c) :: _ =>
      if c = 0 then s
      else if 8 ≤ c then s.dropSession n 3
      else
        let s := s.setSession n { q with unacked := q.unacked.set i (m, c + 1), ackDue := false }
        let s := { s with slp := { s.slp with retransmitted := min (2 ^ 64 - 1) (s.slp.retransmitted + 1) } }
        s.sendSlp { m with ack := q.ackNo }

def execRetransmission (sess i : Nat) (s : State) : Host.Outcome State Fault Refusal := act true s (retransmitStep sess i s)

/-- The session's window has room (R335). -/
def Session.room (q : Session) : Bool := decide (q.unacked.length < 64)

/-- Records of 32 bytes that one message of a session holds (Table 11.6). -/
def State.perMessage (s : State) (q : Session) : Nat := s.payloadLimit q.port / 32

/-- A message of the device that is no reply; its `ALIVE` has no stated value (free). -/
def State.tell (s : State) (n type : Nat) (loss : Bool) (payload : List Byte) : State :=
  let w := s.freeWord
  w.2.sendMsg n type 0 w.1.toNat loss payload

/-- `COMPLETE`: the records that wait for a session, as many as one message holds (R343). -/
def completeStep (n : Nat) (s : State) : State :=
  match s.session n with
  | none => s
  | some q =>
    if q.completes = [] ∨ !q.room then s
    else
      let k := s.perMessage q
      (s.setSession n { q with completes := q.completes.drop k, completeLoss := false }).tell n 0x40 q.completeLoss (q.completes.take k).flatten

def execComplete (sess : Nat) (s : State) : Host.Outcome State Fault Refusal := act true s (completeStep sess s)

/-- The records at the head of a list that one tick wrote: a loss record stands before those of its tick (R474). -/
def oneTick : List LogRec → List LogRec
  | [] => []
  | x :: rest => if x.cls = 1 then x :: oneTick rest else x :: rest.takeWhile fun y => y.cls != 1 && y.tick == x.tick

/-- What a stream at record count `at0` sends of a ring, those of one tick and at most `k`, and where it then stands: overwritten records give a
loss record first (R476). -/
def LogRing.stream (r : LogRing) (part at0 k : Nat) : List LogRec × Nat × Bool :=
  let oldest := r.next - r.recs.length
  if at0 < oldest then
    let xs := (oneTick r.recs).take (k - 1)
    (r.lossHead part at0 (oldest - at0) :: xs, oldest + xs.length, true)
  else
    let xs := (oneTick (r.recs.drop (at0 - oldest))).take k
    (xs, at0 + xs.length, false)

/-- `EVENT`: records of the device ring, or of a partition's ring, to the session that its block names (R476). -/
def eventStep (n : Nat) (device : Bool) (s : State) : State :=
  match s.session n with
  | none => s
  | some q =>
    if !q.room then s
    else if device then
      let r := s.hub.log.stream 255 s.hub.stream (s.perMessage q)
      if s.dval 0x7000 0 3 0 ≠ n ∨ n = 0 ∨ r.1 = [] then s
      else (s.updHub fun h => { h with stream := r.2.1 }).tell n 0x41 r.2.2 (r.1.flatMap LogRec.bytes)
    else
      let r := (s.part q.part).log.stream q.part (s.part q.part).stream (s.perMessage q)
      if 16 ≤ q.part ∨ s.dval 0x7020 q.part 1 0 ≠ n ∨ n = 0 ∨ r.1 = [] then s
      else (s.updPart q.part fun x => { x with stream := r.2.1 }).tell n 0x41 r.2.2 (r.1.flatMap LogRec.bytes)

/-- What is due of a stream, message after message; `fuel` bounds them. -/
def State.sendEvents (n : Nat) (device : Bool) : Nat → State → State
  | 0, s => s
  | fuel + 1, s => if n = 0 then s else State.sendEvents n device fuel (eventStep n device s)

/-- No record waits for its stream longer than the tick after the one that wrote it, while the session's window has room (R476). -/
def State.sendStreams (s : State) : State :=
  let s := State.sendEvents (s.dval 0x7000 0 3 0) true (s.hub.log.next - s.hub.stream) s
  (List.range 16).foldl (fun s p =>
    State.sendEvents (s.dval 0x7020 p 1 0) false ((s.part p).log.next - (s.part p).stream) s) s

def execEvent (sess : Nat) (device : Bool) (s : State) : Host.Outcome State Fault Refusal := act true s (eventStep sess device s)

end Sys2Proof.Machine
end

