-- ==== Sys2Proof/Machine/Tick.lean ====
section
/-! DEFINITION. What passes with a control tick at the log rings and at the links (R307, R473, R474). -/

namespace Sys2Proof.Machine

/-- The order in which a ring serves the classes (R473). -/
def classOrder : List Nat := [2, 3, 4, 5, 6, 0, 7]

/-- The loss record that carries a pending loss (Table 17.5, R474). -/
def lossData (r : LogRing) : List Byte := leBytes 8 r.lostFirst ++ leBytes 4 r.lostCount ++ leBytes 4 0

/-- Appends a record under the next sequence number, the oldest going when the ring is full (R472). -/
def LogRing.push (r : LogRing) (cap : Nat) (x : LogRec) : LogRing :=
  let recs := r.recs ++ [{ x with seq := r.next % 2 ^ 32 }]
  let excess := recs.length - cap
  { r with recs := recs.drop excess, next := r.next + 1,
           overTick := if excess = 0 then r.overTick else (recs.getD (excess - 1) x).tick }

/-- A pending loss becomes a loss record (R474). -/
def LogRing.writeLoss (r : LogRing) (cap part : Nat) : LogRing :=
  if r.lostCount = 0 then r
  else
    let q := r.push cap { cls := 1, part := part, code := r.lostMask, seq := 0, tick := r.lostLast, data := lossData r }
    { q with losses := satAdd 0xFFFFFFFF q.losses 1, lostCount := 0, lostMask := 0, lostFirst := 0, lostLast := 0 }

/-- A record that finds no room joins the pending loss (R473). -/
def LogRing.drop (r : LogRing) (x : LogRec) : LogRing :=
  { r with dropped := r.dropped + 1, lostCount := satAdd 0xFFFFFFFF r.lostCount 1, lostMask := r.lostMask ||| 2 ^ x.cls,
           lostFirst := if r.lostCount = 0 then x.tick else r.lostFirst, lostLast := x.tick }

/-- The number in `n` bytes of a record's data. -/
def LogRec.field (x : LogRec) (at0 n : Nat) : Nat := leNat ((x.data.drop at0).take n)

/-- The rank of Table 17.1 that an alarm comes from: the wire, a droop, a die's temperature, a fault, the budget. What the table does not name follows
what it names (DESIGN CHOICE, log entry 103). -/
def alarmRank (n : Nat) : Nat :=
  if n ≤ 2 then n + 1 else if n = 5 ∨ n = 6 ∨ n = 7 ∨ n = 9 ∨ n = 10 then 4 else if n = 4 then 5 else 9

/-- The place of a record within its class (R473): the rank of its event, then, of alarms, their `SOURCE`, and of faults the order of rank 4. -/
def LogRec.key (x : LogRec) : Nat :=
  if x.cls = 2 then alarmRank x.code * 2 ^ 40 + x.field 2 2
  else if x.cls = 3 then
    let w := x.field 8 4
    (((w / 2 ^ 16 % 16 * 16 + w / 2 ^ 28 % 16) * 16 + w / 2 ^ 20 % 16) * 16 + w / 2 ^ 24 % 16) * 2 ^ 16 + x.code % 2 ^ 16
  else if x.cls = 5 then (if x.code = 0x3000 then 5 else if x.code = 0x3020 then 6 else 8)
  else 0

/-- A record put in its place behind those of its key or a lower one. -/
def LogRec.insert (x : LogRec) : List LogRec → List LogRec
  | [] => [x]
  | y :: rest => if x.key < y.key then x :: y :: rest else y :: LogRec.insert x rest

/-- The records of a class in their order. -/
def inOrder (xs : List LogRec) : List LogRec := xs.foldl (fun ys x => x.insert ys) []

/-- The end of a tick at a ring: the loss of an earlier tick first, then eight records in the order of their classes, and within one of their keys
(R473). -/
def LogRing.flush (r : LogRing) (cap part : Nat) : LogRing :=
  let a := r.writeLoss cap part
  let xs := classOrder.flatMap fun c => inOrder (r.due.filter fun x => x.cls == c)
  let b := (xs.take 8).foldl (fun q x => q.push cap x) a
  let d := (xs.drop 8).foldl (fun q x => q.drop x) b
  { d with due := [] }

/-- The log rings at the end of a tick. -/
def State.flushLogs (s : State) : State :=
  let s := s.updHub fun h => { h with log := h.log.flush 4096 255 }
  (List.range 16).foldl (fun s p => s.updPart p fun q => { q with log := q.log.flush 1024 p }) s

/-- The next tick of a lane substitution: the link drains, then retrains for 2 ticks, `STATE` 4 (Table 10.3). -/
def LinkDir.advance (l : LinkDir) : LinkDir :=
  if l.failing.isEmpty ∨ l.state = 0 ∨ l.state = 1 ∨ 4 ≤ l.retrain then l
  else { l with retrain := l.retrain + 1, state := if l.retrain = 0 then l.state else 4 }

/-- A lane's charges count within one tick (R307); the worst of the tick is kept (Table 10.12). -/
def LinkDir.endTick (l : LinkDir) : LinkDir :=
  { l.advance with charge := [], worst := (l.charge.foldl (fun (b : Nat × Nat) e => if b.2 < e.2 then e else b) (l.worst, 0)).1 }

end Sys2Proof.Machine
end

