-- ==== Sys2Proof/Machine/Clock.lean ====
section
/-! DEFINITION. The end of a control tick (R466). -/

namespace Sys2Proof.Machine

/-- The tick ends: spares of units no job uses, versions built and configurations committed while no job runs take effect (R58, R130, R235, R295, R437),
queries whose unit is free are answered (R107, R180), records of the tick before go to their streams (R476), its own enter the rings, the counts of
the tick restart, the counter rises (R466), ticks under alert force count (Table 14.11); faults reported, then commits that waited, are sampled at
the new tick's boundary (R361, R467, R468). -/
def State.tickOver (s : State) : State :=
  let s := s.settleSpares.settleVersions.settleCommits.settleSkinks.settleQueries.sendStreams.flushLogs
  let s := { s with links := s.links.map (fun (e : Nat × LinkDir) => (e.1, e.2.endTick)) }
  let s := s.updPower fun w =>
    { w.swapCeilings with latched := w.wires, forceTicks := if w.forceEnd ≠ 0 then satAdd 0xFFFFFFFF w.forceTicks 1 else w.forceTicks }
  (s.updHub fun h => { h with tick := h.tick + 1 }).sampleFaults.resumeWaits

/-- No tick passes while `PORST_N` holds the device or its reference clock is gone (R466). -/
def State.endTick (s : State) : State := if s.hub.phase = .porst ∨ s.hub.refLost then s else s.tickOver

end Sys2Proof.Machine
end

