-- ==== Sys2Proof/Machine/Commands.lean ====
section
/-! DEFINITION. Commits as commands: session `sess`'s commit of a block, sampled as its `DWRITE` of 1 to the commit entry, where its staged copy asks
for the action that the command names (R297, R314, R327, R329, R342, R360, R365, R378, R417 to R422, R449, R454, R461, R463, R471, R478). -/

namespace Sys2Proof.Machine

/-- The `DWRITE` of one byte to a block's commit entry, as session `n`'s next message, accepted at its port. -/
def commitReq (n : Nat) (q : Session) (index v : Nat) : Req :=
  let bs := leBytes 2 index ++ [0xFF, 0] ++ leBytes 4 0 ++ leBytes 2 1 ++ List.replicate 6 0 ++ leBytes 8 v
  { port := q.port, wrap := Wrap.none, addr := q.addr, dst := [], udp := q.udp, dport := 0, check := 0, head := 16, flags := 0, session := n,
    seq := q.rxNext, ack := 0, len := bs.length, status := 0, alive := 0, pcrc := slpPcrc bs 0, hcrc := 0, payload := bs }

/-- The session can act on its next message at once. -/
def State.sessionFree (s : State) (n : Nat) (q : Session) : Bool := !s.sessionWaits n && q.inbox.isEmpty

/-- Session `n` commits the block at `index`, if its copy passes the test. -/
def rowCommit (n index : Nat) (test : Staged → Bool) (s : State) : State :=
  match s.session n, blockAt index with
  | some q, some b =>
    if s.sessionFree n q && test (s.copyFor q b index (b.inst q)) then s.deliver n 0x11 (commitReq n q index 1) else s
  | _, _ => s

/-- The copy's entry `sub` holds `v`. -/
def asks (sub v : Nat) (c : Staged) : Bool := c.num sub == v
/-- Any copy. -/
def anyCopy (_ : Staged) : Bool := true

def execKill (sess : Nat) (s : State) : Host.Outcome State Fault Refusal := act true s (rowCommit sess 0x2010 (asks 1 1) s)
def execFlush (sess : Nat) (h : Harm) (s : State) : Host.Outcome State Fault Refusal := act true s (rowCommit sess 0x2010 (asks 1 2) (s.suffer h))
def execHold (sess : Nat) (s : State) : Host.Outcome State Fault Refusal := act true s (rowCommit sess 0x2010 (asks 1 3) s)
def execRelease (sess : Nat) (s : State) : Host.Outcome State Fault Refusal := act true s (rowCommit sess 0x2010 (asks 1 4) s)
def execRingCommit (sess : Nat) (s : State) : Host.Outcome State Fault Refusal := act true s (rowCommit sess 0x8100 anyCopy s)
def execWindowOpen (sess : Nat) (s : State) : Host.Outcome State Fault Refusal := act true s (rowCommit sess 0x8400 (asks 2 1) s)
def execWindowClose (sess : Nat) (s : State) : Host.Outcome State Fault Refusal := act true s (rowCommit sess 0x8400 (asks 2 2) s)
def execPartitionCreate (sess : Nat) (s : State) : Host.Outcome State Fault Refusal := act true s (rowCommit sess 0x2000 (asks 0xA 1) s)
def execPartitionRemove (sess : Nat) (s : State) : Host.Outcome State Fault Refusal := act true s (rowCommit sess 0x2000 (asks 0xA 2) s)
def execFullPlacement (sess : Nat) (s : State) : Host.Outcome State Fault Refusal := act true s (rowCommit sess 0x2100 (asks 4 1) s)
def execEmptyReloadList (sess : Nat) (s : State) : Host.Outcome State Fault Refusal := act true s (rowCommit sess 0x2100 (asks 4 2) s)
def execTenantCommit (sess : Nat) (s : State) : Host.Outcome State Fault Refusal := act true s (rowCommit sess 0x6010 anyCopy s)
def execBudgetCommit (sess : Nat) (s : State) : Host.Outcome State Fault Refusal := act true s (rowCommit sess 0x3000 anyCopy s)
def execWeightCommit (sess : Nat) (s : State) : Host.Outcome State Fault Refusal := act true s (rowCommit sess 0x3010 anyCopy s)
def execPaceCommit (sess : Nat) (s : State) : Host.Outcome State Fault Refusal := act true s (rowCommit sess 0x3020 anyCopy s)
def execRailCommit (sess : Nat) (s : State) : Host.Outcome State Fault Refusal := act true s (rowCommit sess 0x3040 anyCopy s)
def execAlertCommit (sess : Nat) (s : State) : Host.Outcome State Fault Refusal := act true s (rowCommit sess 0x3050 anyCopy s)
def execThermalCommit (sess : Nat) (s : State) : Host.Outcome State Fault Refusal := act true s (rowCommit sess 0x4000 anyCopy s)
def execArrayMaintenanceCommit (sess : Nat) (s : State) : Host.Outcome State Fault Refusal := act true s (rowCommit sess 0x5110 anyCopy s)
def execSramPatrolCommit (sess : Nat) (s : State) : Host.Outcome State Fault Refusal := act true s (rowCommit sess 0x5120 anyCopy s)
def execDramPatrolCommit (sess : Nat) (s : State) : Host.Outcome State Fault Refusal := act true s (rowCommit sess 0x5210 anyCopy s)
def execOverflowPolicyCommit (sess : Nat) (s : State) : Host.Outcome State Fault Refusal := act true s (rowCommit sess 0x9010 anyCopy s)
def execPortCommit (sess port : Nat) (s : State) : Host.Outcome State Fault Refusal := act (portOk port) s (rowCommit sess (portIndex port) anyCopy s)
def execSlpSettingsCommit (sess : Nat) (s : State) : Host.Outcome State Fault Refusal := act true s (rowCommit sess 0x1020 anyCopy s)
def execTimeCommit (sess : Nat) (s : State) : Host.Outcome State Fault Refusal := act true s (rowCommit sess 0x1040 anyCopy s)
def execQueryStored (sess : Nat) (s : State) : Host.Outcome State Fault Refusal := act true s (rowCommit sess 0x5130 (asks 2 0) s)
def execQueryRemeasure (sess : Nat) (s : State) : Host.Outcome State Fault Refusal := act true s (rowCommit sess 0x5130 (asks 2 1) s)
def execQueryShadow (sess : Nat) (s : State) : Host.Outcome State Fault Refusal := act true s (rowCommit sess 0x5130 (asks 2 2) s)
def execAccumulatorRead (sess : Nat) (s : State) : Host.Outcome State Fault Refusal := act true s (rowCommit sess 0xA020 anyCopy s)
def execAlarmClear (sess : Nat) (s : State) : Host.Outcome State Fault Refusal := act true s (rowCommit sess 0x7000 anyCopy s)
def execTraceCommit (sess : Nat) (s : State) : Host.Outcome State Fault Refusal := act true s (rowCommit sess 0x7020 anyCopy s)
def execQuote (sess : Nat) (s : State) : Host.Outcome State Fault Refusal := act true s (rowCommit sess 0x6030 anyCopy s)
def execDebugCommit (sess : Nat) (s : State) : Host.Outcome State Fault Refusal := act true s (rowCommit sess 0x6040 anyCopy s)
def execClearTenants (sess : Nat) (s : State) : Host.Outcome State Fault Refusal := act true s (rowCommit sess 0x6100 (asks 3 3) s)
def execRaiseMinimum (sess : Nat) (s : State) : Host.Outcome State Fault Refusal := act true s (rowCommit sess 0x6100 (asks 3 4) s)

/-- The index of a port's key block (Table 16.7). -/
def keyIndex (p : Nat) : Nat := if p < 16 then 0x6200 + p else 0x6210

def execInstall (sess port : Nat) (s : State) : Host.Outcome State Fault Refusal := act (portOk port) s (rowCommit sess (keyIndex port) (asks 7 1) s)
def execDelete (sess port : Nat) (s : State) : Host.Outcome State Fault Refusal := act (portOk port) s (rowCommit sess (keyIndex port) (asks 7 2) s)

/-- `COMMIT_DISCARD`: 0 written to a block's commit entry discards the session's staged copy (R360). -/
def discardCommitStep (n index : Nat) (s : State) : State :=
  match s.session n, blockAt index with
  | some q, some b =>
    if s.sessionFree n q && (b.entry 0xFF).isSome then s.deliver n 0x11 (commitReq n q index 0) else s
  | _, _ => s

def execCommitDiscard (sess index : Nat) (s : State) : Host.Outcome State Fault Refusal := act true s (discardCommitStep sess index s)

/-! ### Firmware actions that outlast their tick (R449) -/

/-- The firmware action of session `n` ends: its result stands, its reply goes, and its later messages follow. -/
def State.endAction (s : State) (n status : Nat) : State :=
  match s.session n with
  | none => s
  | some q =>
    let s := { s with slp := { s.slp with waits := s.slp.waits.filter fun e => e.1 != n } }
    State.drainInbox n q.inbox.length ((s.noteResult 0x6100 0 status).reply n 0x11 status [])

/-- The action at work is `act`, of session `n`. -/
def State.actionOf (s : State) (n act : Nat) : Bool := s.slp.waits.contains (n, firmwareGoesOn) && s.dval 0x6100 0 3 0 == act

/-- The action is committed if the session has not done so, and then ends with what `f` answers. -/
def firmwareStep (n act : Nat) (f : State → State × Nat) (s : State) : State :=
  let s := if s.actionOf n act then s else rowCommit n 0x6100 (asks 3 act) s
  if s.actionOf n act then
    let r := f s
    r.1.endAction n r.2
  else s

def execProgramFlash (sess : Nat) (ok : Bool) (s : State) : Host.Outcome State Fault Refusal :=
  act true s (firmwareStep sess 1 (fun s => s.programChunk ok) s)

def execFinish (sess : Nat) (image : Option ImageRead) (s : State) : Host.Outcome State Fault Refusal :=
  act true s (firmwareStep sess 2 (fun s => s.finishImage image) s)

end Sys2Proof.Machine
end

