-- ==== Sys2Proof/Machine/Engines.lean ====
section
/-! DEFINITION. The operations of Newt, Peeper, Chameleon, Gecko, Bullfrog and Toad (R189, R203 to R208, R250 to R268, R271). -/

namespace Sys2Proof.Machine

/-! ### Fields of a record that an operation uses -/

/-- Which bits of bytes 32..63 an operation uses: (byte, bytes, mask of each). -/
abbrev Uses := List (Nat × Nat × Nat)

/-- The bits of one byte that are in use. -/
def Uses.mask (u : Uses) (b : Nat) : Nat := match u.find? fun e => decide (e.1 ≤ b ∧ b < e.1 + e.2.1) with | none => 0 | some e => e.2.2

/-- A reserved or unused bit of bytes 32..63 is set (R241). -/
def Op.strayBits (o : Op) (u : Uses) : Bool := (List.range 32).any fun i => uAt o.record (32 + i) 1 &&& (255 - Uses.mask u (32 + i)) != 0

/-- Adds to a counter of the operation's partition. -/
def Op.bump (o : Op) (s : State) (key n max : Nat) : State :=
  match (s.core o.core).part with | none => s | some p => s.count p key n max

/-- The four bytes at word `i` of an operand. -/
def Op.word (o : Op) (s : State) (x : Operand) (i : Nat) : Except Nat Nat :=
  match o.bytes s (x.plus (4 * i)) 4 with | .error e => .error e | .ok bs => .ok (leNat bs)

/-- Words of an operand, in order. -/
def Op.words (o : Op) (s : State) (x : Operand) (n : Nat) : Except Nat (List Nat) := allOk (o.word s x) (List.range n)

/-- Reads every source element of `bIn` bits and stores what `f` makes of it at the destination, element by element (R287). -/
def Op.mapElems (o : Op) (bIn bOut : Nat) (f : List Nat → Nat → Except Nat Nat) (s : State) : Done :=
  let es := o.elements
  eng s (o.gets (o.src s) o.d.srcOff bIn s (es.map Prod.snd)) fun r =>
    eng r.2 (allOk (fun e => f e.1.1 e.2) (es.zip r.1)) fun vs =>
      o.puts (o.dst r.2) o.d.dstOff bOut r.2 ((es.map fun e => elementAt o.d.ds e.1).zip vs)

/-- A recipe with no secondary input and one output. -/
def simpleRecipe (uses : Op → Uses) (own : Op → List (Bool × Nat)) (body : Op → State → Done) : Recipe :=
  { second := false, output := true, plain := false, handles := fun _ => [], own := fun o => (o.strayBits (uses o), 0x0141) :: own o,
    secondary := fun _ _ => none, body := body }

/-- The parameter handle, byte 33. -/
def parHandle (o : Op) : List Nat := [uAt o.record 33 1 % 64]

/-! ### Newt (R250, R251) -/

def permOf (o : Op) : List Nat := (List.range 5).map fun d => field (uAt o.record 32 2) (3 * d + 2) (3 * d)
/-- Bits of an element by `ESIZE`: 0 four bits. -/
def newtBits (o : Op) : Nat := let es := uAt o.record 34 1; if es = 0 then 4 else 8 * 2 ^ (es - 1)

/-- Served by the register tile: neither the innermost dimension kept nor the diagonal scheme (R251). -/
def registerTile (o : Op) : Bool :=
  let p := permOf o
  let e := newtBits o / 8
  let d0 := p.idxOf 0
  let ext := fun (i : Nat) => (o.dims.getD i []).length
  let diagonal := e != 0 && o.d.ss.getD 0 0 == 1 && o.d.ds.getD 0 0 == 1 && o.d.ss.getD (p.getD 0 0) 0 * e % 64 == 0 &&
    o.d.ds.getD d0 0 * e % 64 == 0 && ext 0 % (64 / e) == 0 && ext (p.getD 0 0) % (64 / e) == 0
  p.getD 0 0 != 0 && !diagonal

/-- Source and destination element of every destination position, in the destination's address-generation order. -/
def permutePairs (o : Op) : List (Nat × Nat) :=
  let p := permOf o
  (tuples (p.map fun q => o.dims.getD q [])).map fun t =>
    (elementAt o.d.ss ((List.range 5).map fun q => t.getD (p.idxOf q) 0), elementAt o.d.ds t)

def permuteRecipe : Recipe :=
  simpleRecipe (fun _ => [(32, 1, 255), (33, 1, 127), (34, 1, 3)]) (fun o => [((List.range 5).any (fun q => !(permOf o).contains q), 0x0141)])
    fun o s =>
      let ps := permutePairs o
      eng s (o.gets (o.src s) o.d.srcOff (newtBits o) s (ps.map Prod.fst)) fun r =>
        (o.puts (o.dst r.2) o.d.dstOff (newtBits o) r.2 ((ps.map Prod.snd).zip r.1)).andThen fun s =>
          (if registerTile o then o.bump s cNewtTile 1 u64Max else s, none)

def execPermute (core : Nat) (ph : Carry) (h : Harm) (s : State) : Host.Outcome State Fault Refusal :=
  act (coreOk core) s (engineStep core 1 0 permuteRecipe ph (s.suffer h))

/-! ### Peeper (R253 to R256) -/

def peepBits (o : Op) : Nat := 8 * 2 ^ (uAt o.record 32 1 % 4)
def peepAcc (o : Op) : Nat := uAt o.record 32 1 / 4 % 4
def peepIndices (o : Op) (s : State) : Operand := o.operand s 33 36
def peepCount (o : Op) : Nat := o.u 40
def peepRow (o : Op) : Nat := o.u 44
def peepScale (o : Op) : Int := iAt o.record 48 4

/-- Element numbers that the indices name, in list order, then ascending in the row (R253). -/
def peepElements (o : Op) (idx : List Nat) : List Nat :=
  idx.flatMap fun i => (List.range (peepRow o)).map fun r => ((s32 i * peepScale o + r) % 2 ^ 32).toNat

/-- A row or list of no length moves nothing. -/
def peepEmpty (o : Op) : Bool := peepCount o == 0 || peepRow o == 0

/-- Uses and refusals that `GATHER` and `SCATTER` share. -/
def peepRecipe (acc : Nat) (idle : Op → Bool) (own : Op → List (Bool × Nat)) (uses : Uses) (body : Op → State → Done) : Recipe :=
  { second := true, output := true, plain := false, handles := parHandle,
    own := fun o => [(o.strayBits ((32, 1, 3 + acc) :: (33, 1, 63) :: (36, 4, 255) :: (40, 4, 255) :: uses), 0x0141)] ++ own o ++
      [(o.u 36 % 4 != 0 || o.u 52 % 4 != 0, 0x0102)],
    secondary := fun o s => some (peepIndices o s), idle := idle, body := body }

def gatherRecipe : Recipe :=
  peepRecipe 0 peepEmpty (fun _ => []) [(44, 4, 255), (48, 4, 255)] fun o s =>
      eng s (o.words s (peepIndices o s) (peepCount o)) fun idx =>
        eng s (o.gets (o.src s) o.d.srcOff (peepBits o) s (peepElements o idx)) fun r =>
          o.puts (o.dst r.2) o.d.dstOff (peepBits o) r.2 ((o.shape (peepRow o) (peepCount o) 1).zip r.1)

def execGather (core : Nat) (ph : Carry) (h : Harm) (s : State) : Host.Outcome State Fault Refusal :=
  act (coreOk core) s (engineStep core 2 0 gatherRecipe ph (s.suffer h))

/-- Adds or stores elements at a destination, in order (R255). -/
def Op.scatterTo (o : Op) (s : State) : List (Nat × Nat) → Done
  | [] => (s, none)
  | (n, v) :: rest =>
    let s := o.countWide s { h := o.dst s, off := (bitPlace o.d.dstOff n (peepBits o)).1 } (peepBits o / 8)
    let r := if peepAcc o = 0 then o.put s (o.dst s) o.d.dstOff (peepBits o) n v
      else if o.waits s { h := o.dst s, off := elemOff o.d.dstOff n 3 } 4 then .error noCredit
      else s.atomicAt o.die o.core { h := o.dst s, off := elemOff o.d.dstOff n 3 } 4 (if peepAcc o = 1 then addI32 v else addF32 v)
    eng s r fun s => Op.scatterTo o s rest

def scatterRecipe : Recipe :=
  peepRecipe 12 peepEmpty
    (fun o => [(peepAcc o == 3 || (peepAcc o != 0 && peepBits o != 32) || (!peepEmpty o && o.count != peepCount o * peepRow o), 0x0141)])
    [(44, 4, 255), (48, 4, 255)] fun o s =>
      eng s (o.words s (peepIndices o s) (peepCount o)) fun idx =>
        eng s (o.gets (o.src s) o.d.srcOff (peepBits o) s (o.elements.map Prod.snd)) fun r =>
          o.scatterTo r.2 ((peepElements o idx).zip r.1)

def execScatter (core : Nat) (ph : Carry) (h : Harm) (s : State) : Host.Outcome State Fault Refusal :=
  act (coreOk core) s (engineStep core 2 1 scatterRecipe ph (s.suffer h))

/-- Not zero; an FP32 −0.0 counts as zero. -/
def nonZero (b v : Nat) : Bool := v != 0 && !(b == 32 && v == 0x80000000)

def compressRecipe : Recipe :=
  peepRecipe 0 (fun _ => false) (fun _ => []) [(52, 4, 255)] fun o s =>
    let es := o.elements.map Prod.snd
    eng s (o.gets (o.src s) o.d.srcOff (peepBits o) s es) fun r =>
      let found := ((List.range es.length).zip r.1).filter fun e => nonZero (peepBits o) e.2
      let kept := found.take (peepCount o)
      let s := r.2
      (o.puts (o.dst s) o.d.dstOff (peepBits o) s ((o.shape kept.length 1 1).zip (kept.map Prod.snd))).andThen fun s =>
        (({ o with wide := false } : Op).puts (o.handleAt s 33) (o.u 36) 32 s ((List.range kept.length).zip (kept.map Prod.fst))).andThen fun s =>
          eng s (o.write s (o.operand s 33 52) (leBytes 4 found.length)) fun s => (s, none)

def execCompress (core : Nat) (ph : Carry) (h : Harm) (s : State) : Host.Outcome State Fault Refusal :=
  act (coreOk core) s (engineStep core 2 2 compressRecipe ph (s.suffer h))

/-! ### Chameleon (R188, R189, R258 to R260) -/

def chFmt (o : Op) : Nat := uAt o.record 32 1 % 8
def chPerLane (o : Op) : Bool := (uAt o.record 32 1).testBit 3
def chGsize (o : Op) : Nat := uAt o.record 32 1 / 16 % 4
def chAsign (o : Op) : Bool := (uAt o.record 32 1).testBit 6
def chSigsrc (o : Op) : Bool := (uAt o.record 34 1).testBit 5
def chStats (o : Op) : Bool := (uAt o.record 35 1).testBit 0

/-- The recipe of an operation that reads parameters. -/
def paramRecipe (second : Bool) (uses : Op → Uses) (own : Op → List (Bool × Nat)) (off : Nat) (body : Op → State → Done) : Recipe :=
  { second := second, output := true, plain := false, handles := parHandle, own := fun o => (o.strayBits (uses o), 0x0141) :: own o,
    secondary := fun o s => some (o.operand s 33 off), body := body }

def rescaleRecipe : Recipe :=
  paramRecipe true
    (fun o => [(32, 1, 7), (33, 1, 63), (34, 1, if chSigsrc o then 32 else 31), (36, 4, 255)] ++ (if chSigsrc o then [(56, 4, 255)] else []))
    (fun o => [(decide (5 < chFmt o), 0x0141)]) 36 fun o s =>
      let par := o.operand s 33 36
      eng s (o.bytes s par 64) fun hdr =>
        let rq := rescaleOf hdr
        if !rq.sound then (s, some (0x0117, 5))
        else
          eng s (if chSigsrc o then o.bytes s (o.operand s 33 56) 1 else .ok [BitVec.ofNat 8 (uAt o.record 34 1 % 32)]) fun sg =>
            o.mapElems 32 (ifmtBits (chFmt o)) (fun t v =>
              match (if rq.perLane then o.word s (par.plus 64) (t.headD 0) else .ok (u32 rq.mult)) with
              | .error e => .error e
              | .ok m =>
                let y := requantise (s32 v) (leNat sg) rq (s32 m)
                .ok (u32 (min (max y (fmtLo (chFmt o))) (fmtHi (chFmt o))))) s

def execRescale (core : Nat) (ph : Carry) (h : Harm) (s : State) : Host.Outcome State Fault Refusal :=
  act (coreOk core) s (engineStep core 3 0 rescaleRecipe ph (s.suffer h))

/-- The groups of the primary input's rows (R185): element numbers, with the destination's beside them. -/
def Op.groups (o : Op) : List (List (Nat × Nat)) :=
  let es := o.elements.map fun e => (e.2, elementAt o.d.ds e.1)
  groupsOf (groupSize (chGsize o)) (chunks (o.dims.headD []).length (es.length + 1) es)

/-- The statistics entry of group `j` is updated (R187). -/
def Op.stats (o : Op) (s : State) (j : Nat) (g : Group) : Except Nat State :=
  let x := (o.operand s 33 44).plus (8 * j)
  match o.bytes s x 8 with
  | .error e => .error e
  | .ok old => o.write s x (statUpdate old g)

/-- Encodes groups from group `j` on, writing codes from byte `off` of the destination when `out` (R184 to R187, R193). -/
def Op.encode (o : Op) (out : Bool) (s : State) (j off : Nat) : List (List (Nat × Nat)) → Done
  | [] => (s, none)
  | g :: rest =>
    eng s (o.bytes s ((o.operand s 33 40).plus j) 1) fun sc =>
      let scale := leNat sc
      if s8E scale = 31 then (s, some (0x0120, 6))
      else
        eng s (o.gets (o.src s) o.d.srcOff 8 s (g.map Prod.fst)) fun r =>
          let grp := encodeGroup scale (chAsign o) (r.1.map fun v => a8 (chAsign o) (BitVec.ofNat 8 v))
          let bs := plainGroup scale grp
          let x := (o.output r.2).plus off
          let u := if out then o.countWide r.2 x bs.length else r.2
          eng u (if out then o.write u x bs else .ok u) fun s =>
            eng s (if chStats o then o.stats s j grp else .ok s) fun s => Op.encode o out s (j + 1) (off + bs.length) rest

/-- Uses of the B4 operations. -/
def b4Uses (o : Op) : Uses := [(32, 1, 0x70), (33, 1, 63), (35, 1, 1), (40, 4, 255)] ++ (if chStats o then [(44, 4, 255)] else [])
def b4Own (o : Op) : List (Bool × Nat) := [(chGsize o == 3, 0x0141), (o.u 44 % 8 != 0, 0x0102)]

def encb4Recipe : Recipe := paramRecipe true b4Uses b4Own 40 fun o s => o.encode true s 0 0 o.groups
def execEncb4 (core : Nat) (ph : Carry) (h : Harm) (s : State) : Host.Outcome State Fault Refusal :=
  act (coreOk core) s (engineStep core 3 1 encb4Recipe ph (s.suffer h))

/-- Decodes groups that lie one after the other from byte `off` of the source. -/
def Op.decode (o : Op) (s : State) (off : Nat) : List (List (Nat × Nat)) → Done
  | [] => (s, none)
  | g :: rest =>
    let n := 1 + 8 * ceilDiv g.length 16
    eng s (o.bytes s ((o.primary s).plus off) n) fun bs =>
      let ys := ((wireDecode false (chAsign o) g.length bs).getD []).map fun y => (BitVec.ofInt 8 y).toNat
      (o.puts (o.dst s) o.d.dstOff 8 s ((g.map Prod.snd).zip ys)).andThen fun s => Op.decode o s (off + n) rest

def decb4Recipe : Recipe := simpleRecipe (fun _ => [(32, 1, 0x70)]) (fun o => [(chGsize o == 3, 0x0141)]) fun o s => o.decode s 0 o.groups
def execDecb4 (core : Nat) (ph : Carry) (h : Harm) (s : State) : Host.Outcome State Fault Refusal :=
  act (coreOk core) s (engineStep core 3 2 decb4Recipe ph (s.suffer h))

/-- The factor F_o of R259. -/
def chFactor (o : Op) (s : State) (t : List Nat) : Except Nat Nat := if chPerLane o then o.word s (o.operand s 33 36) (t.headD 0) else .ok (o.u 48)
/-- Uses of `QUANT` and `DEQUANT`. -/
def quantUses (o : Op) : Uses := [(32, 1, 15), (52, 4, 255)] ++ (if chPerLane o then [(33, 1, 63), (36, 4, 255)] else [(48, 4, 255)])
/-- The parameter handle counts only with a factor vector. -/
def quantRecipeOf (fmts : Nat) (body : Op → State → Done) : Recipe :=
  { paramRecipe true quantUses (fun o => [(decide (fmts < chFmt o) || (!chPerLane o && o.ckin.testBit 1), 0x0141)]) 36 body with
      handles := fun o => if chPerLane o then parHandle o else [] }

/-- `QUANT` of one element. -/
def quantOne (fmt x f : Nat) (zero : Int) : Int :=
  let p := fmul x f
  let y := if isNan32 x then 0 else if isNan32 p then (Config.quantNan (BitVec.ofNat 32 x) (BitVec.ofNat 32 f)).toInt else satRound p
  min (max (y + zero) (fmtLo fmt)) (fmtHi fmt)

def quantRecipe : Recipe :=
  quantRecipeOf 5 fun o s => o.mapElems 32 (ifmtBits (chFmt o)) (fun t x =>
    match chFactor o s t with | .error e => .error e | .ok f => .ok (u32 (quantOne (chFmt o) x f (iAt o.record 52 4)))) s
def execQuant (core : Nat) (ph : Carry) (h : Harm) (s : State) : Host.Outcome State Fault Refusal :=
  act (coreOk core) s (engineStep core 3 3 quantRecipe ph (s.suffer h))

/-- The integer that a stored element of a format is. -/
def fmtInt (fmt v : Nat) : Int :=
  if fmt = 6 then s32 v else if ifmtSigned fmt then (if v < 2 ^ (ifmtBits fmt - 1) then (v : Int) else (v : Int) - 2 ^ ifmtBits fmt) else v

def dequantRecipe : Recipe :=
  quantRecipeOf 6 fun o s => o.mapElems (if chFmt o = 6 then 32 else ifmtBits (chFmt o)) 32 (fun t v =>
    match chFactor o s t with | .error e => .error e | .ok f => .ok (fmul (f32OfInt (fmtInt (chFmt o) v - iAt o.record 52 4)) f)) s
def execDequant (core : Nat) (ph : Carry) (h : Harm) (s : State) : Host.Outcome State Fault Refusal :=
  act (coreOk core) s (engineStep core 3 4 dequantRecipe ph (s.suffer h))

/-- At or below zero, or NaN. -/
def s8Low (x : Nat) : Bool := isNan32 x || !flt 0 x
/-- Above 61,440. -/
def s8High (x : Nat) : Bool := flt 0x47700000 x

def tos8Recipe : Recipe :=
  simpleRecipe (fun _ => []) (fun _ => []) fun o s =>
    eng s (o.gets (o.src s) o.d.srcOff 32 s (o.elements.map Prod.snd)) fun r =>
      (o.mapElems 32 8 (fun _ x => .ok (toS8 x)) r.2).andThen fun s =>
        (o.bump (o.bump s cTos8Low (r.1.filter s8Low).length u64Max) cTos8High (r.1.filter s8High).length u64Max, none)
def execTos8 (core : Nat) (ph : Carry) (h : Harm) (s : State) : Host.Outcome State Fault Refusal :=
  act (coreOk core) s (engineStep core 3 5 tos8Recipe ph (s.suffer h))

/-- Adapts the groups of a scale tensor from group `j` on (R189). -/
def Op.adapt (o : Op) (r : Adapt) (s : State) (j : Nat) : List Nat → Done
  | [] => (s, none)
  | n :: rest =>
    let x := (o.operand s 33 44).plus (8 * j)
    eng s (o.get s (o.src s) o.d.srcOff 8 n) fun sc =>
      eng sc.2 (o.bytes sc.2 x 8) fun st =>
        let a := adaptGroup r sc.1 st
        eng sc.2 (o.put sc.2 (o.src sc.2) o.d.srcOff 8 n a.1) fun s =>
          eng s (o.write s x a.2) fun s => Op.adapt o r s (j + 1) rest

def adaptRecipe : Recipe :=
  { paramRecipe true (fun _ => [(33, 1, 63), (36, 4, 255), (44, 4, 255)]) (fun o => [(o.u 44 % 8 != 0, 0x0102)]) 44 (fun o s =>
      eng s (o.bytes s (o.operand s 33 36) 16) fun bs =>
        let r := adaptOf bs
        if r.sound then o.adapt r s 0 (o.elements.map Prod.snd) else (s, some (0x0122, 5))) with output := false }
def execAdapt (core : Nat) (ph : Carry) (h : Harm) (s : State) : Host.Outcome State Fault Refusal :=
  act (coreOk core) s (engineStep core 3 6 adaptRecipe ph (s.suffer h))

def clipstatRecipe : Recipe := { paramRecipe true b4Uses b4Own 40 (fun o s => o.encode false s 0 0 o.groups) with output := false }
def execClipstat (core : Nat) (ph : Carry) (h : Harm) (s : State) : Host.Outcome State Fault Refusal :=
  act (coreOk core) s (engineStep core 3 7 clipstatRecipe ph (s.suffer h))

/-! ### Gecko: rows (R261 to R263) -/

def geType (o : Op) : Nat := uAt o.record 32 1 % 4
def geOut (o : Op) : Nat := uAt o.record 32 1 / 4 % 8
def geCausal (o : Op) : Bool := (uAt o.record 32 1).testBit 5
def geL (o : Op) : Nat := o.u 36
/-- Bits of an input type. -/
def geBits (ty : Nat) : Nat := if ty = 0 ∨ ty = 2 then 32 else if ty = 1 then 16 else 8

/-- The input value as FP32: exact, or rounded for INT32. -/
def geValue (ty v : Nat) : Nat := if ty = 0 then v else if ty = 1 then v * 65536 else if ty = 2 then f32OfInt (s32 v) else f32OfInt (BitVec.ofNat 8 v).toInt

/-- The bits of an output of a type: FP32, BF16, E4M3, or A8 by way of `F_OUT`. -/
def geStore (oty fout y : Nat) : Nat := if oty = 3 then u32 (toA8 (fmul y fout)) else narrow oty y
def geOutBits (oty : Nat) : Nat := if oty = 0 then 32 else if oty = 1 then 16 else 8

/-- Reads the rows, as z. -/
def Op.rows (o : Op) (s : State) : Except Nat (List (List Nat) × State) :=
  match o.gets (o.src s) o.d.srcOff (geBits (geType o)) s (o.elements.map Prod.snd) with
  | .error e => .error e
  | .ok (vs, s) => .ok (chunks (geL o) (vs.length + 1) (vs.map fun v => fmul (geValue (geType o) v) (o.u 44)), s)

/-- A row operation: `f` of each row with its number; its outputs lie at the places `at'` of so many rows. -/
def Op.eachRow (o : Op) (at' : Nat → List Nat) (f : Nat → List Nat → List Nat) (s : State) : Done :=
  eng s (o.rows s) fun r =>
    let outs := ((List.range r.1.length).zip r.1).flatMap fun e => f e.1 e.2
    o.puts (o.dst r.2) o.d.dstOff (geOutBits (geOut o)) r.2
      ((at' r.1.length).zip (outs.map (geStore (geOut o) (o.u 48))))

/-- Uses of the row operations, and the row length. -/
def rowUses (mask32 : Nat) (o : Op) : Uses := [(32, 1, mask32), (36, 4, 255), (44, 4, 255)] ++ (if geOut o = 3 then [(48, 4, 255)] else [])
def rowOwn (o : Op) : List (Bool × Nat) := [(geL o == 0 || decide (3 < geOut o) || o.count % geL o != 0, 0x0141)]

/-- The largest of a list by FP32 order; +0.0 above −0.0. -/
def maxF (a b : Nat) : Nat := if isNan32 a then a else if isNan32 b then nan32 else if flt a b || (a == 0x80000000 && b == 0) then b else a
def maxOf (zs : List Nat) : Nat := zs.tail.foldl maxF (zs.headD 0)

/-- `SOFTMAX` of row r (R261). -/
def softmaxRow (o : Op) (r : Nat) (z : List Nat) : List Nat :=
  let valid := fun (j : Nat) => !geCausal o || decide ((j : Int) ≤ r + s32 (o.u 60))
  let js := (List.range z.length).filter valid
  if js.isEmpty then z.map fun _ => 0
  else if js.any fun j => isNan32 (z.getD j 0) then z.map fun _ => nan32
  else
    let m := maxOf (js.map fun j => z.getD j 0)
    let e := (List.range z.length).map fun j => if valid j then expFn (fsub (z.getD j 0) m) else 0
    let sum := js.foldl (fun a j => fadd a (e.getD j 0)) 0
    let q := fdiv f32One sum
    (List.range z.length).map fun j => if valid j then fmul (e.getD j 0) q else 0

def softmaxRecipe : Recipe :=
  simpleRecipe (fun o => rowUses 0x3F o ++ (if geCausal o then [(60, 4, 255)] else [])) rowOwn fun o s => o.eachRow (fun n => o.shape (geL o) n 1) (softmaxRow o) s
def execSoftmax (core : Nat) (ph : Carry) (h : Harm) (s : State) : Host.Outcome State Fault Refusal :=
  act (coreOk core) s (engineStep core 4 0 softmaxRecipe ph (s.suffer h))

/-- RN32(x ÷ n) of an integer n. -/
def fdivInt (x n : Nat) : Nat := fp32.div (f32 x) (FVal.ofInt n)
/-- A sum in ascending order. -/
def sumAsc (xs : List Nat) : Nat := xs.foldl fadd 0

/-- `RMSNORM` of a row under γ (R262). -/
def rmsnormRow (eps l : Nat) (g z : List Nat) : List Nat :=
  let k := frsqrt (fadd (fdivInt (sumAsc (z.map fun v => fmul v v)) l) eps)
  List.zipWith (fun z g => fmul (fmul z k) g) z g

/-- `LAYERNORM` of a row under γ and β (R262). -/
def layernormRow (eps l : Nat) (g b z : List Nat) : List Nat :=
  let mu := fdivInt (sumAsc z) l
  let d := z.map fun v => fsub v mu
  let k := frsqrt (fadd (fdivInt (sumAsc (d.map fun v => fmul v v)) l) eps)
  List.zipWith (fun (p : Nat × Nat) b => fadd (fmul (fmul p.1 k) p.2) b) (d.zip g) b

/-- Uses of the norms. -/
def normUses (o : Op) : Uses := rowUses 0x1F o ++ [(33, 1, 63), (40, 4, 255), (52, 4, 255)]

def rmsnormRecipe : Recipe :=
  paramRecipe true normUses rowOwn 40 fun o s =>
    eng s (o.words s (o.operand s 33 40) (geL o)) fun g => o.eachRow (fun n => o.shape (geL o) n 1) (fun _ z => rmsnormRow (o.u 52) (geL o) g z) s
def execRmsnorm (core : Nat) (ph : Carry) (h : Harm) (s : State) : Host.Outcome State Fault Refusal :=
  act (coreOk core) s (engineStep core 4 1 rmsnormRecipe ph (s.suffer h))

def layernormRecipe : Recipe :=
  paramRecipe true normUses rowOwn 40 fun o s =>
    eng s (o.words s (o.operand s 33 40) (2 * geL o)) fun gb =>
      o.eachRow (fun n => o.shape (geL o) n 1) (fun _ z => layernormRow (o.u 52) (geL o) (gb.take (geL o)) (gb.drop (geL o)) z) s
def execLayernorm (core : Nat) (ph : Carry) (h : Harm) (s : State) : Host.Outcome State Fault Refusal :=
  act (coreOk core) s (engineStep core 4 2 layernormRecipe ph (s.suffer h))

def rsumRecipe : Recipe := simpleRecipe (rowUses 0x1F) rowOwn fun o s => o.eachRow (fun n => o.shape n 1 1) (fun _ z => [sumAsc z]) s
def execRsum (core : Nat) (ph : Carry) (h : Harm) (s : State) : Host.Outcome State Fault Refusal :=
  act (coreOk core) s (engineStep core 4 3 rsumRecipe ph (s.suffer h))

def rmaxRecipe : Recipe := simpleRecipe (rowUses 0x1F) rowOwn fun o s => o.eachRow (fun n => o.shape n 1 1) (fun _ z => [maxOf z]) s
def execRmax (core : Nat) (ph : Carry) (h : Harm) (s : State) : Host.Outcome State Fault Refusal :=
  act (coreOk core) s (engineStep core 4 4 rmaxRecipe ph (s.suffer h))

/-! ### Gecko: the active-neuron predictor (R203 to R208, R264) -/

/-- A predictor record (Table 6.8). -/
structure Predictor where
  mode : Nat
  scope : Nat
  thresh : Int
  floor : Int
  relax : Nat
  k : Nat
  kceil : Nat
  auditN : Nat
  margin : Nat
  window : Nat
  limit : Nat
  phase : Nat
  audits : Nat
  misses : Nat
  relaxed : Nat
  sound : Bool
deriving DecidableEq, Repr

def predictorOf (b : List Byte) : Predictor :=
  let th := iAt b 1 1
  let fl := iAt b 2 1
  { mode := uAt b 0 1 % 2, scope := uAt b 0 1 / 2 % 2, thresh := th, floor := fl, relax := uAt b 3 1, k := uAt b 4 2, kceil := uAt b 6 2,
    auditN := uAt b 8 2, margin := uAt b 10 1, window := uAt b 12 2, limit := uAt b 14 2, phase := uAt b 16 4, audits := uAt b 20 4,
    misses := uAt b 24 4, relaxed := uAt b 28 2,
    sound := decide (uAt b 0 1 < 4 ∧ uAt b 11 1 = 0 ∧ uAt b 30 2 = 0 ∧ uAt b 4 2 ≤ 256 ∧ uAt b 4 2 ≤ uAt b 6 2 ∧ uAt b 6 2 ≤ 256 ∧ fl ≤ th ∧
      uAt b 14 2 ≤ 4096) }

/-- The record's bytes with the fields that Gecko keeps. -/
def Predictor.bytes (r : Predictor) (b : List Byte) : List Byte :=
  b.take 1 ++ [BitVec.ofInt 8 r.thresh] ++ (b.drop 2).take 2 ++ leBytes 2 r.k ++ (b.drop 6).take 10 ++ leBytes 4 r.phase ++ leBytes 4 r.audits ++
    leBytes 4 r.misses ++ leBytes 2 r.relaxed ++ (b.drop 30).take 2

/-- Is the record due for evaluation, and its miss limit exceeded (R208)? -/
def Predictor.due (r : Predictor) : Bool := r.window != 0 && decide (r.window ≤ r.audits)
def Predictor.exceeded (r : Predictor) : Bool := r.due && decide (r.limit * r.audits < r.misses * 4096)
/-- Already as far as a relaxation goes. -/
def Predictor.atLimit (r : Predictor) : Bool := if r.mode = 0 then r.thresh == r.floor else r.k == r.kceil

/-- The record after evaluation (R208). -/
def Predictor.evaluate (r : Predictor) : Predictor :=
  if !r.due then r
  else
    let r := if !r.exceeded then r
      else
        let r := if r.mode = 0 then { r with thresh := max (r.thresh - r.relax) r.floor } else { r with k := min (r.k + r.relax) r.kceil }
        { r with relaxed := min 65535 (r.relaxed + 1) }
    { r with audits := 0, misses := 0 }

/-- Is neuron `j` of a tile active (R204)? -/
def tileActive (r : Predictor) (tile : List Int) (j : Nat) : Bool :=
  let x := tile.getD j 0
  if r.mode = 0 then decide (r.thresh ≤ x)
  else decide (((List.range tile.length).filter fun i => let y := tile.getD i 0; decide (x < y) || (y == x && decide (i < j))).length < r.k)

/-- The states of a tile's neurons, with the audit phase carried on (R205). -/
def tileStates (r : Predictor) (phase : Nat) (tile : List Int) : List Nat × Nat :=
  let act := (List.range tile.length).map (tileActive r tile)
  let eligible := r.auditN != 0 && (r.scope == 0 || act.any id)
  act.foldl (fun v a =>
    if a then (v.1 ++ [1], v.2)
    else if !eligible then (v.1 ++ [0], v.2)
    else
      let ph := (v.2 + 1) % 2 ^ 32
      (v.1 ++ [if ph % r.auditN = 0 then 2 else 0], ph)) ([], phase)

/-- The states of all neurons in order. -/
def maskStates (r : Predictor) (phase : Nat) (tiles : List (List Int)) : List (List Nat) × Nat :=
  tiles.foldl (fun v t => let w := tileStates r v.2 t; (v.1 ++ [w.1], w.2)) ([], phase)

/-- Four states to the byte (Table 6.9). -/
def packStates (xs : List Nat) : List Byte :=
  (chunks 4 (xs.length + 1) xs).map fun c => BitVec.ofNat 8 (c.getD 0 0 + 4 * c.getD 1 0 + 16 * c.getD 2 0 + 64 * c.getD 3 0)

/-- The summary of a tile. -/
def tileSummary (xs : List Nat) : List Byte := leBytes 2 (xs.filter fun x => x == 1).length ++ leBytes 2 (xs.filter fun x => x == 2).length

/-- An evaluation is counted, and marks the job when it found the limit exceeded (R208, R209, Table 6.11). -/
def Op.countEvaluation (o : Op) (r : Predictor) (s : State) : State :=
  match (s.core o.core).part with
  | none => s
  | some p =>
    if !r.exceeded then s
    else (if r.atLimit then s.count p cExceeded 1 0xFFFFFFFF else s.count p cRelaxed 1 0xFFFFFFFF).updJob p fun j => { j with audited := true }

/-- A row length that is a positive multiple of 256 and divides the input. -/
def neuronOwn (o : Op) : List (Bool × Nat) := [(geL o == 0 || geL o % 256 != 0 || o.count % geL o != 0, 0x0141)]

def maskRecipe : Recipe :=
  paramRecipe true (fun _ => [(33, 1, 63), (36, 4, 255), (40, 4, 255), (56, 4, 255)])
    neuronOwn 40 fun o s =>
      let par := o.operand s 33 40
      eng s (o.bytes s par 32) fun b =>
        let r0 := predictorOf b
        if !r0.sound then (s, some (0x0123, 5))
        else
          eng s (o.gets (o.src s) o.d.srcOff 8 s (o.elements.map Prod.snd)) fun vs =>
            let s := o.countEvaluation r0 vs.2
            let r := r0.evaluate
            let tiles := chunks 256 (vs.1.length + 1) (vs.1.map fun v => (BitVec.ofNat 8 v).toInt)
            let w := maskStates r r.phase tiles
            let s := o.countWide s (o.output s) (packStates w.1.flatten).length
            eng s (o.write s (o.output s) (packStates w.1.flatten)) fun s =>
              eng s (o.write s (o.operand s 33 56) (w.1.flatMap tileSummary)) fun s =>
                eng s (o.write s par (({ r with phase := w.2 } : Predictor).bytes b)) fun s => (s, none)
def execMask (core : Nat) (ph : Carry) (h : Harm) (s : State) : Host.Outcome State Fault Refusal :=
  act (coreOk core) s (engineStep core 4 5 maskRecipe ph (s.suffer h))

/-- The A8 value of a neuron from its gate and up outputs (R264). -/
def gatedValue (o : Op) (gate up : Nat) : Int :=
  let g := fmul (f32OfInt (s32 gate)) (o.u 44)
  let u := fmul (f32OfInt (s32 up)) (o.u 52)
  toA8 (fmul (fmul (actFn (uAt o.record 34 1) g) u) (o.u 48))

/-- The state that a mask gives neuron `n`. -/
def Op.maskAt (o : Op) (s : State) (n : Nat) : Except Nat Nat :=
  match o.bytes s ((o.operand s 33 60).plus (n / 4)) 1 with | .error e => .error e | .ok bs => .ok (leNat bs / 4 ^ (n % 4) % 4)

/-- Each neuron's stored value, whether it was audited, and whether that was a miss. -/
def Op.gate (o : Op) (s : State) (margin : Nat) (e : Nat × Nat) : Except Nat (Nat × Bool × Bool) :=
  match o.maskAt s e.1 with
  | .error err => .error err
  | .ok st =>
    if st ≠ 1 ∧ st ≠ 2 then .ok (0, false, false)
    else
      match o.get s (o.src s) o.d.srcOff 32 e.2, o.word s (o.operand s 33 56) e.1 with
      | .ok g, .ok u =>
        let y := gatedValue o g.1 u
        .ok (if st = 1 then u32 y else 0, st == 2, st == 2 && decide (margin < y.natAbs))
      | .error err, _ => .error err
      | _, .error err => .error err

def gatedRecipe : Recipe :=
  { paramRecipe false (fun _ => [(33, 1, 63), (34, 1, 7), (36, 4, 255), (40, 4, 255), (44, 4, 255), (48, 4, 255), (52, 4, 255),
        (56, 4, 255), (60, 4, 255)])
      (fun o => (o.ckin != 0 || decide (5 < uAt o.record 34 1), 0x0141) ::
        neuronOwn o) 40 (fun o s =>
      let par := o.operand s 33 40
      eng s (o.bytes s par 32) fun b =>
        let r := predictorOf b
        let es := o.elements.map Prod.snd
        eng s (allOk (o.gate s r.margin) ((List.range es.length).zip es)) fun ys =>
          let audits := (ys.filter fun y => y.2.1).length
          let misses := (ys.filter fun y => y.2.2).length
          (o.puts (o.dst s) o.d.dstOff 8 s ((o.shape (geL o) (es.length / geL o) 1).zip (ys.map fun y => y.1))).andThen fun s =>
            eng s (o.write s (par.plus 20)
                (leBytes 4 (satAdd 0xFFFFFFFF r.audits audits) ++ leBytes 4 (satAdd 0xFFFFFFFF r.misses misses))) fun s =>
              (o.bump (o.bump s cAudits audits u64Max) cMisses9030 misses u64Max, none)) with secondary := fun _ _ => none }
def execGated (core : Nat) (ph : Carry) (h : Harm) (s : State) : Host.Outcome State Fault Refusal :=
  act (coreOk core) s (engineStep core 4 6 gatedRecipe ph (s.suffer h))

/-! ### Bullfrog (R265 to R267) -/

def spFlen (o : Op) : Nat := uAt o.record 32 2
def spHop (o : Op) : Nat := uAt o.record 34 2
def spBands (o : Op) : Nat := uAt o.record 36 1
def spOut (o : Op) : Nat := uAt o.record 37 1
/-- Frames of n samples (R265). -/
def spFrames (o : Op) (n : Nat) : Nat := if n < spFlen o then 0 else (n - spFlen o) / spHop o + 1

def cosAt (m : Nat) : Nat := cosine (m % 512)
def sinAt (m : Nat) : Nat := cosAt (m + 384)

/-- P[k] of a windowed frame. -/
def powerAt (w : List Nat) (k : Nat) : Nat :=
  let sums := ((List.range w.length).zip w).foldl
    (fun (v : Nat × Nat) e => (fadd v.1 (fmul e.2 (cosAt (k * e.1))), fadd v.2 (fmul e.2 (sinAt (k * e.1))))) (0, 0)
  fadd (fmul sums.1 sums.1) (fmul sums.2 sums.2)

/-- ln of a band's energy: its weights against P from `first` on. -/
def bandOut (floorV : Nat) (p : List Nat) (first : Nat) (ws : List Nat) : Nat :=
  lnFn (fadd (((List.range ws.length).zip ws).foldl (fun e x => fadd e (fmul x.2 (p.getD (first + x.1) 0))) 0) floorV)

/-- Band headers with the word at which each band's weights begin. -/
def bandStarts (at0 : Nat) : List (Nat × Nat) → List (Nat × Nat × Nat)
  | [] => []
  | (f, c) :: rest => (f, c, at0) :: bandStarts (at0 + c) rest

def spectrumRecipe : Recipe :=
  paramRecipe true
    (fun o => [(32, 2, 255), (34, 2, 255), (36, 1, 255), (37, 1, 3), (38, 1, 63), (40, 4, 255), (44, 4, 255), (48, 4, 255)] ++
      (if spOut o = 2 then [(52, 4, 255)] else []))
    (fun o => [(spFlen o == 0 || decide (512 < spFlen o) || spHop o == 0 || decide (512 < spHop o) || spBands o == 0 || decide (128 < spBands o) ||
      decide (2 < spOut o), 0x0141)]) 40 fun o s =>
    let win : Operand := { h := o.handleAt s 38, off := o.u 40 }
    let fb : Operand := { h := o.handleAt s 38, off := o.u 44 }
    let nf := spFrames o o.count
    eng s (o.words s fb (spBands o)) fun heads =>
      let hs := heads.map fun w => (w % 65536, w / 65536)
      if hs.any fun h => decide (257 < h.1 + h.2) then (s, some (0x0141, 5))
      else
        let bands := bandStarts (spBands o) hs
        eng s (allOk (fun (b : Nat × Nat × Nat) => allOk (fun i => o.word s fb (b.2.2 + i)) (List.range b.2.1)) bands) fun ws =>
          eng s (o.words s win (spFlen o)) fun wv =>
            eng s (o.gets (o.src s) o.d.srcOff 16 s (o.elements.map Prod.snd)) fun r =>
              let outs := (List.range nf).flatMap fun f =>
                let w := List.zipWith (fun x y => fmul (f32OfInt (BitVec.ofNat 16 x).toInt) y) ((r.1.drop (f * spHop o)).take (spFlen o)) wv
                let p := (List.range 257).map (powerAt w)
                (bands.zip ws).map fun b => bandOut (o.u 48) p b.1.1 b.2
              let oty := if spOut o = 2 then 3 else spOut o
              (o.puts (o.dst r.2) o.d.dstOff (geOutBits oty) r.2 ((o.shape (spBands o) nf 1).zip (outs.map (geStore oty (o.u 52))))).andThen fun s =>
                (o.bump s cFrames nf u64Max, none)

/-- The parameter handle of `SPECTRUM` is byte 38. -/
def spectrumFull : Recipe :=
  { spectrumRecipe with handles := fun o => [uAt o.record 38 1 % 64], secondary := fun o s => some { h := o.handleAt s 38, off := o.u 40 } }
def execSpectrum (core : Nat) (ph : Carry) (h : Harm) (s : State) : Host.Outcome State Fault Refusal :=
  act (coreOk core) s (engineStep core 5 0 spectrumFull ph (s.suffer h))

/-- A keypoint: X, Y, C. -/
abbrev Keypoint := Int × Int × Nat

/-- The outputs of a frame, and whether it was written as zeros (R267). -/
def keypointFrame (cmin org sa sb : Nat) (ks : List Keypoint) : List Nat × Bool :=
  let at' := fun (i : Nat) => ks.getD i (0, 0, 0)
  let low := fun (i : Nat) => decide ((at' i).2.2 < cmin)
  let dx := f32OfInt ((at' sa).1 - (at' sb).1)
  let dy := f32OfInt ((at' sa).2.1 - (at' sb).2.1)
  let d := fsqrt (fadd (fmul dx dx) (fmul dy dy))
  if low org || low sa || low sb || d == 0 then (List.replicate (3 * ks.length) 0, true)
  else
    let q := fdiv f32One d
    (ks.flatMap fun k =>
      if k.2.2 < cmin then [0, 0, 0]
      else [fmul (f32OfInt (k.1 - (at' org).1)) q, fmul (f32OfInt (k.2.1 - (at' org).2.1)) q, fdiv (f32OfInt k.2.2) (f32OfInt 65535)], false)

def kpN (o : Op) : Nat := uAt o.record 58 1

def keypointRecipe : Recipe :=
  simpleRecipe (fun _ => [(56, 6, 255)])
    (fun o => [(kpN o == 0 || decide (64 < kpN o) || decide (kpN o ≤ uAt o.record 59 1) || decide (kpN o ≤ uAt o.record 60 1) ||
      decide (kpN o ≤ uAt o.record 61 1) || o.count % (3 * kpN o) != 0, 0x0141)]) fun o s =>
    eng s (o.gets (o.src s) o.d.srcOff 16 s (o.elements.map Prod.snd)) fun r =>
      let ks := (chunks 3 (r.1.length + 1) r.1).map fun t =>
        ((BitVec.ofNat 16 (t.getD 0 0)).toInt, (BitVec.ofNat 16 (t.getD 1 0)).toInt, t.getD 2 0)
      let fs := (chunks (kpN o) (ks.length + 1) ks).map (keypointFrame (uAt o.record 56 2) (uAt o.record 59 1) (uAt o.record 60 1) (uAt o.record 61 1))
      (o.puts (o.dst r.2) o.d.dstOff 32 r.2 ((o.shape 3 (kpN o) fs.length).zip (fs.flatMap Prod.fst))).andThen fun s =>
        (o.bump (o.bump s cFrames fs.length u64Max) cZeroFrames (fs.filter Prod.snd).length u64Max, none)
def execKeypoint (core : Nat) (ph : Carry) (h : Harm) (s : State) : Host.Outcome State Fault Refusal :=
  act (coreOk core) s (engineStep core 5 1 keypointRecipe ph (s.suffer h))

/-! ### Toad (R268) -/

/-- Bytes of the scanned range. -/
def toadLen (o : Op) : Nat := if o.d.srcEs = 0 then (o.count + 1) / 2 else o.count * esBytes o.d.srcEs
/-- One-dimensional with stride 1. -/
def toadShape (o : Op) : Bool := o.d.ss.getD 0 0 == 1 && (o.dims.drop 1).all fun d => decide (d.length ≤ 1)
/-- First byte of the range. -/
def toadBase (o : Op) (s : State) : Operand :=
  { o.primary s with off := elemOff o.d.srcOff ((o.dims.headD []).headD 0) o.d.srcEs }

/-- `GENERATE`: the counter advances, then the records are written (R268, Table 8.7). -/
def toadGenerate (o : Op) (s : State) : Done :=
  let ctr := o.operand s 2 32
  eng s (o.bytes s ctr 4) fun b =>
    let a := leNat b
    eng s (o.write s ctr (leBytes 4 ((a + 1) % 2 ^ 32))) fun s =>
      let blocks := if toadLen o = 0 then [(0, 0)] else checkBlocks o.cb (toadLen o)
      eng s (o.writeRecords (toadBase o s) (o.u 24) a 0 s blocks) fun s => (o.bump s cGenerated blocks.length u64Max, none)

def generateRecipe : Recipe :=
  { second := false, output := false, plain := true, handles := fun o => [uAt o.record 2 1 % 64],
    own := fun o => [(o.strayBits [(32, 4, 255)] || o.ckin != 0 || !o.ckout || o.alive != 0 || !toadShape o || o.u 28 != toadLen o, 0x0141),
      (o.u 32 % 4 != 0, 0x0102)],
    secondary := fun _ _ => none, body := toadGenerate }
def execGenerate (core : Nat) (ph : Carry) (h : Harm) (s : State) : Host.Outcome State Fault Refusal :=
  act (coreOk core) s (engineStep core 6 0 generateRecipe ph (s.suffer h))

/-- `VERIFY`: the records are checked and counted. -/
def toadVerify (o : Op) (s : State) : Done :=
  eng s (o.verifyRegion s (toadBase o s) (o.u 8) (toadLen o) o.aexp) fun r => (o.countBlocks r.2 (max 1 (ceilDiv (toadLen o) (2 ^ o.cb))), none)

def verifyRecipe : Recipe :=
  { second := false, output := false, plain := true, handles := fun o => [uAt o.record 2 1 % 64],
    own := fun o => [(o.strayBits [] || o.ckin != 1 || o.ckout || !toadShape o || o.u 12 != toadLen o, 0x0141)],
    secondary := fun _ _ => none, body := toadVerify }
def execVerify (core : Nat) (ph : Carry) (h : Harm) (s : State) : Host.Outcome State Fault Refusal :=
  act (coreOk core) s (engineStep core 6 1 verifyRecipe ph (s.suffer h))

/-! ### Registers (R271) -/

/-- A read of `_OPS_LO` latches the high half. -/
def opsLoStep (i : Nat) (s : State) : State :=
  (s.updEngine i fun x => { x with opsHi := x.ops / 2 ^ 32 % 2 ^ 32 }).updHub fun h => { h with hubRead := (s.engine i).ops % 2 ^ 32 }

def execOpsLo (inst : Nat) (s : State) : Host.Outcome State Fault Refusal := act (instOk inst) s (opsLoStep inst s)

/-- `STATE` of `_STATUS`: out of service, abandoning while the partition of what is queued is stopped, running while something is queued; verifying and
generating lie inside an operation (Table 8.9). -/
def State.engineState (s : State) (i : Nat) : Nat :=
  let x := s.engine i
  if x.state = 5 then 5
  else if x.queue.any fun e => decide (3 ≤ s.jobState e.1 ∧ s.jobState e.1 ≤ 4) then 4
  else if x.queue.isEmpty then 0
  else 1

/-- A read of an instance's register block (Tables 8.8, 8.9). -/
def State.engineReg (s : State) (i off : Nat) : Nat :=
  let x := s.engine i
  if off = 0x000 then i % 8 * 256 + i / 8
  else if off = 0x004 then s.engineState i * 2 ^ 28 + x.next.getD 0 % 16 * 2 ^ 24 + x.queue.length % 256 * 2 ^ 16
  else if off = 0x008 then bit x.faultValid * 2 ^ 31 + x.faultPart % 16 * 2 ^ 27 + x.faultStatus % 65536
  else if off = 0x00C then x.ops % 2 ^ 32
  else if off = 0x010 then x.opsHi
  else 0

end Sys2Proof.Machine
end

