-- ==== Sys2Proof/Machine/Upkeep.lean ====
section
/-! DEFINITION. SRAM corrections and patrol, strikes that are forgotten, loss records and time records (R431 to R439, R472, R474). -/

namespace Sys2Proof.Machine

/-! ### SRAM words (R431, R432, R434, R435) -/

/-- `CORRECTION_WRITE_BACK`: the corrected codeword is written back, unless a write has reached the word since. -/
def writeBackStep (word : Nat) (s : State) : State := s.setMem { s.mem with soft := s.mem.soft.filter fun a => a != word }

def execCorrectionWriteBack (word : Nat) (s : State) : Host.Outcome State Fault Refusal := act true s (writeBackStep word s)

/-- An uncorrectable word met by patrol: counted, the SRAM alarm, a record, and the word left for its next reader. -/
def State.sramBad (s : State) (a : Nat) : State :=
  (s.spoilWord a).outsideFault (s.wordPart a) (wordDie a) { FaultRec.reset with status := 0x0309, unit := 7 }

/-! ### The policy's strikes (R439) -/

/-- `STRIKE_EXPIRY`: strikes are forgotten 720 h of powered time after their charge. -/
def strikeExpiryStep (s : State) : State := s.updSpares fun x => { x with strikes := x.strikes.filter fun e => decide (s.hub.tick < e.2) }

def execStrikeExpiry (s : State) : Host.Outcome State Fault Refusal := act true s (strikeExpiryStep s)

/-! ### Records of the rings -/

/-- `LOSS_RECORD`: a pending loss is written ahead of the tick's other records (R474); ring 16 is the device's. -/
def lossRecordStep (ring : Nat) (s : State) : State :=
  if ring = 16 then s.updHub fun h => { h with log := h.log.writeLoss 4096 255 }
  else s.updPart ring fun q => { q with log := q.log.writeLoss 1024 ring }

def execLossRecord (ring : Nat) (s : State) : Host.Outcome State Fault Refusal := act (decide (ring < 17)) s (lossRecordStep ring s)

/-- `TIME_RECORD`: in the first tick of each 4,167 every ring receives the 802.1AS time of the tick's boundary (Table 17.5). -/
def timeRecordStep (s : State) : State :=
  if s.hub.tick % Config.msTicks ≠ 0 ∨ s.hub.phase = .porst then s
  else
    let data := leBytes 8 (s.asTime s.hub.tick) ++ List.replicate 8 0
    (List.range 16).foldl (fun s p => s.log (some p) 0 0 data) (s.log none 0 0 data)

def execTimeRecord (s : State) : Host.Outcome State Fault Refusal := act true s (timeRecordStep s)

end Sys2Proof.Machine
end

