-- ==== Sys2Proof/Machine/Startup.lean ====
section
/-! DEFINITION. Resets, start-ups, recovery mode, the hub's own resets and the boundary-scan port (R2, R109, R110, R350, R436, R445 to R453,
R472, R479 to R496). -/

namespace Sys2Proof.Machine

/-! ### What a reset leaves (Table 18.5) -/

/-- The spare map as the flash keeps it: decisions that waited have been taken, columns recorded or repaired stay so (R434); counts of the last 24 h are
gone (R439). -/
def Spares.merged (x : Spares) : Spares :=
  let cores := x.cores ++ x.pendingCores
  { Spares.reset with macros := x.macros ++ x.pendingMacros.filter (fun k => !x.pendingCores.contains (macCore k)), cores := cores,
                      skinks := x.skinks ++ x.pendingSkinks, strikes := x.strikes, owners := x.owners,
                      columnsDue := x.columnsDue, repaired := x.repaired }

/-- A link direction at a reset: its lanes out of service and its spares stay (R307, R308). -/
def LinkDir.atReset (l : LinkDir) : LinkDir := { LinkDir.reset with dead := l.dead, spares := l.spares }

/-- A tower at a reset: its channels and spare rows stay; channels that failed in service leave it at the next start-up (R321). -/
def Tower.atReset (t : Tower) : Tower :=
  { Tower.reset with inService := t.inService.filter fun ch => !t.failed.contains ch, spareUsed := t.spareUsed, remapped := t.remapped, remappedRows := t.remappedRows }

/-- What no reset changes: fuses, flash, tenants, spare map and strikes, ceilings, the levels of the alert wires, the boundary-scan port, frames
already sent. -/
def State.kept (s : State) : State :=
  { State.reset with
    pending := s.pending, fresh := s.fresh, tenants := s.tenants, slp := { Slp.reset with wire := s.slp.wire },
    power := { Power.reset with ceilings := s.power.swapCeilings.ceilings, wires := s.power.wires }, spares := s.spares.merged,
    links := s.links.map fun (e : Nat × LinkDir) => (e.1, e.2.atReset), towers := s.towers.map fun (e : Nat × Tower) => (e.1, e.2.atReset),
    hub := { Hub.reset with straps := s.hub.straps, bootEpoch := s.hub.bootEpoch, svnMin := s.hub.svnMin, rootUsed := s.hub.rootUsed,
                            flash := s.hub.flash, thermtrip := s.hub.thermtrip, replaceMe := s.hub.replaceMe, tap := s.hub.tap,
                            tapReg := s.hub.tapReg, hubRead := s.hub.hubRead } }

/-- A macro through a warm reset: pages, attributes, shadow states, `LIVE_B`, lane maps with their rebuilds, `REWRITABLE`, and what counts since
power-on; out of service until the start-up enables it (R67, R109). -/
def Macro.warm (m : Macro) : Macro :=
  { Macro.reset with
    pages := m.pages, liveB := m.liveB, shadow := m.shadow, cfg := { m.cfg with enable := false, force32 := false },
    staged := { m.staged with enable := false, force32 := false, rewritable := m.cfg.rewritable }, bankA := { m.bankA with calibrating := .no },
    bankB := { m.bankB with calibrating := .no }, sweepB := m.sweepB,
    stats := m.stats, rebuild := m.rebuild, rebuildHold := m.rebuildHold, noRestore := m.noRestore, retired := m.retired, spent := m.spent }

/-- An alarm, a log or a count kept by a warm reset; the rails hold their last targets (R489). -/
def State.warmKept (s : State) : State :=
  let k := s.kept
  { k with
    macros := s.macros.map fun (e : Nat × Macro) => (e.1, e.2.warm),
    skinks := s.skinks.map fun (e : Nat × Skink) => (e.1, { Skink.reset with rescales := e.2.rescales }),
    links := s.links.map fun (e : Nat × LinkDir) => (e.1, { e.2.atReset with crcErrs := e.2.crcErrs, retrains := e.2.retrains }),
    parts := s.parts.map fun (e : Nat × Partition) => (e.1, { Partition.reset with log := e.2.log }),
    power := { k.power with asserts := s.power.asserts, droops := s.power.droops, temps := s.power.temps, towerTemps := s.power.towerTemps,
                            dies := s.power.dies.map fun (e : Nat × PacedDie) => (e.1, { PacedDie.reset with clamps := e.2.clamps, targetMv := e.2.targetMv, trim := e.2.trim }) },
    hub := { k.hub with tick := s.hub.tick, alarms := s.hub.alarms, log := s.hub.log, resetCause := s.hub.resetCause, rootLeaf := s.hub.rootLeaf,
                        epochState := if s.hub.epochState = 1 then 0 else s.hub.epochState, epochUsed := s.hub.epochUsed,
                        epochSeed := s.hub.epochSeed, epochIdent := s.hub.epochIdent, epochHash := s.hub.epochHash, refLost := s.hub.refLost } }

/-- The warm-reset sequence begins, for a cause of Table 15.9; no port shows link, no session, partition, window or ring is left (R350, R370). -/
def State.warmHold (s : State) (cause : Nat) : State :=
  s.warmKept.updHub fun h => { h with phase := .warmHeld, warmCause := cause, resetCause := cause }

/-- A reset of the warm kind finds the device working. -/
def State.works (s : State) : Bool := s.hub.phase == .running || s.hub.phase == .recovery

/-- A warm reset: it extends one that is held, and yields to `PORST_N`, a halt and a thermal trip (R414, R487, R491). -/
def warmStep (cause : Nat) (s : State) : State := if s.works then s.warmHold cause else s

def execWarmN (s : State) : Host.Outcome State Fault Refusal := act true s (warmStep 1 s)

/-- `WATCHDOG`: cause 2 (R436). -/
def execWatchdog (s : State) : Host.Outcome State Fault Refusal := act true s (warmStep 2 s)

/-- A fault of the control processor, with its record and its alarm (R441), starts a warm reset (R436). -/
def State.hubFault (s : State) (status cause : Nat) : State :=
  if s.works then warmStep cause (s.outsideFault none 18 { FaultRec.reset with status := status, unit := 7 }) else s

/-- `CONTROL_PROCESSOR_FAULT`: an uncorrectable hub memory, cause 3, or a residue mismatch, cause 4. -/
def processorFaultStep (why : HubFault) (s : State) : State :=
  match why with
  | .memory => s.hubFault 0x0309 3
  | .residue => s.hubFault 0x0303 4

def execControlProcessorFault (why : HubFault) (s : State) : Host.Outcome State Fault Refusal := act true s (processorFaultStep why s)

/-- `SRAM_PATROL`: one word read and decoded: sound, corrected, or uncorrectable, which in a hub memory starts a warm reset (R435, R436). -/
def sramPatrolStep (word : Nat) (wrong : List Nat) (s : State) : State :=
  if !sramWord word || !s.works then s
  else if s.mem.bad.contains word then s.sramBad word
  else match wrong with
    | [] => s
    | [b] => s.sramCorrect word b
    | _ => if hubWords ≤ word then s.hubFault 0x0309 3 else s.sramBad word

def execSramPatrol (word : Nat) (wrong : List Nat) (s : State) : Host.Outcome State Fault Refusal := act true s (sramPatrolStep word wrong s)

/-- `REFERENCE_LOSS`: as an asserted `WARM_N`, cause 1 (R481). -/
def referenceLossStep (s : State) : State :=
  if s.hub.phase = .porst then s else (warmStep 1 s).updHub fun h => { h with refLost := true }

def execReferenceLoss (s : State) : Host.Outcome State Fault Refusal := act true s (referenceLossStep s)

/-- `REFERENCE_RESTORED`: the reference has been stable for 1 ms; the reset it held may end. -/
def referenceRestoredStep (s : State) : State := s.updHub fun h => { h with refLost := false }

def execReferenceRestored (s : State) : Host.Outcome State Fault Refusal := act true s (referenceRestoredStep s)

/-- `PORST_N` low, or no power: everything volatile is lost; the array's pages too where its rail goes, and with the power the trip ends (R2, R110,
R414, R491). Strikes keep what is left of their 720 h of powered time. -/
def porstStep (arrayRailLost : Bool) (s : State) : State :=
  let k := s.kept
  { k with
    macros := if arrayRailLost then [] else s.macros.map fun (e : Nat × Macro) => (e.1, { Macro.reset with pages := e.2.pages }),
    spares := { k.spares with strikes := (s.spares.strikes.filter fun e => decide (s.hub.tick < e.2)).map fun e => (e.1, e.2 - s.hub.tick) },
    hub := { k.hub with phase := .porst, thermtrip := s.hub.thermtrip && !arrayRailLost } }

def execPorstNLow (arrayRailLost : Bool) (s : State) : Host.Outcome State Fault Refusal := act true s (porstStep arrayRailLost s)

/-! ### Start-up (R433, R451, R484 to R489) -/

/-- A root leaf for the epoch: fuses are burned until one reads burned. With the last of them all are consumed: no epoch tree is created any more, and the
device asks to be replaced (R451, R453). -/
def State.burnLeaf (s : State) (bad : Nat) : State :=
  let q := s.hub.rootUsed + bad
  if 32767 ≤ q then (s.updHub fun h => { h with rootUsed := 32768, rootLeaf := min q 32767, epochState := 0 }).replaceMe
  else s.updHub fun h => { h with rootUsed := q + 1, rootLeaf := q, epochState := 1, epochUsed := 0, epochSeed := [], epochIdent := [], epochHash := [] }

/-- Data lanes fail training: spares take their place while there are enough, else they leave service (R307, R308). -/
def LinkDir.unfit (l : LinkDir) (bad : List Nat) : LinkDir :=
  let bad := bad.filter fun x => decide (x < 64) && !l.dead.contains x
  if l.dead = [] ∧ l.spares.length + bad.length ≤ 4 then { l with spares := (l.spares.map fun x => if bad.contains x then 64 else x) ++ bad }
  else { l with dead := l.dead ++ bad }

/-- A link direction trained on the lanes in service (R308). -/
def LinkDir.trained (l : LinkDir) : LinkDir :=
  if l.dead = [] then { l with state := 2, lanes := 64 }
  else if 32 ≤ 64 - l.dead.length then { l with state := 3, lanes := 32, stepped := true }
  else l.goDown

/-- What training a link direction reports: 1 lanes replaced, 2 a step-down, 3 the link down (Table 17.3); none for a direction as it was. -/
def LinkDir.news (old new : LinkDir) : Option Nat :=
  if new.dead != old.dead then some (if new.state = 0 then 3 else 2) else if new.spares != old.spares then some 1 else none

/-- Step 6: every link trains; one that is down is down whole. What training finds raises the link's alarm, and the spare alarm where a direction's spares
run out (Table 15.7). -/
def State.trainLinks (s : State) (t : SelfTest) : State :=
  let ls := (List.range 90).map fun k => (k, ((s.link k).unfit ((t.lanesDown.filter fun e => e.1 == k).map Prod.snd)).trained)
  let u := { s with links := ls.map fun (e : Nat × LinkDir) => (e.1, if (mget ls LinkDir.reset (oppositeKey e.1)).state = 0 then e.2.goDown else e.2) }
  let found := (t.lanesDown.map fun e => e.1 % 90).foldl (fun ks k => if ks.contains k then ks else ks ++ [k]) []
  (found.foldl (fun u k => match (s.link k).news (u.link k) with | none => u | some what => u.linkAlarm k what) u).spareAlarm s

/-- Units found failed wait to be retired, and are retired before any partition exists (R433, R437). -/
def State.retireFound (s : State) (t : SelfTest) (array : Bool) : State :=
  let s := if array then t.macros.foldl (fun s k => s.failMacro k) s else s
  (s.updSpares fun x =>
    { x with pendingCores := x.pendingCores ++ t.cores.filter (fun c => !x.cores.contains c && !x.pendingCores.contains c),
             pendingSkinks := x.pendingSkinks ++ t.skinks.filter (fun e => !x.skinks.contains e) }).retireFree

/-- Macro lanes found failed take the spares of their bank (R437). -/
def State.laneFound (s : State) (e : Nat × Bool × Nat) : State := s.failLanes e.1 e.2.1 [e.2.2]

/-- Macros that the self-test fails, those of `t` and those with more failing lanes in a bank than spares (R437), are marked: they are not enabled, even
where their whole core is retired (R67). -/
def State.unfitMacros (s : State) (t : SelfTest) : State :=
  let fail (s : State) (k : Nat) : State := s.updMac k fun m => { m with retired := true }
  t.macros.foldl fail (t.lanes.foldl (fun s e => (if (s.mac e.1).laneSlots e.2.1 = [] then fail s e.1 else s).laneFound e) s)

/-- A list with what another adds to it. -/
def joined (xs ys : List Nat) : List Nat := ys.foldl (fun l y => if l.contains y then l else l ++ [y]) xs

/-- Redundant columns of a sub-array, numbered as in `sramPlace`: eight in die stores and plazas, four elsewhere (Table 15.2). -/
def redundantColumns (sub : Nat) : Nat := if sub < 2 ^ 20 then 8 else 4

/-- Sub-arrays whose needs, the columns that fuses select and those of soft repair, exceed their redundant columns (R433). -/
def Spares.exhausted (x : Spares) : List Nat :=
  (joined [] (x.repaired.map fun c => c / 1024)).filter fun b =>
    decide (redundantColumns b < min (Config.fusedColumns b) (redundantColumns b) + (x.repaired.filter fun c => c / 1024 == b).length)

/-- Step 7: columns recorded in service and those that the self-test finds are repaired; what a sub-array with none left belongs to is retired, withheld or
serves nothing, which asks for a replacement (R433, R434, Table 15.2). -/
def State.sramTest (s : State) (t : SelfTest) : State :=
  let s := s.updSpares fun x => { x with repaired := joined x.repaired (x.columnsDue ++ t.columns), columnsDue := [] }
  let ex := s.spares.exhausted
  let dead := ex.filter fun b => decide (2 ^ 24 ≤ b)
  let s := s.updSpares fun x =>
    { x with
      plazaHeld := joined [] ((ex.filter fun b => decide (b < 2 ^ 19)).map fun b => b / 2 ^ 14 * 64 + b % 64),
      storeHeld := joined [] ((ex.filter fun b => decide (2 ^ 19 ≤ b ∧ b < 2 ^ 20)).map fun b => (b - 2 ^ 19) / 256 * 16 + b % 16),
      dead := dead,
      pendingCores := joined x.pendingCores (((ex.filter fun b => decide (2 ^ 20 ≤ b ∧ b < 2 ^ 23)).map fun b => (b - 2 ^ 20) / 64).filter fun c => !x.cores.contains c),
      pendingSkinks := joined x.pendingSkinks (((ex.filter fun b => decide (2 ^ 23 ≤ b ∧ b < 2 ^ 24)).map fun b => b - 2 ^ 23).filter fun e => !x.skinks.contains e) }
  let s := (dead.filter fun b => decide (bufSub 0 0 ≤ b ∧ b < bufSub 1 0)).foldl (fun s b => s.updEngine (b - bufSub 0 0) fun x => { x with state := 5 }) s
  if dead.isEmpty then s else s.replaceMe

/-- A row-page that the array self-test corrected counts, and is charged to its lane, as patrol's findings are (R485). -/
def State.arrayFound (s : State) (e : Nat × Nat × Nat × Nat) : State :=
  (s.updMac e.1 fun m => { m with stats := { m.stats with patrolCorrected := satAdd 0xFFFF m.stats.patrolCorrected 1 } }).chargeLanes e.1 e.2.1 e.2.2.1 [e.2.2.2]

/-- Step 8: findings count as patrol's do; the spare policy takes them, with the lanes and macros found failed, before step 10 (R437, R485). -/
def State.arrayTest (s : State) (t : SelfTest) : State :=
  let s := (t.corrected.foldl State.arrayFound s).unfitMacros t
  (joined (t.lanes.map Prod.fst) (t.corrected.map Prod.fst)).foldl
    (fun s k => s.updMac k fun m => { m with cfg := { m.cfg with lanes := m.staged.lanes }, rebuild := [] }) s

/-- The steps of Table 18.3 that a step comes after. -/
def stepsBefore (k : Nat) : List Nat :=
  [[], [], [1], [1, 2], [1, 2, 3], [1, 2, 3, 4], [1, 2, 3], [1, 2, 3, 6], [1, 2, 3, 6, 7], [1, 2, 3]].getD k [1, 2, 3, 6, 7, 8, 9]

/-- A step of the start-up ends: every one, or, of a start-up that a warm reset cuts short, those that had ended (R491). -/
def stepEnds (b : Boot) (k : Nat) : Bool := match b.cut with | none => true | some c => (k :: stepsBefore k).all c.1.contains

/-- Steps 7 and 8 with their retirements; the array only after a power-on reset. -/
def State.selfTest (s : State) (b : Boot) (array : Bool) : State :=
  if !stepEnds b 7 then s
  else
    let s := s.sramTest b.tests
    let array := array && stepEnds b 8
    (if array then s.arrayTest b.tests else s).retireFound b.tests array

/-- A channel of a tower fails its self-test: the spare serves in its place, or there is a channel less (R321). -/
def Tower.lose (t : Tower) (ch : Nat) : Tower :=
  if t.spareUsed then { t with inService := t.inService.filter fun c => c != ch }
  else { t with spareUsed := true, inService := t.inService.map fun c => if c = ch then 16 else c }

/-- A row fails its self-test: post-package repair takes a spare row of its channel, or the channel fails (R321). -/
def Tower.repairRow (t : Tower) (tower row : Nat) : Tower :=
  if t.remappedRows.contains row ∨ !t.inService.contains (row % 32) then t
  else if t.rowsLeft tower (row % 32) = 0 then t.lose (row % 32)
  else { t with remappedRows := t.remappedRows ++ [row] }

/-- Step 9: rows and channels that the self-test of a power-on start-up finds failed. -/
def State.towersFound (s : State) (t : SelfTest) : State :=
  (t.channels.foldl (fun s e => s.updTower e.1 fun w => w.lose e.2) (t.rows.foldl (fun s e => s.updTower e.1 fun w => w.repairRow e.1 e.2) s)).spareAlarm s

/-- Macros from key `k` on come into service, `ready` as the array self-test leaves them, but for those retired and those that the self-test failed
(R67). -/
def enableFrom (retired : List Nat) (ready : Nat → Macro → Macro) : Nat → Nat → Map Macro → Map Macro
  | 0, _, _ => []
  | fuel + 1, k, ms =>
    let on (m : Macro) : Macro :=
      let m := ready k m
      let e := !retired.contains k && !m.retired
      { m with cfg := { m.cfg with enable := e }, committed := none, retired := !e, staged := { m.staged with enable := e } }
    let put (m : Macro) (rest : Map Macro) : Map Macro := if on m = Macro.reset then rest else (k, on m) :: rest
    match ms with
    | [] => put Macro.reset (enableFrom retired ready fuel (k + 1) [])
    | (j, m) :: rest => if j = k then put m (enableFrom retired ready fuel (k + 1) rest) else put Macro.reset (enableFrom retired ready fuel (k + 1) ((j, m) :: rest))

/-- The capacity that remains is less than the whole in some way that R28 names. -/
def State.lessened (s : State) : Bool :=
  s.capacityLost || (List.range 8).any (fun t => decide ((s.tower t).channels < 16)) || s.links.any fun e => e.2.state != 2

/-- A log ring that fails its checks restarts empty with a loss record; what that record says of the loss is open (free). -/
def restartRing (cap part : Nat) (a : LogRing × Nat × Nat) : LogRing :=
  let x : LogRec := { cls := 1, part := part, code := (Config.freeByte a.2.1).toNat, seq := 0, tick := a.2.2,
                      data := ((List.range 12).map fun i => Config.freeByte (a.2.1 + 1 + i)) ++ leBytes 4 0 }
  { LogRing.reset.push cap x with losses := satAdd 0xFFFFFFFF a.1.losses 1, dropped := a.1.dropped }

/-- Restarts one ring: 16 the device's. -/
def State.restartLog (s : State) (ring : Nat) : State :=
  let t := { s with fresh := s.fresh + 13 }
  if ring = 16 then t.updHub fun h => { h with log := restartRing 4096 255 (h.log, s.fresh, h.tick) }
  else t.updPart ring fun q => { q with log := restartRing 1024 ring (q.log, s.fresh, s.hub.tick) }

/-- The management port begins to train. -/
def State.trainPort (s : State) : State := s.updPort 16 fun q => { q with link := 1 }

/-- Recovery mode (R448, R488): only the management port comes up; the spec gives no phase number for it (free). -/
def State.recover (s : State) (b : Boot) : State :=
  let f := s.freeByte
  (f.2.updHub fun h => { h with phase := .recovery, ready := true, lastStart := 2, startMicros := b.micros % 2 ^ 32, startPhase := f.1.toNat }).trainPort

/-- Step 3 of a start-up: the PP0 target, with zero trim, to every paced rail (R489). -/
def Power.atPp0 (w : Power) : Power :=
  { w with dies := w.dies.map fun (e : Nat × PacedDie) => (e.1, { e.2 with targetMv := Config.paceMv 0, trim := 0 }) }

/-- The array self-test calibrates both banks of a macro (R485). -/
def State.calibratedMac (s : State) (k : Nat) (m : Macro) : Macro :=
  let cal (b : Bool) (m : Macro) : Macro := m.calibrated b false s.hub.tick (s.temp (coreDie (macCore k))) (s.diePace (coreDie (macCore k)))
  cal true (cal false m)

/-- Steps 3 to 9 of a start-up whose image was accepted, as far as it goes (Table 18.3, R489). -/
def State.startSteps (s : State) (b : Boot) (warm : Bool) : State :=
  if !stepEnds b 3 then s
  else
    let s := (s.updHub fun h => { h with bootEpoch := (h.bootEpoch + 1) % 2 ^ 32, svn := hdrSvn s.imageHeader, fwHash := s.imageHash,
                                         verified := s.imageHash }).updPower Power.atPp0
    let s := if !warm && stepEnds b 4 then s.burnLeaf b.badLeaves else s
    let s := if stepEnds b 6 then s.trainLinks b.tests else s
    let s := s.selfTest b (!warm)
    if !warm && stepEnds b 9 then s.towersFound b.tests else s

/-- Step 10: units come into service, `READY` rises, the management port trains. -/
def State.startFirmware (s : State) (b : Boot) (warm : Bool) : State :=
  let s := (s.startSteps b warm).updHub fun h =>
    { h with phase := .running, ready := true, lastStart := if warm then 1 else 0, startMicros := b.micros % 2 ^ 32, startPhase := 11 }
  let s := { s with macros := enableFrom s.spares.macros (if warm then fun _ m => m else s.calibratedMac) 78336 0 s.macros }
  (if s.lessened then s.replaceMe else s).trainPort

/-- Steps 1 and 2, then the firmware, recovery mode or a halt; a warm reset that comes before the end restarts the start-up as a warm one (R491). -/
def State.boot (s : State) (b : Boot) (warm : Bool) : State :=
  if !b.hubOk then s.updHub fun h => { h with phase := .halted }
  else
    let accepted := s.hub.straps.testBit 3 && (match b.image with | none => false | some i => s.imageStatus i == 0)
    match b.cut with
    | some c => (if accepted then s.startSteps b warm else s).warmHold c.2
    | none => if accepted then s.startFirmware b warm else s.recover b

/-- Straps as 0x1030:01 shows them (R482). -/
def strapBits (b : Boot) : Nat := b.mmode % 2 + b.mrole % 4 * 2 + bit b.recoveryN * 8

/-- The instruction acts only while `PORST_N` is low (R493). -/
def Tap.onlyInReset (i : Tap) : Bool := i == .extest || i == .samplePreload

/-- What stands in its place once `PORST_N` is high. -/
def Tap.outOfReset (i : Tap) : Tap := if i.onlyInReset then .bypass else i

/-- `POWER_ON_RESET`: `PORST_N` is released; with `TEST_EN` high the device starts nothing (R482, R484). -/
def powerOnStep (b : Boot) (s : State) : State :=
  if s.hub.phase ≠ .porst then s
  else
    let k := s.kept
    let t := { k with spares := { k.spares with owners := [] }, hub := { k.hub with straps := strapBits b, replaceMe := false, tap := k.hub.tap.outOfReset, tapReg := if k.hub.tap.onlyInReset then 0 else k.hub.tapReg } }
    if b.testEn then t.updHub fun h => { h with phase := .halted } else t.boot b false

def execPowerOnReset (boot : Boot) (s : State) : Host.Outcome State Fault Refusal := act true s (powerOnStep boot s)

/-- `WARM_START_UP`: the warm reset is released (R489, Table 18.5). -/
def warmStartStep (b : Boot) (s : State) : State :=
  if s.hub.phase ≠ .warmHeld ∨ s.hub.refLost then s
  else
    let s := (b.badRings.filter fun r => decide (r < 17)).foldl State.restartLog s
    let s := if b.epochOk then s else s.updHub fun h => { h with epochState := 0, epochUsed := 0, epochSeed := [], epochIdent := [], epochHash := [] }
    s.boot b true

def execWarmStartUp (boot : Boot) (s : State) : Host.Outcome State Fault Refusal := act true s (warmStartStep boot s)

/-- `EPOCH_TREE_READY`: the epoch key pair is generated from a fresh seed and identifier of the random-number source, and its record signed, with the
hash of the image then running (R452). -/
def epochReadyStep (seed ident : List Byte) (s : State) : State :=
  if s.hub.epochState = 1 ∧ s.hub.phase = .running then
    s.updHub fun h => { h with epochState := 2, epochSeed := padTo 32 seed, epochIdent := padTo 16 ident, epochHash := h.fwHash, epochUsed := 0 }
  else s

def execEpochTreeReady (seed ident : List Byte) (s : State) : Host.Outcome State Fault Refusal := act true s (epochReadyStep seed ident s)

/-! ### Boundary scan (R464, R493, R494) -/

/-- An instruction that acts only while `PORST_N` is low; at any other time `BYPASS` stands in its place. The boundary register covers the 34 signal pins
of Table 18.7 other than the Ethernet pairs, the reference and the port itself. -/
def scanStep (i : Tap) (pins : Nat) (s : State) : State :=
  if s.hub.phase = .porst then s.updHub fun h => { h with tap := i, tapReg := pins % 2 ^ 34 } else s.updHub fun h => { h with tap := .bypass, tapReg := 0 }

/-- `EXTEST`: the boundary register drives the pins with the value given. -/
def execExtest (pins : Nat) (s : State) : Host.Outcome State Fault Refusal := act true s (scanStep .extest pins s)

/-- `SAMPLE/PRELOAD`: the boundary register takes the state of the pins. -/
def execSamplePreload (pins : Nat) (s : State) : Host.Outcome State Fault Refusal := act true s (scanStep .samplePreload pins s)

/-- `BYPASS`. -/
def bypassStep (s : State) : State := s.updHub fun h => { h with tap := .bypass, tapReg := 0 }

def execBypass (s : State) : Host.Outcome State Fault Refusal := act true s (bypassStep s)

/-- The identification code (Table 18.6). -/
def idCode : Nat := 0x21620FCB

/-- `IDCODE`. -/
def idcodeStep (s : State) : State := s.updHub fun h => { h with tap := .idcode, tapReg := idCode }

def execIdcode (s : State) : Host.Outcome State Fault Refusal := act true s (idcodeStep s)

end Sys2Proof.Machine
end

