-- ==== Sys2Proof/Machine/Dispatch.lean ====
section
/-! DEFINITION. One arm per command: the command's meaning on everything but the queue. -/

namespace Sys2Proof.Machine

/-- The effect of a command on everything but the queue of waiting commands. -/
def exec (i : Instr) (s : State) : Host.Outcome State Fault Refusal :=
  match i with
  | .mvm core h => Sys2Proof.Machine.execMvm core h s
  | .mvt core h => Sys2Proof.Machine.execMvt core h s
  | .preload core n h => Sys2Proof.Machine.execPreload core n h s
  | .pageSwitch core n => Sys2Proof.Machine.execPageSwitch core n s
  | .productStart core n h => Sys2Proof.Machine.execProductStart core n h s
  | .macroStep core n dist h => Sys2Proof.Machine.execStep core n dist h s
  | .reverseStep core n dist h => Sys2Proof.Machine.execReverseStep core n dist h s
  | .repeatStep core n dist h => Sys2Proof.Machine.execRepeat core n dist h s
  | .checkTriggeredScrub core n ups dist h => Sys2Proof.Machine.execCheckTriggeredScrub core n ups dist h s
  | .productComplete core n => Sys2Proof.Machine.execProductComplete core n s
  | .drain core n h => Sys2Proof.Machine.execDrain core n h s
  | .wpgLoad core h => Sys2Proof.Machine.execWpgLoad core h s
  | .wpgFold core h => Sys2Proof.Machine.execWpgFold core h s
  | .wpgCopy core h => Sys2Proof.Machine.execWpgCopy core h s
  | .wpgErase core h => Sys2Proof.Machine.execWpgErase core h s
  | .rowWrite core n bank h => Sys2Proof.Machine.execRowWrite core n bank h s
  | .pageVerify core n bank ups again => Sys2Proof.Machine.execPageVerify core n bank ups again s
  | .swp core h => Sys2Proof.Machine.execSwp core h s
  | .refreshOperation core m bank => Sys2Proof.Machine.execRefreshOperation core m bank s
  | .refreshIntervalRestore die => Sys2Proof.Machine.execRefreshIntervalRestore die s
  | .filler core m bank patrol ups => Sys2Proof.Machine.execFiller core m bank patrol ups s
  | .calibrationDue core m bank => Sys2Proof.Machine.execCalibrationDue core m bank s
  | .calibration core m bank ph => Sys2Proof.Machine.execCalibration core m bank ph s
  | .calibrationPause core m bank ph => Sys2Proof.Machine.execCalibrationPause core m bank ph s
  | .patrolRead core m bank ups => Sys2Proof.Machine.execPatrolRead core m bank ups s
  | .restore core m page ups => Sys2Proof.Machine.execRestore core m page ups s
  | .laneRebuild core m bank => Sys2Proof.Machine.execLaneRebuild core m bank s
  | .laneTest core m ups dist => Sys2Proof.Machine.execLaneTest core m ups dist s
  | .macCommit core m => Sys2Proof.Machine.execMacCommit core m s
  | .macStepCountLo core m => Sys2Proof.Machine.execMacStepCountLo core m s
  | .coreCommit core => Sys2Proof.Machine.execCoreCommit core s
  | .registerWrite reg value => Sys2Proof.Machine.execRegisterWrite reg value s
  | .dma core h => Sys2Proof.Machine.execDma core h s
  | .move core h => Sys2Proof.Machine.execMove core h s
  | .halSend core h => Sys2Proof.Machine.execHalSend core h s
  | .halReceive core h => Sys2Proof.Machine.execHalReceive core h s
  | .fil core ph h => Sys2Proof.Machine.execFil core ph h s
  | .cpy core ph h => Sys2Proof.Machine.execCpy core ph h s
  | .vectorAddInt32 core ph h => Sys2Proof.Machine.execVectorAddInt32 core ph h s
  | .vectorAddFp32 core ph h => Sys2Proof.Machine.execVectorAddFp32 core ph h s
  | .scalarAddInt32 core ph h => Sys2Proof.Machine.execScalarAddInt32 core ph h s
  | .swap32 core ph h => Sys2Proof.Machine.execSwap32 core ph h s
  | .swap64 core ph h => Sys2Proof.Machine.execSwap64 core ph h s
  | .clm core ph h => Sys2Proof.Machine.execClm core ph h s
  | .bar core h => Sys2Proof.Machine.execBar core h s
  | .skt core h => Sys2Proof.Machine.execSkt core h s
  | .skinkTile e h => Sys2Proof.Machine.execSkinkTile e h s
  | .skinkDrain e h => Sys2Proof.Machine.execSkinkDrain e h s
  | .skinkCommit e => Sys2Proof.Machine.execSkinkCommit e s
  | .skinkTilesLo e => Sys2Proof.Machine.execSkinkTilesLo e s
  | .sclNop core h => Sys2Proof.Machine.execSclNop core h s
  | .sclEnd core h => Sys2Proof.Machine.execSclEnd core h s
  | .sclLi core h => Sys2Proof.Machine.execSclLi core h s
  | .sclAdd core h => Sys2Proof.Machine.execSclAdd core h s
  | .sclSub core h => Sys2Proof.Machine.execSclSub core h s
  | .sclAnd core h => Sys2Proof.Machine.execSclAnd core h s
  | .sclOr core h => Sys2Proof.Machine.execSclOr core h s
  | .sclXor core h => Sys2Proof.Machine.execSclXor core h s
  | .sclShl core h => Sys2Proof.Machine.execSclShl core h s
  | .sclShr core h => Sys2Proof.Machine.execSclShr core h s
  | .sclSra core h => Sys2Proof.Machine.execSclSra core h s
  | .sclMul core h => Sys2Proof.Machine.execSclMul core h s
  | .sclSlt core h => Sys2Proof.Machine.execSclSlt core h s
  | .sclSltu core h => Sys2Proof.Machine.execSclSltu core h s
  | .sclLdn core h => Sys2Proof.Machine.execSclLdn core h s
  | .sclStn core h => Sys2Proof.Machine.execSclStn core h s
  | .sclRdreg core h => Sys2Proof.Machine.execSclRdreg core h s
  | .sclBeq core h => Sys2Proof.Machine.execSclBeq core h s
  | .sclBne core h => Sys2Proof.Machine.execSclBne core h s
  | .sclBlt core h => Sys2Proof.Machine.execSclBlt core h s
  | .sclBge core h => Sys2Proof.Machine.execSclBge core h s
  | .sclBltu core h => Sys2Proof.Machine.execSclBltu core h s
  | .sclJmp core h => Sys2Proof.Machine.execSclJmp core h s
  | .sclWait core h => Sys2Proof.Machine.execSclWait core h s
  | .sclWaitb core h => Sys2Proof.Machine.execSclWaitb core h s
  | .sclFence core h => Sys2Proof.Machine.execSclFence core h s
  | .permute core ph h => Sys2Proof.Machine.execPermute core ph h s
  | .gather core ph h => Sys2Proof.Machine.execGather core ph h s
  | .scatter core ph h => Sys2Proof.Machine.execScatter core ph h s
  | .compress core ph h => Sys2Proof.Machine.execCompress core ph h s
  | .rescale core ph h => Sys2Proof.Machine.execRescale core ph h s
  | .encb4 core ph h => Sys2Proof.Machine.execEncb4 core ph h s
  | .decb4 core ph h => Sys2Proof.Machine.execDecb4 core ph h s
  | .quant core ph h => Sys2Proof.Machine.execQuant core ph h s
  | .dequant core ph h => Sys2Proof.Machine.execDequant core ph h s
  | .tos8 core ph h => Sys2Proof.Machine.execTos8 core ph h s
  | .adapt core ph h => Sys2Proof.Machine.execAdapt core ph h s
  | .clipstat core ph h => Sys2Proof.Machine.execClipstat core ph h s
  | .softmax core ph h => Sys2Proof.Machine.execSoftmax core ph h s
  | .rmsnorm core ph h => Sys2Proof.Machine.execRmsnorm core ph h s
  | .layernorm core ph h => Sys2Proof.Machine.execLayernorm core ph h s
  | .rsum core ph h => Sys2Proof.Machine.execRsum core ph h s
  | .rmax core ph h => Sys2Proof.Machine.execRmax core ph h s
  | .mask core ph h => Sys2Proof.Machine.execMask core ph h s
  | .gated core ph h => Sys2Proof.Machine.execGated core ph h s
  | .spectrum core ph h => Sys2Proof.Machine.execSpectrum core ph h s
  | .keypoint core ph h => Sys2Proof.Machine.execKeypoint core ph h s
  | .generate core ph h => Sys2Proof.Machine.execGenerate core ph h s
  | .verify core ph h => Sys2Proof.Machine.execVerify core ph h s
  | .opsLo inst => Sys2Proof.Machine.execOpsLo inst s
  | .remoteWrite core win off data scales stat h => Sys2Proof.Machine.execRemoteWrite core win off data scales stat h s
  | .remoteRead core win off len scales h => Sys2Proof.Machine.execRemoteRead core win off len scales h s
  | .creditReturn p win src tower => Sys2Proof.Machine.execCreditReturn p win src tower s
  | .flit link dir f => Sys2Proof.Machine.execFlit link dir f s
  | .laneSubstitution link dir => Sys2Proof.Machine.execLaneSubstitution link dir s
  | .cwyFlitsLo port => Sys2Proof.Machine.execCwyFlitsLo port s
  | .rowRemap tower row => Sys2Proof.Machine.execRowRemap tower row s
  | .channelRetire tower channel => Sys2Proof.Machine.execChannelRetire tower channel s
  | .dramPatrol tower beat wrongBytes => Sys2Proof.Machine.execDramPatrol tower beat wrongBytes s
  | .arpRequest port w target => Sys2Proof.Machine.execArpRequest port w target s
  | .neighbourSolicitation port w target => Sys2Proof.Machine.execNeighbourSolicitation port w target s
  | .echoRequest port w target data => Sys2Proof.Machine.execEchoRequest port w target data s
  | .portLinkChange port link => Sys2Proof.Machine.execPortLinkChange port link s
  | .sync port w => Sys2Proof.Machine.execSync port w s
  | .followUp port w originNs => Sys2Proof.Machine.execFollowUp port w originNs s
  | .peerDelay port initiator w w2 delayNs => Sys2Proof.Machine.execPeerDelay port initiator w w2 delayNs s
  | .timeInvalid => Sys2Proof.Machine.execTimeInvalid s
  | .openSession r => Sys2Proof.Machine.execOpenSession r s
  | .closeSession r => Sys2Proof.Machine.execCloseSession r s
  | .dread r => Sys2Proof.Machine.execDread r s
  | .dwrite r => Sys2Proof.Machine.execDwrite r s
  | .logRead r => Sys2Proof.Machine.execLogRead r s
  | .bulkWrite r h => Sys2Proof.Machine.execBulkWrite r h s
  | .bulkRead r h => Sys2Proof.Machine.execBulkRead r h s
  | .doorbellSubTail r => Sys2Proof.Machine.execDoorbellSubTail r s
  | .doorbellCmpHead r => Sys2Proof.Machine.execDoorbellCmpHead r s
  | .ackMessage r => Sys2Proof.Machine.execAckMessage r s
  | .sendAck sess => Sys2Proof.Machine.execSendAck sess s
  | .retransmission sess place => Sys2Proof.Machine.execRetransmission sess place s
  | .complete sess => Sys2Proof.Machine.execComplete sess s
  | .event sess device => Sys2Proof.Machine.execEvent sess device s
  | .jobSelection p h => Sys2Proof.Machine.execJobSelection p h s
  | .jobBoundary p h => Sys2Proof.Machine.execJobBoundary p h s
  | .jobStart p => Sys2Proof.Machine.execJobStart p s
  | .timeLimit p => Sys2Proof.Machine.execTimeLimit p s
  | .fault p => Sys2Proof.Machine.execFault p s
  | .unitsStopped p => Sys2Proof.Machine.execUnitsStopped p s
  | .clearingComplete p => Sys2Proof.Machine.execClearingComplete p s
  | .kill sess => Sys2Proof.Machine.execKill sess s
  | .flush sess h => Sys2Proof.Machine.execFlush sess h s
  | .hold sess => Sys2Proof.Machine.execHold sess s
  | .release sess => Sys2Proof.Machine.execRelease sess s
  | .ringCommit sess => Sys2Proof.Machine.execRingCommit sess s
  | .windowOpen sess => Sys2Proof.Machine.execWindowOpen sess s
  | .windowClose sess => Sys2Proof.Machine.execWindowClose sess s
  | .versionBuildComplete p => Sys2Proof.Machine.execVersionBuildComplete p s
  | .partitionCreate sess => Sys2Proof.Machine.execPartitionCreate sess s
  | .partitionRemove sess => Sys2Proof.Machine.execPartitionRemove sess s
  | .partitionReady p => Sys2Proof.Machine.execPartitionReady p s
  | .tenantErasure die => Sys2Proof.Machine.execTenantErasure die s
  | .fullPlacement sess => Sys2Proof.Machine.execFullPlacement sess s
  | .emptyReloadList sess => Sys2Proof.Machine.execEmptyReloadList sess s
  | .tenantCommit sess => Sys2Proof.Machine.execTenantCommit sess s
  | .commitDiscard sess index => Sys2Proof.Machine.execCommitDiscard sess index s
  | .budgetCommit sess => Sys2Proof.Machine.execBudgetCommit sess s
  | .weightCommit sess => Sys2Proof.Machine.execWeightCommit sess s
  | .paceCommit sess => Sys2Proof.Machine.execPaceCommit sess s
  | .railCommit sess => Sys2Proof.Machine.execRailCommit sess s
  | .alertCommit sess => Sys2Proof.Machine.execAlertCommit sess s
  | .thermalCommit sess => Sys2Proof.Machine.execThermalCommit sess s
  | .arrayMaintenanceCommit sess => Sys2Proof.Machine.execArrayMaintenanceCommit sess s
  | .sramPatrolCommit sess => Sys2Proof.Machine.execSramPatrolCommit sess s
  | .dramPatrolCommit sess => Sys2Proof.Machine.execDramPatrolCommit sess s
  | .overflowPolicyCommit sess => Sys2Proof.Machine.execOverflowPolicyCommit sess s
  | .portCommit sess port => Sys2Proof.Machine.execPortCommit sess port s
  | .slpSettingsCommit sess => Sys2Proof.Machine.execSlpSettingsCommit sess s
  | .timeCommit sess => Sys2Proof.Machine.execTimeCommit sess s
  | .queryStored sess => Sys2Proof.Machine.execQueryStored sess s
  | .queryRemeasure sess => Sys2Proof.Machine.execQueryRemeasure sess s
  | .queryShadow sess => Sys2Proof.Machine.execQueryShadow sess s
  | .accumulatorRead sess => Sys2Proof.Machine.execAccumulatorRead sess s
  | .alarmClear sess => Sys2Proof.Machine.execAlarmClear sess s
  | .traceCommit sess => Sys2Proof.Machine.execTraceCommit sess s
  | .quote sess => Sys2Proof.Machine.execQuote sess s
  | .debugCommit sess => Sys2Proof.Machine.execDebugCommit sess s
  | .install sess port => Sys2Proof.Machine.execInstall sess port s
  | .delete sess port => Sys2Proof.Machine.execDelete sess port s
  | .programFlash sess ok => Sys2Proof.Machine.execProgramFlash sess ok s
  | .finish sess image => Sys2Proof.Machine.execFinish sess image s
  | .clearTenants sess => Sys2Proof.Machine.execClearTenants sess s
  | .raiseMinimum sess => Sys2Proof.Machine.execRaiseMinimum sess s
  | .levelControl acts => Sys2Proof.Machine.execLevelControl acts s
  | .levelChange target => Sys2Proof.Machine.execLevelChange target s
  | .railTargetReached target => Sys2Proof.Machine.execRailTargetReached target s
  | .raiseTimeout target rail => Sys2Proof.Machine.execRaiseTimeout target rail s
  | .readPout rail reply => Sys2Proof.Machine.execReadPout rail reply s
  | .shareRecomputation => Sys2Proof.Machine.execShareRecomputation s
  | .budgetOverrun => Sys2Proof.Machine.execBudgetOverrun s
  | .budgetShortfall => Sys2Proof.Machine.execBudgetShortfall s
  | .unmark => Sys2Proof.Machine.execUnmark s
  | .monitorTrim die slacks => Sys2Proof.Machine.execMonitorTrim die slacks s
  | .ceilingLower unit => Sys2Proof.Machine.execCeilingLower unit s
  | .droop die quarter => Sys2Proof.Machine.execDroop die quarter s
  | .clampRelease die quarter => Sys2Proof.Machine.execClampRelease die quarter s
  | .alertWire wire asserted => Sys2Proof.Machine.execAlertWire wire asserted s
  | .alertForceEnd => Sys2Proof.Machine.execAlertForceEnd s
  | .temperatureSample dies towers => Sys2Proof.Machine.execTemperatureSample dies towers s
  | .correctionWriteBack word => Sys2Proof.Machine.execCorrectionWriteBack word s
  | .sramPatrol word wrong => Sys2Proof.Machine.execSramPatrol word wrong s
  | .strikeExpiry => Sys2Proof.Machine.execStrikeExpiry s
  | .watchdog => Sys2Proof.Machine.execWatchdog s
  | .lossRecord ring => Sys2Proof.Machine.execLossRecord ring s
  | .timeRecord => Sys2Proof.Machine.execTimeRecord s
  | .powerOnReset boot => Sys2Proof.Machine.execPowerOnReset boot s
  | .warmN => Sys2Proof.Machine.execWarmN s
  | .warmStartUp boot => Sys2Proof.Machine.execWarmStartUp boot s
  | .referenceLoss => Sys2Proof.Machine.execReferenceLoss s
  | .referenceRestored => Sys2Proof.Machine.execReferenceRestored s
  | .extest pins => Sys2Proof.Machine.execExtest pins s
  | .samplePreload pins => Sys2Proof.Machine.execSamplePreload pins s
  | .bypass => Sys2Proof.Machine.execBypass s
  | .idcode => Sys2Proof.Machine.execIdcode s
  | .discardedFrame port w why => Sys2Proof.Machine.execDiscardedFrame port w why s
  | .controlProcessorFault why => Sys2Proof.Machine.execControlProcessorFault why s
  | .porstNLow arrayRailLost => Sys2Proof.Machine.execPorstNLow arrayRailLost s
  | .epochTreeReady seed ident => Sys2Proof.Machine.execEpochTreeReady seed ident s

end Sys2Proof.Machine
end

