-- ==== Sys2Proof/Safety.lean ====
section
/-! DEFINITION. What a safe step is, and the premises in whose terms claims are stated: when a tile instruction issues, when a macro or
an engine has the work that a command performs, and which part of the state a command may touch. -/

namespace Sys2Proof

/-- Every waiting command names units that exist. -/
def QueueOk (s : Machine.State) : Prop := ∀ c ∈ s.pending, c.wf = true

/-- Memory lists its bytes in the one canonical form. -/
def MemOk (s : Machine.State) : Prop := s.mem.wf = true

namespace Machine

/-- A core issues the instruction `w` of a command's row: its job runs, the fetch answers `w`, no check of R148 refuses it, its guard does
not skip it (R132) and nothing holds it in the sequencer (R117). -/
structure Issues (s : State) (c w : Nat) (sel : Nat → Bool) (checks : Core → Nat → List (Bool × Nat)) (hold : Nat → State → Option Nat) :
    Prop where
  core : coreOk c = true
  issuing : s.issuing c = true
  fetched : s.fetch c = .ok w
  defined : insDefined w = true
  selected : sel w = true
  sound : firstOf ((fGuard w == 3, 0x0100) :: checks (s.core c) w) = none
  kept : guardSkips (s.core c) w = false
  free : hold w s = none

/-- A token counter has room for one more, or none is named (R147). -/
def Core.maySignal (k : Core) (sig : Nat) : Prop := sig = 0 ∨ mget k.tokens 0 sig ≠ 65535

/-- A core whose instruction has completed: the token counter that it names has risen by one (R147). -/
def Core.signalled (k : Core) (sig : Nat) : Core := if sig = 0 then k else { k with tokens := mset k.tokens 0 sig (mget k.tokens 0 sig + 1) }

/-- A core that has gone on to the next instruction. -/
def Core.issued (k : Core) : Core := { k with pc := k.pc + 1, state := 1 }

/-! ### Bytes at several places -/

/-- The address lies at one of the places (address, length). -/
def inExtents (ext : List (Nat × Nat)) (x : Nat) : Prop := ∃ e ∈ ext, e.1 ≤ x ∧ x < e.1 + e.2

/-- The bytes at the places, in order. -/
def bytesAt (m : Memory) (ext : List (Nat × Nat)) : List Byte := ext.flatMap fun e => m.readN e.1 e.2

/-- No code word that the places touch is uncorrectable (R432). -/
def Readable (m : Memory) (ext : List (Nat × Nat)) : Prop := ∀ e ∈ ext, m.badAt e.1 e.2 = none

/-- The places lie apart, and no uncorrectable code word is covered in part (R432). -/
structure Writable (m : Memory) (ext : List (Nat × Nat)) : Prop where
  apart : ext.Pairwise fun a b => a.1 + a.2 ≤ b.1 ∨ b.1 + b.2 ≤ a.1
  sound : ∀ e ∈ ext, m.badPart e.1 e.2 = none

/-- The memory holds the bytes at the places, and every other byte as before. -/
def Stored (m m' : Memory) (ext : List (Nat × Nat)) (bs : List Byte) : Prop :=
  bytesAt m' ext = bs ∧ ∀ x, ¬inExtents ext x → m'.read x = m.read x

/-- Two states differ in nothing but memory, cores, and what the partition of core `c` keeps: its cache, and what its job has written. -/
def OnlyData (c : Nat) (s t : State) : Prop :=
  t = { s with mem := t.mem, cores := t.cores, parts := t.parts, harm := t.harm } ∧ ∀ p, (s.core c).part ≠ some p → t.part p = s.part p

/-- An operand's accesses go past the caches of the legacy cached mode (R298). -/
def Uncached (s : State) (c : Nat) (o : Operand) : Prop := o.h.kind ≠ 4 ∨ ∀ p, (s.core c).part = some p → s.cached p = false

/-- The memory-operation unit of core `c` carries out `o` in a command's phase `ph`: the instruction issues with the unit's queue empty, or `o` is at
the front of the queue; `v` is the state as it begins (R117, R141 to R143). -/
structure Carries (u : State) (c : Nat) (ph : Carry) (sel : Nat → Bool) (checks : Core → Nat → List (Bool × Nat)) (op : Core → Nat → MemOp)
    (o : MemOp) (v : State) : Prop where
  core : coreOk c = true
  how : (ph = .whole ∧ ∃ w, Issues u c w sel checks freely ∧ (u.core c).memQ = [] ∧ o = op ((u.advance c).core c) w ∧ v = u.advance c) ∨
    (ph = .perform ∧ ∃ rest, (u.core c).memQ = o :: rest ∧ sel o.w = true ∧ v = u.updCore c fun k => { k with memQ := rest })
  credit : u.memHeld c o = false

/-- The entry at the front of a macro's queue waits: its product is at work, or what it needs is not free yet (R57, R83, R117, R137). -/
def Macro.waits (m : Macro) : Bool :=
  m.accepted || match m.queue with
  | [] => false
  | .product i :: _ => m.blocked || ((productRefusal m i).isNone && i.k == 0 && m.earlier m.order)
  | .wpg i :: _ =>
    (banksOf (m.targets i.op i.page (m.writesBoth i.op i.page))).any m.bankBusy ||
      ((wpgEntry m i).isNone && i.nrows == 0 && i.op != 3 && m.earlier m.order)
  | .swp _ :: _ => m.drainBuf.isSome

/-- A macro with an entry behind the others of its queue. -/
def Macro.joined (m : Macro) (e : QEntry) : Macro := { m with queue := m.queue ++ [e] }

/-- The next entry of the queue, if any, waits or is a product that can begin. -/
def Macro.settles (m : Macro) : Prop :=
  m.queue = [] ∨ m.waits = true ∨ ∃ i rest, m.queue = .product i :: rest ∧ productRefusal m i = none ∧ i.k ≠ 0

/-- A macro whose next product, where it need not wait, has begun (R56, R57, R105). -/
def Macro.begun (m : Macro) : Macro :=
  match m.queue with
  | .product i :: _ =>
    if m.waits then m
    else { (m.yieldBank (decide (32 ≤ m.livePage i.page))) with accepted := true, order := m.order + 1, run := some (Run.fresh (outputs (m.page (m.livePage i.page)) i.rev) m.order) }
  | _ => m

/-- A core once an instruction of a macro is complete: its head blocks are released and its token has risen (R122, R147). -/
def Core.completed (k : Core) (blocks : List Nat) (sig : Nat) : Core :=
  ({ k with busy := blocks.foldl (fun m b => mset m 0 b (mget m 0 b - 1)) k.busy } : Core).signalled sig

/-- A refused entry: its macro has dropped its queue, its core issues no more and keeps the first status, and the job has its fault, of unit 2, at the
instruction (R129, R148, R150). -/
structure MacRefused (s t : State) (c p k status pc : Nat) : Prop where
  fault : ∃ f, (t.part p).faults = (s.part p).faults ++ [f] ∧ f.status = status ∧ f.unit = 2 ∧ f.pc = pc
  dropped : (t.mac k).queue = [] ∧ (t.mac k).accepted = false ∧ (t.mac k).run = none
  stopped : (t.core c).state = 6 ∧ (t.core c).faultValid = true ∧
    ((s.core c).faultValid = false → (t.core c).faultStatus = status ∧ (t.core c).faultPc = pc % 2 ^ 15)
  others : ∀ j, j ≠ k → t.mac j = s.mac j
  mem : t.mem = s.mem

/-- A logical macro of a core has begun a product, which is at the front of its queue (R57). -/
structure Works (s : State) (c n k : Nat) (m : Macro) (i : ProductIns) (r : Run) : Prop where
  core : coreOk c = true
  macro0 : macroOk n = true
  key : k = s.macroOf c n
  mac : m = s.mac k
  accepted : m.accepted = true
  front : ∃ rest, m.queue = .product i :: rest
  run : m.run = some r

/-- The loader of a logical macro of a core writes into a bank for the segment `w`, the earliest at work there (R82, R83). -/
structure Writes (s : State) (c n : Nat) (bank : Bool) (k : Nat) (m : Macro) (w : PageWrite) : Prop where
  core : coreOk c = true
  macro0 : macroOk n = true
  key : k = s.macroOf c n
  mac : m = s.mac k
  work : m.writing.find? (fun x => (m.writeBanks x).contains bank) = some w

/-- The descriptor at the front of a core's `DMA` queue is an operation of an engine that its instance takes, sound in all its own fields
(R240, R241, R272); `after` is the state once its record is read. -/
structure Takes (s : State) (c e code : Nat) (r : Recipe) (q : DmaOp) (d : Desc) (o : Op) (after : State) : Prop where
  core : coreOk c = true
  front : ∃ rest, (s.core c).dmaQ = q :: rest
  next : s.nextDesc c q = .ok d
  engine : d.eng = e
  ready : s.takeOp c e q.greg d = .ready o after
  code : o.code = code
  sound : o.refusal s r.second r.output r.plain (r.handles o) (r.own o) = none

/-- In its phase `ph` the command of an operation has its instance carry it out: with nothing queued there, or in its turn; its output has credits left
in the state `after` in which it begins (R240, R310). -/
structure Serves (s after : State) (ph : Carry) (e : Nat) (o : Op) (r : Recipe) : Prop where
  phase : (ph = .whole ∧ (s.engine (instKey o.die e)).queue = []) ∨ (ph = .perform ∧ (s.engine (instKey o.die e)).turn o.core = true)
  credit : o.starved after r = false

/-- Nothing befalls the values and the beats of a command. -/
def Calm (h : Harm) : Prop := h.err = .none ∧ h.beat = .none

/-- Bytes of the place of an element of `b` bits. -/
def elemBytes (b : Nat) : Nat := if b < 8 then 1 else b / 8

/-- The value of element `n` of `b` bits, counted from offset `off`, whose place is at `a`. -/
def elemVal (m : Memory) (off b n a : Nat) : Nat := leNat (m.readN a (elemBytes b)) / 2 ^ (bitPlace off n b).2 % 2 ^ b

/-- The elements `ns` of `b` bits of an engine's operand can be stored: element `n` lies at `place n`, sound, and apart from the others, which may
share its byte when they are narrower than one (R287, R432). -/
structure Storable (o : Op) (s : State) (x : Operand) (b : Nat) (place : Nat → Nat) (ns : List Nat) : Prop where
  placed : ∀ n ∈ ns, s.extentsAt o.die o.core { x with off := (bitPlace x.off n b).1 } (elemBytes b) rWR = .ok [(place n, elemBytes b)]
  sound : ∀ n ∈ ns, s.mem.badAt (place n) (elemBytes b) = none
  apart : ns.Pairwise fun n m => place n + elemBytes b ≤ place m ∨ place m + elemBytes b ≤ place n ∨
    (b < 8 ∧ place n = place m ∧ (bitPlace x.off n b).2 ≠ (bitPlace x.off m b).2)

/-- The elements of an output hold their values, and every byte outside their places is as before. -/
def Held (m m' : Memory) (x : Operand) (b : Nat) (place : Nat → Nat) (outs : List (Nat × Nat)) : Prop :=
  (∀ e ∈ outs, elemVal m' x.off b e.1 (place e.1) = e.2 % 2 ^ b) ∧
    ∀ a, (∀ e ∈ outs, ¬(place e.1 ≤ a ∧ a < place e.1 + elemBytes b)) → m'.read a = m.read a

/-- Bytes at an engine's operand can be stored at the places `ext` (R316, R432). -/
structure Room (o : Op) (s : State) (x : Operand) (n : Nat) (ext : List (Nat × Nat)) : Prop where
  placed : s.extentsAt o.die o.core x n rWR = .ok ext
  writable : Writable s.mem ext

/-- The places of two lists lie apart. -/
def Apart (a b : List (Nat × Nat)) : Prop := ∀ x ∈ a, ∀ y ∈ b, x.1 + x.2 ≤ y.1 ∨ y.1 + y.2 ≤ x.1

/-- An operation of instance `k` for core `c` is over: the instance counts it and serves it no more, the `DMA` unit goes on, and besides memory, the
core and what its partition keeps, nothing has changed since `s` (R240, R244, R271, R298). -/
structure Served (s t : State) (c k : Nat) (q : DmaOp) (d : Desc) : Prop where
  counted : (t.engine k).ops = min u64Max ((s.engine k).ops + 1)
  left : ∀ e ∈ (t.engine k).queue, e.2 ≠ c
  others : ∀ j, j ≠ k → t.engine j = s.engine j
  onward : (t.core c).dmaQ = if q.ndesc ≤ q.next + d.slots then (s.core c).dmaQ.drop 1
    else { q with next := q.next + d.slots } :: (s.core c).dmaQ.drop 1
  cores : ∀ i, i ≠ c → t.core i = s.core i
  frame : t = { s with mem := t.mem, cores := t.cores, parts := t.parts, engines := t.engines, harm := t.harm }

/-- The row pieces of `DMA` descriptors: element `n` of a side of element size `es` at `off` lies at one place of a core's operand. -/
def Placed (s : State) (c : Nat) (h : Handle) (off es n kind a : Nat) : Prop :=
  s.extents c { h := h, off := elemOff off n es } (esBytes es) kind = .ok [(a, esBytes es)] ∧ s.mem.badAt a (esBytes es) = none

/-- The value of element `n` of size `es` at its place: of four bits, the lower or the upper half of the byte (R284). -/
def moved (m : Memory) (es n a : Nat) : Nat :=
  if es = 0 then leNat (m.readN a 1) / 16 ^ (n % 2) % 16 else leNat (m.readN a (esBytes es))

/-- A request of type `type` of a session reaches its turn: it comes through its port's checks, from the address that opened the session, next in order,
nothing of the session waits before it, and its payload and header checks hold. `s'` and `q'` are the state and the session in which the device acts on
it, the request's own acknowledgment and count done (R332, R335, R336, R338). -/
structure Turn (s : State) (type : Nat) (r : Req) (q p : Session) (s' : State) (q' : Session) : Prop where
  port : portOk r.port = true
  read : (s.takeMessage type r).2 = true
  session : s.session r.session = some q
  sender : q.addr = r.addr ∧ q.udp = r.udp
  order : q.ahead r.seq = 0
  acked : ((s.takeMessage type r).1.acknowledge r.session r.ack).session r.session = some p
  calm : ((s.takeMessage type r).1.acknowledge r.session r.ack).sessionWaits r.session = false ∧ p.inbox = [] ∧ p.held = []
  checked : pcrcOk r = true ∧ badReq r = false
  taken : q' = { p with rxNext := (p.rxNext + 1) % 2 ^ 32, ackDue := true }
  state : s' = ((s.takeMessage type r).1.acknowledge r.session r.ack).setSession r.session q'

/-- Session `n` commits a block by the command's row and the hub samples it in this tick: the session may act at once, its staged copy `c`, which holds
each staged entry of the block once, passes the row's test, the commit entry is its to write, and no earlier commit of the instance is at work or waits.
`s'` and `q'` are the state and the session that the hub samples (R355, R360, R361). -/
structure Samples (s : State) (n index : Nat) (test : Staged → Bool) (q : Session) (b : Block) (c : Staged) (s' : State) (q' : Session) : Prop where
  session : s.session n = some q
  block : blockAt index = some b
  calm : s.sessionFree n q = true ∧ q.held = []
  copy : s.copyFor q b index (b.inst q) = c
  asked : test c = true
  taken : q' = { q with rxNext := (q.rxNext + 1) % 2 ^ 32, ackDue := true }
  state : s' = s.setSession n q'
  sampled : s'.copyFor q' b index (b.inst q') = c
  named : c.block = index ∧ c.inst = b.inst q'
  proper : (c.vals.map Prod.fst).Nodup ∧ ∀ e ∈ c.vals, ∃ x ∈ b.staged, x.sub = e.1
  entry : ∃ e, s'.resolve q' index 0xFF true = .ok (b, e) ∧ e.access = 2
  free : s'.atWork index (b.inst q') = false ∧ s'.queuedBefore b index (b.inst q') = false

/-- A commit of session `n` is answered with 0, and its staged copy is gone (R360). -/
def Granted (t : State) (n : Nat) (c : Staged) : Prop :=
  ∃ y m k, t.session n = some y ∧ y.copy c.block c.inst = none ∧ (m, k) ∈ y.unacked ∧ m.type = 0x91 ∧ m.status = 0

/-- A commit of session `n` is answered with a status, and its staged copy is kept (R360). -/
def Denied (t : State) (n : Nat) (q : Session) (status : Nat) : Prop :=
  ∃ y m k, t.session n = some y ∧ y.staged = q.staged ∧ (m, k) ∈ y.unacked ∧ m.type = 0x91 ∧ m.status = status

/-- Every value that a staged copy holds is in force, and every other dictionary value is as it was. -/
def InForce (s t : State) (c : Staged) : Prop :=
  (∀ e ∈ c.vals, t.dbytes c.block c.inst e.1 = e.2) ∧
    ∀ k, (∀ e ∈ c.vals, k ≠ dkey c.block c.inst e.1) → mget t.dict [] k = mget s.dict [] k

/-- Two states differ in no memory, core, macro, engine or ring. -/
def SameUnits (s t : State) : Prop :=
  t.mem = s.mem ∧ t.cores = s.cores ∧ t.macros = s.macros ∧ t.skinks = s.skinks ∧ t.engines = s.engines ∧ t.rings = s.rings

/-- The ring's next completion slot is one place, at `a`, that `HD` reaches and may write: the record of 32 bytes goes there (R308, R316, R349). -/
def State.recordRoom (s : State) (p : Nat) (r : Ring) (a : Nat) : Prop :=
  s.windowAt 18 p r.rwin (r.cmpOff + 32 * (r.cmpTail % r.size)) 32 rWR = .ok [(a, 32)] ∧ s.mem.badPart a 32 = none

/-- Bytes are the completion record of a job in a ring (R349, Table 11.11): status, phase, ring, slot, `TAG`, ticks, fault
word and alive count. -/
def IsRecord (bs : List Byte) (r : Ring) (j : Job) (status ticks : Nat) : Prop :=
  bs.length = 32 ∧ numAt bs 0 2 = status % 2 ^ 16 ∧ numAt bs 2 2 / 2 ^ 15 = r.cmpTail / r.size % 2 ∧ numAt bs 4 2 = j.ring % 2 ^ 16 ∧ numAt bs 6 2 = j.slot % 2 ^ 16 ∧
    numAt bs 8 8 = j.tag % 2 ^ 64 ∧ numAt bs 16 4 = min ticks 0xFFFFFFFF ∧
    numAt bs 24 4 = (if status = 0 then 0 else faultWord j.fault % 2 ^ 32) ∧ numAt bs 28 4 = r.cmpAlive % 2 ^ 32

/-- Two states differ in nothing but one core. -/
def OnlyCore (c : Nat) (s t : State) : Prop := t = { s with cores := t.cores } ∧ ∀ d, d ≠ c → t.core d = s.core d

/-- Two states differ in nothing but one macro. -/
def OnlyMacro (k : Nat) (s t : State) : Prop := t = { s with macros := t.macros } ∧ ∀ j, j ≠ k → t.mac j = s.mac j

end Machine

end Sys2Proof
end

