-- ==== Sys2Proof/Certificates/Slice0/Obligations.lean ====
section
/-! DEFINITION. What is claimed of the model, for the provers: statements of the spec's rules over every state, by family. Each command's
completion, its frame and its refusals stand with it; Safety.lean has the premises. -/

open Sys2Proof Sys2Proof.Machine

/-! ### The scalar unit (R125 to R132, R145 to R148) -/

/-- R145, Table 4.17: each arithmetic function, issued, writes s[RD] the value the table gives of operands A and B, advances the program counter
and touches nothing else of the device; where what it computes disagrees with its residue it writes nothing, and the job faults with 0x0303
(R429, R430). R131: s0 reads 0 whatever is written to it, and a write to another register is read back there and nowhere else. Table 4.17: a
branch, issued, goes to `TGT` when its comparison of s[RA] and s[RB] holds and to the next instruction when it does not; `JMP` always goes to
`TGT`. R148, Table 4.17: a branch or jump whose target lies outside the segment is refused with 0x0106 whether or not it would be taken: issue
stops with the fault recorded, the job faults, and nothing is written. -/
def Obligations.ScalarCompletes : Prop :=
  (∀ (s : State) (c w : Nat) (h : Harm) (i : Instr) (f : Nat) (v : Word),
    let u := s.suffer h
    let k := u.core c
    let a := opA k w
    let b := opB k w
    (i, f, v) ∈ [(Instr.sclLi c h, 0x02, BitVec.ofNat 32 (fImm w)), (.sclAdd c h, 0x03, a + b), (.sclSub c h, 0x04, a - b), (.sclAnd c h, 0x05, a &&& b),
        (.sclOr c h, 0x06, a ||| b), (.sclXor c h, 0x07, a ^^^ b), (.sclShl c h, 0x08, a <<< (b.toNat % 32)), (.sclShr c h, 0x09, a >>> (b.toNat % 32)),
        (.sclSra c h, 0x0A, a.sshiftRight (b.toNat % 32)), (.sclMul c h, 0x0B, a * b), (.sclSlt c h, 0x0C, if a.toInt < b.toInt then 1 else 0),
        (.sclSltu c h, 0x0D, if a.toNat < b.toNat then 1 else 0)] →
      Issues u c w (sclSel f) sclChecks freely →
        (h.err = .none →
          ∃ t, exec i s = .next t ∧ OnlyCore c { u with harm := s.harm } t ∧ (t.core c).pc = k.pc + 1 ∧
            (∀ r, (t.core c).reg r = if r = 0 then 0 else if r = fRd w then v else k.reg r) ∧
            t.core c = { k with pc := k.pc + 1, state := 1, regs := (t.core c).regs }) ∧
        (∀ e p, h.err = some (0, e) → e % 7 ≠ 0 → f ≠ 0x02 → k.part = some p →
          ∃ t g, exec i s = .next t ∧ (t.part p).faults = (u.part p).faults ++ [g] ∧ g.status = 0x0303 ∧ g.unit = 1 ∧ g.pc = k.pc ∧
            t.core c = k.issued ∧ t.mem = u.mem)) ∧
  (∀ (k : Core) (r r' : Nat) (v : Word),
    (k.setReg 0 v) = k ∧ (k.setReg r v).reg 0 = 0 ∧ (r ≠ 0 → (k.setReg r v).reg r = v) ∧ (r' ≠ r → (k.setReg r v).reg r' = k.reg r') ∧
      { k.setReg r v with regs := k.regs } = k) ∧
  (∀ (s : State) (c w : Nat) (h : Harm) (i : Instr) (f : Nat) (taken : Bool),
    let u := s.suffer h
    let k := u.core c
    let a := k.reg (fRa w)
    let b := k.reg (fRb w)
    (i, f, taken) ∈ [(Instr.sclBeq c h, 0x18, decide (a = b)), (.sclBne c h, 0x19, decide (a ≠ b)), (.sclBlt c h, 0x1A, decide (a.toInt < b.toInt)),
        (.sclBge c h, 0x1B, decide (b.toInt ≤ a.toInt)), (.sclBltu c h, 0x1C, decide (a.toNat < b.toNat)), (.sclJmp c h, 0x1D, true)] →
      Issues u c w (sclSel f) branchChecks freely →
        exec i s = .next { u.setCore c { k with pc := if taken then fImm w % 2 ^ 16 else k.pc + 1, state := 1 } with harm := s.harm }) ∧
  (∀ (s : State) (c w : Nat) (h : Harm) (i : Instr) (f : Nat),
    let u := s.suffer h
    (i, f) ∈ [(Instr.sclBeq c h, 0x18), (.sclBne c h, 0x19), (.sclBlt c h, 0x1A), (.sclBge c h, 0x1B), (.sclBltu c h, 0x1C), (.sclJmp c h, 0x1D)] →
      coreOk c = true → u.issuing c = true → u.fetch c = .ok w → sclSel f w = true → insDefined w = true → fGuard w ≠ 3 →
      sclReserved w = false → fH w = 0 → (u.core c).segCount ≤ fImm w % 2 ^ 16 → (u.core c).faultValid = false →
        ∃ t, exec i s = .next t ∧ (t.core c).state = 6 ∧ (t.core c).faultValid = true ∧ (t.core c).faultStatus = 0x0106 ∧
          (t.core c).faultPc = (u.core c).pc % 2 ^ 15 ∧ (t.core c).pc = (u.core c).pc ∧ (t.core c).regs = (u.core c).regs ∧ t.mem = u.mem)

/-- R117, R145, R146, Table 4.17: `NOP` only advances; `WAIT` takes its count from a counter that has reached it; `WAITB` goes on when its head
blocks are free, and `FENCE` once every earlier instruction has completed; `END` ends its core's program, and where no barrier gathers nothing
else happens. One that must wait only shows state 2, 3 or 4. Table 4.17, R125: `LDN` from a local memory writes to s[RD] the little-endian word
that its four bytes hold, and nothing else but the count of the access (R399). Table 4.17, R125: `STN` stores s[RB] little-endian in the four
bytes of its operand; every other byte of memory reads as before. Table 4.17, R72, R127: `RDREG` writes to s[RD] what the core's register space
holds at `IMM`; a read of `MAC_STEP_COUNT_LO` latches the high half of that count, and no other read changes anything. Where the space has no
register the word read is free (the spec gives it no value). -/
def Obligations.WaitsComplete : Prop :=
  (∀ (s : State) (c w : Nat) (h : Harm),
    let v := s.suffer h
    let k := v.core c
    let n := fImm w / 2 ^ 16
    let t := fImm w % 16
    (Issues v c w (sclSel 0x00) sclChecks freely → exec (.sclNop c h) s = .next { v.setCore c k.issued with harm := s.harm }) ∧
    (Issues v c w (sclSel 0x20) sclChecks freely → t ≠ 0 →
      (n ≤ mget k.tokens 0 t → ∃ u, exec (.sclWait c h) s = .next u ∧ OnlyCore c { v with harm := s.harm } u ∧ u.core c = { k.issued with tokens := (u.core c).tokens } ∧
        ∀ j, mget (u.core c).tokens 0 j = if j = t then mget k.tokens 0 j - n else mget k.tokens 0 j) ∧
      (mget k.tokens 0 t < n → exec (.sclWait c h) s = .next { v.setCore c { k with state := 2 } with harm := s.harm })) ∧
    (Issues v c w (sclSel 0x21) sclChecks freely →
      exec (.sclWaitb c h) s = .next { v.setCore c (if k.busyBits &&& (fImm w % 2 ^ 16) = 0 then k.issued else { k with state := 3 }) with harm := s.harm }) ∧
    (Issues v c w (sclSel 0x22) sclChecks freely →
      exec (.sclFence c h) s = .next { v.setCore c (if v.quiet c = true then k.issued else { k with state := 4 }) with harm := s.harm }) ∧
    (Issues v c w (sclSel 0x01) sclChecks freely →
      (∃ u, exec (.sclEnd c h) s = .next u ∧ (u.core c).ended = true ∧ u.issuing c = false ∧ (u.core c).regs = k.regs ∧ u.mem = v.mem) ∧
      ∀ p, k.part = some p → (v.gathering p k.dieLog).2 = [] → (v.gathering p 16).2 = [] →
        exec (.sclEnd c h) s = .next { v.setCore c { k.issued with state := 0, ended := true } with harm := s.harm })) ∧
  (∀ (s : State) (c w : Nat) (h : Harm) (bs : List Byte),
    let u := s.suffer h
    let k := u.core c
    let o := narrowOperand k w
    let at0 := localMem c o.h.kind
    Issues u c w (sclSel 0x10) narrowChecks freely → Calm h →
      readExtents u.mem (localExtents at0.1 at0.2 2 (o.h.base + o.off) 4) = .ok bs →
        ∃ t, exec (.sclLdn c h) s = .next t ∧ OnlyCore c { u.tallyOp c o 4 rRD with harm := s.harm } t ∧ t.core c = { k.issued with regs := (t.core c).regs } ∧
          ∀ r, (t.core c).reg r = if r = 0 then 0 else if r = fRd w then BitVec.ofNat 32 (leNat bs) else k.reg r) ∧
  (∀ (s : State) (c w : Nat) (h : Harm) (ext : List (Nat × Nat)),
    let u := s.suffer h
    let k := u.core c
    let o := narrowOperand k w
    Issues u c w (sclSel 0x11) narrowChecks freely → Calm h → u.extents c o 4 rWR = .ok ext → Writable u.mem ext →
      ∃ t, exec (.sclStn c h) s = .next t ∧ OnlyData c (u.tallyOp c o 4 rWR) t ∧ t.core c = k.issued ∧ (∀ d, d ≠ c → t.core d = u.core d) ∧
        Stored u.mem t.mem ext (leBytes 4 (k.reg (fRb w)).toNat)) ∧
  (∀ (s : State) (c w : Nat) (h : Harm),
    let u := s.suffer h
    let k := u.core c
    let a := u.advance c
    let put := fun (v : Word) => k.issued.setReg (fRd w) v
    Issues u c w (sclSel 0x12) sclChecks freely →
      (coreRegOk (fImm w) = true →
        (∀ m, macroAtReg a c (fImm w) = some (m, 0x014) →
          exec (.sclRdreg c h) s = .next { (u.latchSteps m).setCore c (put (BitVec.ofNat 32 (coreReg a c (fImm w)))) with harm := s.harm }) ∧
        ((∀ m, macroAtReg a c (fImm w) ≠ some (m, 0x014)) →
          exec (.sclRdreg c h) s = .next { u.setCore c (put (BitVec.ofNat 32 (coreReg a c (fImm w)))) with harm := s.harm })) ∧
      (coreRegOk (fImm w) = false → exec (.sclRdreg c h) s = .next { { u with fresh := u.fresh + 1 }.setCore c (put (Config.freeWord u.fresh)) with harm := s.harm }))

/-- R132, R145, R147, R148: in every command that issues a tile instruction, a fetch that fails, an undefined instruction, or one that a check
refuses stops issue with the status in `CORE_FAULT` and faults the job, nothing written; and one that its guard skips has no effect but its
token. That an undefined encoding or a failed fetch faults in whichever row meets it is log entry 5 (DEDUCED), which no rule says. Where the spec
leaves a point open, the reading is the model's, of log entry 5. -/
def Obligations.IssueRules : Prop :=
  ∀ (s : State) (c w p e : Nat) (ph : Carry) (h : Harm) (ins : Instr) (sel : Nat → Bool) (checks : Core → Nat → List (Bool × Nat)),
    let u := s.suffer h
    let k := u.core c
    let atm := fun (n w : Nat) => fOpcode w == 0x42 && (atmOp w == n || decide (5 ≤ atmOp w))
    let atmChecks := fun (n : Nat) (k : Core) (w : Nat) =>
      (decide (5 ≤ atmOp w), 0x0100) :: (if n ≤ 1 then vectorChecks u k w else scalarAtmChecks u k w)
    let waitChecks := fun (k : Core) (w : Nat) => (fImm w % 16 == 0, 0x0100) :: sclChecks k w
    let wpg := fun (n w : Nat) => fOpcode w == 0x12 && wOp w == n
    let op := fun (n w : Nat) => fOpcode w == n
    let scl := [(Instr.sclNop c h, 0x00), (.sclEnd c h, 0x01), (.sclLi c h, 0x02), (.sclAdd c h, 0x03), (.sclSub c h, 0x04), (.sclAnd c h, 0x05), (.sclOr c h, 0x06),
      (.sclXor c h, 0x07), (.sclShl c h, 0x08), (.sclShr c h, 0x09), (.sclSra c h, 0x0A), (.sclMul c h, 0x0B), (.sclSlt c h, 0x0C), (.sclSltu c h, 0x0D),
      (.sclRdreg c h, 0x12), (.sclWaitb c h, 0x21), (.sclFence c h, 0x22)]
    let jumps := [(Instr.sclBeq c h, 0x18), (.sclBne c h, 0x19), (.sclBlt c h, 0x1A), (.sclBge c h, 0x1B), (.sclBltu c h, 0x1C), (.sclJmp c h, 0x1D)]
    let rows := scl.map (fun x => (x.1, sclSel x.2, sclChecks)) ++ jumps.map (fun x => (x.1, sclSel x.2, branchChecks)) ++
      [(Instr.sclLdn c h, sclSel 0x10, narrowChecks), (.sclStn c h, sclSel 0x11, narrowChecks), (.sclWait c h, sclSel 0x20, waitChecks),
       (.mvm c h, op 0x10, productChecks), (.mvt c h, op 0x11, productChecks), (.wpgLoad c h, wpg 0, wpgChecks), (.wpgFold c h, wpg 1, wpgChecks),
       (.wpgCopy c h, wpg 2, wpgChecks), (.wpgErase c h, wpg 3, wpgChecks), (.swp c h, op 0x13, swpChecks), (.skt c h, op 0x20, sktChecks),
       (.dma c h, op 0x30, dmaChecks), (.halSend c h, fun w => fOpcode w == 0x31 && field w 96 96 == 0, halChecks),
       (.halReceive c h, fun w => fOpcode w == 0x31 && field w 96 96 == 1, halChecks), (.fil c ph h, op 0x40, filChecks u),
       (.cpy c ph h, op 0x41, cpyChecks u), (.vectorAddInt32 c ph h, atm 0, atmChecks 0), (.vectorAddFp32 c ph h, atm 1, atmChecks 1),
       (.scalarAddInt32 c ph h, atm 2, atmChecks 2), (.swap32 c ph h, atm 3, atmChecks 3), (.swap64 c ph h, atm 4, atmChecks 4),
       (.clm c ph h, op 0x51, clmChecks u), (.bar c h, op 0x50, barChecks)]
    (ins, sel, checks) ∈ rows → ph ≠ .perform → coreOk c = true → u.issuing c = true → k.part = some p →
      ((u.fetch c = .error e ∨ (u.fetch c = .ok w ∧ insDefined w = false ∧ e = 0x0101) ∨
          (u.fetch c = .ok w ∧ insDefined w = true ∧ sel w = true ∧ firstOf ((fGuard w == 3, 0x0100) :: checks k w) = some e)) →
          ∃ t f, exec ins s = .next t ∧ (t.part p).faults = (u.part p).faults ++ [f] ∧ f.status = statusOf e ∧ f.pc = k.pc ∧ t.issuing c = false ∧ t.mem = u.mem ∧
          t.macros = u.macros ∧ (∀ d, d ≠ c → t.core d = u.core d) ∧
          t.core c = { k with state := 6, faultValid := true, faultPc := if k.faultValid then k.faultPc else k.pc % 2 ^ 15,
                              faultStatus := if k.faultValid then k.faultStatus else statusOf e }) ∧
      (u.fetch c = .ok w → insDefined w = true → sel w = true → firstOf ((fGuard w == 3, 0x0100) :: checks k w) = Option.none → guardSkips k w = true →
        k.maySignal (fSig w) → exec ins s = .next { u.setCore c (k.issued.signalled (fSig w)) with harm := s.harm })

/-! ### Barriers, and what the sequencer hands on (R117, R138 to R140, R219) -/

/-- R140: a core's arrival at a barrier that not all its participants have reached, and that some of them can still reach, leaves the core
waiting, on the list of those arrived, and contradicts nothing that gathers. R140: the arrival of the last participant releases all of them in
that tick. R140: the participants are the job's cores, on the core's logical die for scope 0; `BAR` waits while an earlier instruction of its
core has not completed; and where every participant not yet arrived has executed `END`, at an arrival or by that `END`, the job faults with
0x0108. R140: an arrival whose identifier or scope contradicts a barrier that gathers faults the job with 0x0108. Where the spec leaves a point
open, the reading is the model's, of log entry 97. -/
def Obligations.BarrierCompletes : Prop :=
  (∀ (s : State) (c w p : Nat) (h : Harm),
    let u := s.suffer h
    let k := u.core c
    let key := barKey (field w 98 98) k.dieLog
    let id := field w 97 95
    let arrived := (u.gathering p key).2 ++ [c]
    let who := (u.advance c).participants p (if key = 16 then 1 else 0) key
    Issues u c w (fun w => fOpcode w == 0x50) barChecks (untilQuiet c) → k.part = some p → k.dieLog < 16 →
      u.barrierClash p k.dieLog (field w 98 98) id = false →
      (∃ d ∈ who, d ∉ arrived ∧ d ≠ c ∧ (u.core d).ended = false) →
        ∃ t, exec (.bar c h) s = .next t ∧ t = { u with cores := t.cores, parts := t.parts, harm := s.harm } ∧
          t.core c = { k with pc := k.pc + 1, state := 5 } ∧ t.gathering p key = (id, arrived) ∧ (∀ d, d ≠ c → t.core d = u.core d) ∧
          (∀ q, q ≠ p → t.part q = u.part q) ∧ t.part p = { u.part p with barriers := (t.part p).barriers }) ∧
  (∀ (s : State) (c w p : Nat) (h : Harm),
    let u := s.suffer h
    let k := u.core c
    let key := barKey (field w 98 98) k.dieLog
    let arrived := (u.gathering p key).2 ++ [c]
    Issues u c w (fun w => fOpcode w == 0x50) barChecks (untilQuiet c) → k.part = some p → k.dieLog < 16 →
      u.barrierClash p k.dieLog (field w 98 98) (field w 97 95) = false →
      (∀ d ∈ (u.advance c).participants p (if key = 16 then 1 else 0) key, d ∈ arrived) →
        ∃ t, exec (.bar c h) s = .next t ∧ (t.gathering p key).2 = [] ∧ t.core c = { k with pc := k.pc + 1, state := 1 } ∧
          (∀ d ∈ arrived, d ≠ c → t.core d = { u.core d with state := 1 }) ∧ (∀ d, d ∉ arrived → t.core d = u.core d) ∧
          (∀ q, q ≠ p → t.part q = u.part q) ∧ (u.cached p = false → t.mem = u.mem)) ∧
  (∀ (s : State) (c w p : Nat) (h : Harm) (j : Job),
    let u := s.suffer h
    let k := u.core c
    let key := barKey (field w 98 98) k.dieLog
    let who := u.participants p (if key = 16 then 1 else 0) key
    k.part = some p → (u.part p).job = some j → k.dieLog < 16 → (∀ d ∈ (u.gathering p key).2, (u.core d).part = some p) →
      (∀ d ∈ (u.gathering p k.dieLog).2, (u.core d).part = some p) →
      (∀ d, d ∈ who ↔ d ∈ j.cores ∧ (key = 16 ∨ (u.core d).dieLog = k.dieLog)) ∧
      (Issues u c w (fun w => fOpcode w == 0x50) barChecks freely → u.quiet c = false →
        exec (.bar c h) s = .next { u.setCore c { k with state := 4 } with harm := s.harm }) ∧
      (Issues u c w (fun w => fOpcode w == 0x50) barChecks (untilQuiet c) → u.barrierClash p k.dieLog (field w 98 98) (field w 97 95) = false →
        (∀ d ∈ who, d ∈ (u.gathering p key).2 ∨ d = c ∨ (u.core d).ended = true) → (∃ d ∈ who, d ∉ (u.gathering p key).2 ∧ d ≠ c) →
          ∃ t f, exec (.bar c h) s = .next t ∧ (t.part p).faults = (u.part p).faults ++ [f] ∧ f.status = 0x0108 ∧ f.unit = 1 ∧ t.mem = u.mem) ∧
      (Issues u c w (sclSel 0x01) sclChecks freely → c ∉ (u.gathering p k.dieLog).2 → (u.gathering p k.dieLog).2 ≠ [] → (u.gathering p 16).2 = [] →
        c ∈ u.participants p 0 k.dieLog →
        (∀ d ∈ u.participants p 0 k.dieLog, d ∈ (u.gathering p k.dieLog).2 ∨ d = c ∨ (u.core d).ended = true) →
          ∃ t f, exec (.sclEnd c h) s = .next t ∧ (t.part p).faults = (u.part p).faults ++ [f] ∧ f.status = 0x0108 ∧ f.unit = 1 ∧ t.mem = u.mem)) ∧
  (∀ (s : State) (c w p : Nat) (h : Harm),
    let u := s.suffer h
    Issues u c w (fun w => fOpcode w == 0x50) barChecks (untilQuiet c) → (u.core c).part = some p →
    u.barrierClash p (u.core c).dieLog (field w 98 98) (field w 97 95) = true →
      ∃ t f, exec (.bar c h) s = .next t ∧ (t.part p).faults = (u.part p).faults ++ [f] ∧ f.status = 0x0108 ∧ f.unit = 1 ∧ f.pc = (u.core c).pc ∧
        t.mem = u.mem)

/-- R138, R117: `DMA` joins the core's queue of `DMA` operations, of at most eight, its handle and effective offset resolved at issue; with no
descriptors it completes at once; with the queue full it stays in the sequencer. R219, R223: a sound descriptor becomes at once a tile at the end
of its engine's queue of sixteen; one of no rows, columns or products completes at once; while the engine's queue is full the unit holds the
tile; and behind a held one the next waits, not yet read. A descriptor that breaks a rule of Table 7.6 is refused with the status of the first.
Where the spec leaves a point open, the reading is the model's, of log entry 13. -/
def Obligations.HandedOnCompletes : Prop :=
  (∀ (s : State) (c w : Nat) (h : Harm),
    let u := s.suffer h
    let k := u.core c
    let goes := fun (k : Core) => exec (.dma c h) s = .next { u.setCore c k with harm := s.harm }
    Issues u c w (fun w => fOpcode w == 0x30) dmaChecks freely →
      (k.dmaQ.length < 8 → field w 74 67 ≠ 0 →
        goes { k.issued with dmaQ := k.dmaQ ++
          [{ desc := { h := k.cfg.handle (field w 98 93), off := dmaOff k w }, ndesc := field w 74 67, next := 0, greg := (k.reg (fGreg w)).toNat,
             sig := fSig w, pc := k.pc }] }) ∧
      (field w 74 67 = 0 → k.maySignal (fSig w) → goes (k.issued.signalled (fSig w))) ∧
      (8 ≤ k.dmaQ.length → field w 74 67 ≠ 0 → goes { k with state := 1 })) ∧
  (∀ (s : State) (c w p e : Nat) (h : Harm) (b : List Byte),
    let u := s.suffer h
    let k := u.core c
    let o : SktOp := { eng := field w 98 94, desc := { h := k.cfg.handle (field w 93 88), off := sktOff k w }, sig := fSig w, pc := k.pc, tile := none }
    let t := tileOf c p k b (fSig w) k.pc
    let checks := tileChecks u k p o.eng b t
    let goes := fun (v : State) => exec (.skt c h) s = .next { v with harm := s.harm }
    Issues u c w (fun w => fOpcode w == 0x20) sktChecks freely → k.part = some p →
      (k.sktQ = [] → u.readOp c o.desc 64 = .ok (b, u) →
        (∀ st, firstOf checks = some st → st < 2 ^ 16 → k.faultValid = false →
          ∃ v f, exec (.skt c h) s = .next v ∧ (v.part p).faults = (u.part p).faults ++ [f] ∧ f.status = st ∧ f.pc = k.pc ∧ v.skinks = u.skinks ∧
            v.core c = { k.issued with state := 6, sktQ := [], faultValid := true, faultPc := k.pc % 2 ^ 15, faultStatus := st }) ∧
        (firstOf checks = none → t.isEmpty = true → k.maySignal (fSig w) → goes (u.setCore c { (k.issued.signalled (fSig w)) with sktQ := [] })) ∧
        (firstOf checks = none → t.isEmpty = false → u.boundSkink p o.eng = some e → (u.skink e).queue.length < 16 →
          goes ((u.setCore c { k.issued with sktQ := [], sktOut := k.sktOut + 1 }).setSkink e { u.skink e with queue := (u.skink e).queue ++ [t] })) ∧
        (firstOf checks = none → t.isEmpty = false → u.boundSkink p o.eng = some e → 16 ≤ (u.skink e).queue.length →
          goes (u.setCore c { k.issued with sktQ := [{ o with tile := some t }] }))) ∧
      (∀ x rest held, k.sktQ = x :: rest → k.sktQ.length < 4 → x.tile = some held → held.isEmpty = false → u.boundSkink p x.eng = some e →
        16 ≤ (u.skink e).queue.length → goes (u.setCore c { k.issued with sktQ := k.sktQ ++ [o] })) ∧
      (4 ≤ k.sktQ.length → goes (u.setCore c { k with state := 1 })))

/-- R25, R139: a send waits until its neighbour receives, and a receive until its neighbour sends; of no bytes either completes at once. R25,
R139, R147: where a send meets a receive of its neighbour, the bytes that both have left pass from the one's place to the other's, and no other
byte changes; what is done completes, each on its own core, and the rest waits for more. -/
def Obligations.HaloCompletes : Prop :=
  (∀ (s : State) (c w n : Nat) (h : Harm),
    let u := s.suffer h
    let k := u.core c
    let dir := halDir w
    let op := halOp k.issued w
    let put := fun (m : Map (List HaloOp)) => mset m [] dir (mget m [] dir ++ [op])
    let sends := Issues u c w (fun w => fOpcode w == 0x31 && field w 96 96 == 0) halChecks freely ∧ (halLen w = 0 ∨ (mget k.haloTx [] dir).length < 4)
    let receives := Issues u c w (fun w => fOpcode w == 0x31 && field w 96 96 == 1) halChecks freely ∧ (halLen w = 0 ∨ (mget k.haloRx [] dir).length < 4)
    (halLen w = 0 → k.maySignal (fSig w) →
      (sends → exec (.halSend c h) s = .next { u.setCore c (k.issued.signalled (fSig w)) with harm := s.harm }) ∧
      (receives → exec (.halReceive c h) s = .next { u.setCore c (k.issued.signalled (fSig w)) with harm := s.harm })) ∧
    (halLen w ≠ 0 → u.neighbour c dir = some n → n ≠ c → u.neighbour n ((dir + 2) % 4) = some c →
      (sends → mget (u.core n).haloRx [] ((dir + 2) % 4) = [] →
        exec (.halSend c h) s = .next { u.setCore c { k.issued with haloTx := put k.haloTx } with harm := s.harm }) ∧
      (receives → mget (u.core n).haloTx [] ((dir + 2) % 4) = [] →
        exec (.halReceive c h) s = .next { u.setCore c { k.issued with haloRx := put k.haloRx } with harm := s.harm }))) ∧
  (∀ (s : State) (c w n : Nat) (h : Harm) (ins : Instr) (a z : Nat) (x y : HaloOp) (src dst : List (Nat × Nat)),
    let u := s.suffer h
    let dir := halDir w
    let back := (dir + 2) % 4
    let own := halOp (u.core c).issued w
    let len := min x.left y.left
    let moved := fun (o : HaloOp) => ({ o with left := o.left - len, done := o.done + len } : HaloOp)
    let ends := fun (k : Core) (o : HaloOp) => if o.left = len then k.signalled o.sig else k
    let tx := if a = c then dir else back
    let rx := if a = c then back else dir
    let ka := if a = c then (u.core c).issued else u.core a
    let kz := if z = c then (u.core c).issued else u.core z
    let rest := fun (o : HaloOp) => if o.left = len then [] else [moved o]
    coreOk c = true → Calm h → halLen w ≠ 0 → u.neighbour c dir = some n → n ≠ c → u.neighbour n back = some c → u.routeDown (coreDie a) (coreDie z) = false →
      ((ins = .halSend c h ∧ a = c ∧ z = n ∧ Issues u c w (fun w => fOpcode w == 0x31 && field w 96 96 == 0) halChecks freely ∧
          mget (u.core c).haloTx [] dir = [] ∧ mget (u.core n).haloRx [] back = [y] ∧ x = own) ∨
        (ins = .halReceive c h ∧ a = n ∧ z = c ∧ Issues u c w (fun w => fOpcode w == 0x31 && field w 96 96 == 1) halChecks freely ∧
          mget (u.core n).haloTx [] back = [x] ∧ mget (u.core c).haloRx [] dir = [] ∧ y = own)) →
      0 < len → u.extents a { x.loc with off := (x.loc.off + x.done) % 2 ^ 32 } len rRD = .ok src → Readable u.mem src → Uncached u a x.loc →
      u.extents z { y.loc with off := (y.loc.off + y.done) % 2 ^ 32 } len rWR = .ok dst → Writable u.mem dst →
      ka.maySignal x.sig → kz.maySignal y.sig →
        ∃ t, exec ins s = .next t ∧ Stored u.mem t.mem dst (bytesAt u.mem src) ∧
          t.core a = ends { ka with haloTx := mset ka.haloTx [] tx (rest x) } x ∧
          t.core z = ends { kz with haloRx := mset kz.haloRx [] rx (rest y) } y ∧
          (∀ i, i ≠ a → i ≠ z → t.core i = s.core i) ∧ t.macros = s.macros ∧ t.skinks = s.skinks)

/-! ### Products and pages (R36, R41 to R57, R74 to R93, R102 to R105, R151 to R168) -/

/-- R56, R57, R105, R117, R122, R129, R133, R134, R148: `MVM` and `MVT` join the queue of the macro they name, of at most four, the head blocks
they will use counted busy, and issue goes on. Behind an entry that waits they wait; at an idle macro they begin, complete at once when `K` is 0,
or are refused with the first status that R56 or R105 gives. Where the spec leaves a point open, the reading is the model's, of log entries 9 and
93. -/
def Obligations.ProductsIssue : Prop :=
  ∀ (s : State) (c w op : Nat) (rev : Bool) (h : Harm) (ins : Instr),
    let u := s.suffer h
    let k := u.core c
    let j := u.macroOf c (pMacro w)
    let m := u.mac j
    let i := productIns rev m k.issued w
    let q := m.joined (.product i)
    let go : Core := { k.issued with busy := i.blocks.foldl (fun m b => mset m 0 b (mget m 0 b + 1)) k.busy }
    (ins, op, rev) ∈ [(Instr.mvm c h, 0x10, false), (.mvt c h, 0x11, true)] → Issues u c w (fun w => fOpcode w == op) productChecks freely →
      (4 ≤ m.queue.length → exec ins s = .next { u.setCore c { k with state := 1 } with harm := s.harm }) ∧
      (m.queue.length < 4 → q.waits = true → exec ins s = .next { (u.setCore c go).setMac j q with harm := s.harm }) ∧
      (m.queue = [] → q.waits = false →
        (productRefusal m i = none → i.k ≠ 0 → exec ins s = .next { (u.setCore c go).setMac j q.begun with harm := s.harm }) ∧
        (productRefusal m i = none → i.k = 0 → k.maySignal i.sig →
          ∃ t, exec ins s = .next t ∧ t = { u with cores := t.cores, macros := t.macros, harm := s.harm } ∧ (∀ x, t.mac x = u.mac x) ∧ (∀ d, d ≠ c → t.core d = u.core d) ∧
            t.core c = { (k.issued.signalled i.sig) with busy := (t.core c).busy } ∧ ∀ b, mget (t.core c).busy 0 b = mget k.busy 0 b) ∧
        (∀ e p, productRefusal m i = some e → k.part = some p → ∃ t, exec ins s = .next t ∧ MacRefused u t c p j e k.pc)) ∧
      i.rev = rev ∧ i.page = field w 94 89 ∧ i.ifmt = field w 88 86 ∧ i.k = field w 85 76 ∧ i.pc = k.pc ∧ i.sig = fSig w

/-- R76 to R80, R82, R85, R117, R136: the `WPG` operations join the queue of the macro they name. At an idle macro whose banks are free a sound
segment is taken and its rows begin to be written, `VALID` or the shadow state cleared by a first one; one of no rows completes at once; and one
that R76 to R80 refuse faults the job with the first finding, which `MAC_LOAD_REJECT` keeps with its page, row and lane where it has a 0x02xx
status. R92, R93, R117, R137: `SWP` puts an entry in the queue of every macro it names and waits for their answers; naming none it completes at
once. Where all are idle and accept, all are armed and it completes; otherwise none is, and the job faults with the refusal of the
lowest-numbered macro. R79, R85, R89: a page operation that is taken clears what its first segment must: `VALID` of a page of a non-rewritable
macro, or the shadow state `NONE`, before any row is written; the cells are as they were. Where the spec leaves a point open, the reading is the
model's, of log entries 83 and 84. -/
def Obligations.PageOperationsIssue : Prop :=
  (∀ (s : State) (c w op : Nat) (h : Harm) (ins : Instr) (bs : List Byte) (ext : List (Nat × Nat)),
    let u := s.suffer h
    let k := u.core c
    let j := u.macroOf c (wMacro w)
    let m := u.mac j
    let i := wpgIns k.issued w
    let q := m.joined (.wpg i)
    let refused := fun (p e : Nat) => ∃ t, exec ins s = .next t ∧ MacRefused u t c p j e k.pc
    let rejected := fun (p e row lane : Nat) => ∃ t, exec ins s = .next t ∧ MacRefused u t c p j e k.pc ∧ (t.mac j).stats.rejValid = true ∧
      (t.mac j).stats.rejPage = i.page % 64 ∧ (t.mac j).stats.rejRow = row % 512 ∧ (t.mac j).stats.rejLane = lane % 256 ∧
      (t.mac j).stats.rejDetail = e % 256
    let sound := wpgEntry q i = none ∧ (i.nrows ≠ 0 ∨ op = 3)
    let clamped : Macro := { q with stats := { q.stats with clamps := min 0xFFFF (q.stats.clamps + segClamps q i bs) } }
    let scan := scanRows clamped i (i.liveRows q) bs (i.perRow clamped * i.row0) (List.range (i.perRow clamped * i.nrows)) (List.replicate 256 0)
    (ins, op) ∈ [(Instr.wpgLoad c h, 0), (.wpgFold c h, 1), (.wpgCopy c h, 2), (.wpgErase c h, 3)] →
      Issues u c w (fun w => fOpcode w == 0x12 && wOp w == op) wpgChecks freely →
        (4 ≤ m.queue.length → exec ins s = .next { u.setCore c { k with state := 1 } with harm := s.harm }) ∧
        (m.queue.length < 4 → q.waits = true → exec ins s = .next { (u.setCore c k.issued).setMac j q with harm := s.harm }) ∧
        (m.queue = [] → q.waits = false →
          (∀ e p, wpgEntry q i = some e → k.part = some p → (e = 0x0206 → rejected p e i.row0 0) ∧ (e ≠ 0x0206 → refused p e)) ∧
          (wpgEntry q i = none → i.nrows = 0 → op ≠ 3 → k.maySignal i.sig →
            ∃ t, exec ins s = .next t ∧ OnlyCore c { u with macros := t.macros, harm := s.harm } t ∧ (∀ x, t.mac x = u.mac x) ∧ t.core c = k.issued.signalled i.sig) ∧
          (sound → op = 3 → exec ins s = .next { (u.setCore c k.issued).setMac j (q.takeWpg i [] s.hub.tick) with harm := s.harm }) ∧
          (sound → op ≠ 3 → badSegment q i = true → ∀ p, k.part = some p → rejected p 0x0206 i.row0 0) ∧
          (sound → op ≠ 3 → badSegment q i = false → Calm h → u.extents c i.src (i.rowBytes q * i.nrows) rRD = .ok ext → Readable u.mem ext →
            bs = bytesAt u.mem ext →
              (scan = none → exec ins s = .next { (u.setCore c k.issued).setMac j (clamped.takeWpg i [] s.hub.tick) with harm := s.harm }) ∧
              ∀ p f, k.part = some p → scan = some f → rejected p f.status f.row f.lane)) ∧
        i.op = op ∧ i.page = field w 94 89 ∧ i.row0 = field w 79 72 ∧ i.nrows = field w 71 63 ∧ i.pc = k.pc ∧ i.sig = fSig w) ∧
  (∀ (s : State) (c w : Nat) (h : Harm),
    let u := s.suffer h
    let k := u.core c
    let ns := maskBits (field w 98 83)
    let at' := u.macroOf c
    let named := fun (x : Nat) => ∃ n ∈ ns, at' n = x
    let o : SwpOp := { mask := field w 98 83, answers := [], sig := fSig w, pc := k.pc }
    Issues u c w (fun w => fOpcode w == 0x13) swpChecks freely → (∀ n ∈ ns, ∀ n' ∈ ns, at' n = at' n' → n = n') →
      (field w 98 83 = 0 → k.maySignal (fSig w) → exec (.swp c h) s = .next { u.setCore c (k.issued.signalled (fSig w)) with harm := s.harm }) ∧
      ((∃ n ∈ ns, 4 ≤ (u.mac (at' n)).queue.length) → exec (.swp c h) s = .next { u.setCore c { k with state := 1 } with harm := s.harm }) ∧
      (ns ≠ [] → (∀ n ∈ ns, (u.mac (at' n)).queue.length < 4 ∧ ((u.mac (at' n)).joined (.swp k.pc)).waits = true) →
        ∃ t, exec (.swp c h) s = .next t ∧ OnlyCore c { u with macros := t.macros, harm := s.harm } t ∧ t.core c = { k.issued with swps := k.swps ++ [o] } ∧
          ∀ x, (named x → t.mac x = (u.mac x).joined (.swp k.pc)) ∧ (¬named x → t.mac x = u.mac x)) ∧
      (ns ≠ [] → k.swps = [] → (∀ n ∈ ns, (u.mac (at' n)).queue = [] ∧ ((u.mac (at' n)).joined (.swp k.pc)).waits = false) →
        ((∀ n ∈ ns, swpRefusal (u.mac (at' n)) = none) → k.maySignal (fSig w) →
          ∃ t, exec (.swp c h) s = .next t ∧ OnlyCore c { u with macros := t.macros, harm := s.harm } t ∧ t.core c = k.issued.signalled (fSig w) ∧
            ∀ x, (named x → t.mac x = { u.mac x with armed := true }) ∧ (¬named x → t.mac x = u.mac x)) ∧
        ∀ p n e, k.part = some p → ns.find? (fun n => (swpRefusal (u.mac (at' n))).isSome) = some n → swpRefusal (u.mac (at' n)) = some e →
          ∃ t f, exec (.swp c h) s = .next t ∧ (t.part p).faults = (u.part p).faults ++ [f] ∧ f.status = e ∧ f.unit = 2 ∧ f.pc = k.pc ∧
            (t.core c).state = 6 ∧ (t.core c).swps = [] ∧ (∀ x, (t.mac x).armed = (u.mac x).armed) ∧ t.mem = u.mem)) ∧
  (∀ (m : Macro) (i : WpgIns) (tick : Nat), i.op = 0 → i.first = true → m.cfg.rewritable = false →
    let t := m.takeWpg i [] tick
    (t.page i.page).valid = false ∧ (t.page i.page).wfmt = i.wfmt ∧ (t.page i.page).cells = (m.page i.page).cells ∧ t.queue = [] ∧
      (∀ j, j ≠ i.page → t.page j = m.page j) ∧ t.writing = m.writing ++ [{ ins := i, op := i.start m false, no := m.order, live := [] }])

/-- R36, R57, R83, R152: the product at work has its page made active (`PAGE_SWITCH`), takes its preload from the entries at `OUT` with its
chain's shift 0 (`PRELOAD`), and starts with its input, its accumulators cleared for `INIT` 0 and kept otherwise (`PRODUCT_START`). -/
def Obligations.ProductBegins : Prop :=
  (∀ (s : State) (c n k : Nat) (m : Macro) (i : ProductIns) (r : Run), Works s c n k m i r → r.started = false →
    exec (.pageSwitch c n) s = .next (if m.active = m.livePage i.page then s else (s.setMac k { m with active := m.livePage i.page }).tallyCore c 2 1)) ∧
  (∀ (s : State) (c n k : Nat) (h : Harm) (m : Macro) (i : ProductIns) (r : Run) (bs : List Byte),
    let u := s.suffer h
    Works u c n k m i r → r.started = false → Calm h →
    (i.init = 1 → r.preloaded = false → u.readOp c i.out (4 * r.nout) = .ok (bs, u) →
      ∃ t, exec (.preload c n h) s = .next t ∧ OnlyMacro k { u with harm := s.harm } t ∧
        t.mac k = { m with run := some { r with preloaded := true }, acc := (t.mac k).acc, sigma := 0 } ∧
        ∀ o, o < r.nout → mget (t.mac k).acc 0 o = s32 (leNat ((bs.drop (4 * o)).take 4))) ∧
    (let el := if !i.rev && (m.page m.active).sparse24 then 512 else 256
     m.active = m.livePage i.page → (i.init = 1 → r.preloaded = true) → m.blocked = false → u.readOp c i.inp (el * ifmtBits i.ifmt / 8) = .ok (bs, u) →
      exec (.productStart c n h) s = .next { u.setMac k
        { m with run := some { r with x := unpackInput i.ifmt el bs, started := true }, acc := if i.init = 0 then [] else m.acc,
                 sigma := if i.init = 0 then 0 else m.sigma, entry := if i.init = 0 then [] else m.acc } with harm := s.harm }))

/-- R44 to R46, R51, R52, R61, R72, R102, R157, R429, R430: a step senses its group and restores its rows. Where its check passes, its sums,
shifted to their plane, enter the accumulators and the product goes to its next group or plane; an addition that overflows halves the entry copy,
raises σ and starts the product anew, or faults with 0x0115; one whose residue disagrees faults with 0x0303. Where it fails, as where an addition
overflows, the successor already issued is discarded, its rows restored too, and the repeat is due. A reverse step counts as four. R46, R52 to
R54, R61, R72: the repeat of a failed step counts, and counts itself; passing, it lets the product go on, and failing, it makes the
check-triggered scrub due, or, on a page scrubbed in this product, sets `PERSIST` and faults with 0x0301. The scrub of a page whose codewords
hold no wrong bit writes its check words anew from the weights and issues the step again; one that meets three wrong bits in a codeword loses its
page, with 0x0302. Where the spec leaves a point open, the reading is the model's, of log entries 9 and 86. -/
def Obligations.StepsComplete : Prop :=
  (∀ (s : State) (c n k p : Nat) (h : Harm) (m : Macro) (i : ProductIns) (r : Run) (ds : List Disturb) (ins : Instr) (rev : Bool),
    let u := s.suffer h
    let sn := senseStep m i r ds
    let span := if rev then 4 else 1
    let last := lastStep i r (stepGroups m i r).length
    let here := sensedRows i (stepGroup m i r)
    let ahead := sensedRows i (nextGroup m i r)
    let neg := ifmtSigned i.ifmt && r.plane + 1 == ifmtBits i.ifmt
    let sum := accumulate m.acc neg r.plane (combine ((m.page m.active).wfmt == 1) i.rev sn.vals)
    let issued := fun (rows : List Nat) (m : Macro) =>
      { (m.updPage m.active fun p => p.restore rows).useBank (decide (32 ≤ m.active)) s.hub.tick with
          stats := { m.stats with steps := m.stats.steps + span } }
    let counted := fun (rows : List Nat) (v : State) => (v.tallyCore c 0 span).tallyCore c 1 rows.length
    let once := issued here m
    let both := if last then once else issued ahead once
    let tallied := if sn.pass || last then counted here u else counted ahead (counted here u)
    let goes := fun (m' : Macro) => exec ins s = .next { tallied.setMac k m' with harm := s.harm }
    let faults := fun (e : Nat) => ∃ t f, exec ins s = .next t ∧ (t.part p).faults = (u.part p).faults ++ [f] ∧ f.status = e ∧ f.unit = 2 ∧
      f.pc = i.pc ∧ (t.mac k).queue = [] ∧ (t.mac k).run = none
    (ins, rev) ∈ [(Instr.macroStep c n ds h, false), (.reverseStep c n ds h, true)] → Works u c n k m i r → i.rev = rev → r.started = true →
      r.finished = false → r.fail = 0 → m.blocked = false → (u.core c).part = some p →
        (u.paused c m = true → exec ins s = .next { u with harm := s.harm }) ∧ (u.paused c m = false →
        (∀ a, sn.pass = true → sum = some a →
          (h.err = none → goes { once with run := some (r.next (stepGroups m i r).length (ifmtBits i.ifmt)), acc := a }) ∧
          ∀ o d, h.err = some (o, d) → d % 7 ≠ 0 → faults 0x0303) ∧
        (sn.pass = true → sum = none →
          ((u.part p).policy ≠ 1 → m.sigma ≠ 31 → h.err = none →
            ∃ t, exec ins s = .next t ∧
              t.mac k = { both with
                run := some { r with plane := 0, pos := 0, fail := 0, gap := false }, entry := halve m.entry, acc := halve m.entry, sigma := m.sigma + 1,
                stats := { both.stats with rescales := min 0xFFFF (m.stats.rescales + 1) } } ∧
              (∀ x, x ≠ k → t.mac x = u.mac x) ∧ (∀ g, (u.part p).job = some g → (t.part p).job = some { g with rescaled := true }) ∧
              mget (t.part p).counters 0 cRepeats = min 0xFFFFFFFF (mget (u.part p).counters 0 cRepeats + 1)) ∧
          ((u.part p).policy = 1 ∨ m.sigma = 31 → faults 0x0115)) ∧
        (sn.pass = false → goes { both with run := some { r with fail := 1, gap := false } }))) ∧
  (∀ (s : State) (c n k p : Nat) (h : Harm) (m : Macro) (i : ProductIns) (r : Run) (ds : List Disturb),
    let u := s.suffer h
    let issued := fun (rows : List Nat) (m : Macro) =>
      { (m.updPage m.active fun p => p.restore rows).useBank (decide (32 ≤ m.active)) s.hub.tick with
          stats := { m.stats with steps := m.stats.steps + stepSpan i } }
    let repeated := fun (m : Macro) => { m with stats := { m.stats with repeats := min 0xFFFF (m.stats.repeats + 1) } }
    let once := fun (m : Macro) (r : Run) => issued (sensedRows i (stepGroup m i r)) (repeated m)
    let both := fun (m : Macro) (r : Run) =>
      if lastStep i r (stepGroups m i r).length then once m r else issued (sensedRows i (nextGroup m i r)) (once m r)
    let sum := fun (m : Macro) (r : Run) => accumulate m.acc (ifmtSigned i.ifmt && r.plane + 1 == ifmtBits i.ifmt) r.plane
      (combine ((m.page m.active).wfmt == 1) i.rev (senseStep m i r ds).vals)
    let goes := fun (ins : Instr) (mac : Macro) => ∃ t, exec ins s = .next t ∧ t = { u with macros := t.macros, power := t.power, harm := s.harm } ∧
      t.mac k = mac ∧ ∀ x, x ≠ k → t.mac x = u.mac x
    let faults := fun (ins : Instr) (e : Nat) (page : Macro → Prop) => ∃ t f, exec ins s = .next t ∧ (t.part p).faults = (u.part p).faults ++ [f] ∧
      f.status = e ∧ f.unit = 2 ∧ f.pc = i.pc ∧ (t.mac k).queue = [] ∧ (t.mac k).run = none ∧ page (t.mac k)
    let page := ((m.page m.active).restore (List.range 257)).recheck
    let m2 := { m.updPage m.active fun _ => page with
      run := some { r with scrubbed := true }, stats := { m.stats with scrubs := min 255 (m.stats.scrubs + 1) } }
    let r2 := { r with scrubbed := true }
    h.err = none → Works u c n k m i r → m.blocked = false → (u.core c).part = some p →
      (r.fail = 1 →
        (∀ a, (senseStep m i r ds).pass = true → sum m r = some a →
          goes (.repeatStep c n ds h) { once m r with run := some (r.next (stepGroups m i r).length (ifmtBits i.ifmt)), acc := a }) ∧
        ((senseStep m i r ds).pass = false → r.scrubbed = false →
          goes (.repeatStep c n ds h) { both m r with run := some { r with fail := 2, gap := false } }) ∧
        ((senseStep m i r ds).pass = false → r.scrubbed = true →
          faults (.repeatStep c n ds h) 0x0301 fun x => x.stats.persist = true ∧ x.testPage = some m.active)) ∧
      (r.fail = 2 → (m.page m.active).suspects = [] →
        (∀ a, (senseStep m2 i r2 ds).pass = true → sum m2 r2 = some a →
          goes (.checkTriggeredScrub c n [] ds h) { once m2 r2 with run := some (r2.next (stepGroups m2 i r2).length (ifmtBits i.ifmt)), acc := a }) ∧
        ((senseStep m2 i r2 ds).pass = false →
          faults (.checkTriggeredScrub c n [] ds h) 0x0301 fun x => x.stats.persist = true ∧ x.testPage = some m.active)) ∧
      (∀ row word, r.fail = 2 → row < 256 → word < 5 → (∀ e ∈ (m.page m.active).errs, e.row = row ∧ e.word = word) → (m.page m.active).errs.length = 3 →
        faults (.checkTriggeredScrub c n [] ds h) 0x0302 fun x =>
          (x.page m.active).valid = false ∧ (x.page m.active).lost = true ∧ x.stats.uncorr = true))

/-- R57, R117, R135: a finished product leaves the queue, those before it complete: for the drain buffer, once that is free, with its
accumulators as they stand, or, without a drain, completing; the next product begins if it need not wait, and the queries that waited for the
macro go on. R134, R135, R160, R165 to R168, R429: a drain stores its product's outputs at `OUT`, as 32-bit entries or requantised and packed by
its record, and no other byte changes; its instruction completes, its head blocks are released, and the drain buffer is free. A record that R168
refuses faults with 0x0117. Where the spec leaves a point open, the reading is the model's, of log entry 86. -/
def Obligations.ProductCompletes : Prop :=
  (∀ (s : State) (c n k : Nat) (m : Macro) (i : ProductIns) (r : Run), Works s c n k m i r → r.finished = true →
    let left : Macro := { m with queue := m.queue.drop 1, accepted := false, run := none }
    let held : Macro := { left with drainBuf := some { no := r.no, ins := i, acc := m.acc, sigma := m.sigma, nout := r.nout } }
    (i.drain ≠ 0 → m.drainBuf = none → held.settles →
      exec (.productComplete c n) s = .next (s.setMac k held.begun).settleQueries) ∧
    (i.drain = 0 → m.earlier r.no = false → left.settles → (s.core c).maySignal i.sig →
      exec (.productComplete c n) s = .next ((s.setCore c ((s.core c).completed i.blocks i.sig)).setMac k left.begun).settleQueries) ∧
    ((i.drain ≠ 0 ∧ m.drainBuf ≠ none) ∨ (i.drain = 0 ∧ m.earlier r.no = true) → exec (.productComplete c n) s = .next s.settleQueries)) ∧
  (∀ (s : State) (c n : Nat) (h : Harm) (d : DrainBuf) (ext : List (Nat × Nat)) (hdr ms : List Byte),
    let u := s.suffer h
    let k := u.macroOf c n
    let m := u.mac k
    let acc := (List.range d.nout).map fun o => mget d.acc 0 o
    let rq := rescaleOf hdr
    let out := if d.ins.drain = 1 then acc.flatMap fun a => leBytes 4 (u32 a)
      else packFmt rq.ofmt (List.zipWith (fun a x => requantise a d.sigma rq x) acc (multipliers rq d.nout ms))
    let free : Macro := { m with drainBuf := none, lastSigma := d.sigma }
    coreOk c = true → macroOk n = true → Calm h → m.drainBuf = some d → m.earlier d.no = false → free.settles → (u.core c).maySignal d.ins.sig →
      (d.ins.drain = 1 ∨ (u.readOp c d.ins.rq 64 = .ok (hdr, u) ∧
        u.readOp c { d.ins.rq with off := d.ins.rq.off + 64 } (if rq.perLane then 4 * d.nout else 0) = .ok (ms, u))) →
        ((d.ins.drain = 1 ∨ rq.sound = true) → u.extents c d.ins.out out.length rWR = .ok ext → Writable u.mem ext →
          ∃ t, exec (.drain c n h) s = .next t ∧ Stored u.mem t.mem ext out ∧ t.mac k = free.begun ∧ (∀ x, x ≠ k → t.mac x = s.mac x) ∧
            t.core c = (u.core c).completed d.ins.blocks d.ins.sig ∧ (∀ x, x ≠ c → t.core x = s.core x) ∧
            t = { u with mem := t.mem, cores := t.cores, macros := t.macros, parts := t.parts, harm := t.harm }) ∧
        (∀ p, d.ins.drain ≠ 1 → rq.sound = false → (u.core c).part = some p →
          ∃ t f, exec (.drain c n h) s = .next t ∧ (t.part p).faults = (u.part p).faults ++ [f] ∧ f.status = 0x0117 ∧ f.unit = 2 ∧ f.pc = d.ins.pc ∧
            (t.mac k).drainBuf = none ∧ t.mem = u.mem))

/-- R47, R49, R61, R75, R81, R82, R84, R85, R90, R111, R147: a row write writes one physical row of the pages that its segment targets, and only
them; the last of a segment starts the verify (`LAST`) or completes the instruction and leaves the operation open. A row of a dense
two's-complement load holds the source's weights. A row of an `ERASE` holds zeros, and with row 255 the page is erased and the instruction
completes. R74, R84, R85, R89, R98, R113: a verify that finds every page it reads sound, with its check words and the loader's CRC, makes them
valid, their generation one higher modulo 256, the shadow state as Table 3.5 gives it, and completes the instruction; one that finds another
residue or CRC refuses the page with 0x0207. Where the spec leaves a point open, the reading is the model's, of log entries 83 and 84. -/
def Obligations.PagesWritten : Prop :=
  (∀ (s : State) (c n k : Nat) (bank : Bool) (h : Harm) (m : Macro) (w : PageWrite) (bs : List Byte),
    let u := s.suffer h
    Writes u c n bank k m w → w.op.verifying = false → Calm h →
    let i := w.ins
    let o := w.op
    let ts := if i.op = 3 then m.targets 3 o.page false else m.targets i.op i.page o.both
    let ends := decide (o.next + 1 = i.row0 + i.nrows)
    let next := { o with next := o.next + 1, verifying := ends && i.last, crc := rowCrc m w bs, sums := addSums o.sums (writtenWords m i w.live bs o.next).1 }
    let wrote := ((ts.foldl (fun q t => q.updPage t (writeRow m w bs)) m).useBanks w s.hub.tick).setWrite w { w with op := next }
    let wiped := ((m.eraseRow o).useBanks w s.hub.tick).setWrite w { w with op := { o with next := o.next + 1 } }
    let open' := ({ wrote with opsOpen := m.opsOpen ++ [next] } : Macro).dropWrite w
    let erased := ({ wiped with
      shadow := if m.cfg.rewritable then mset m.shadow 0 i.page 0 else m.shadow, noRestore := m.noRestore.filter fun p => p % 32 != i.page % 32 } : Macro).dropWrite w
    let tallied := fun (v : State) => { v.tallyCore c 5 ts.length with harm := s.harm }
    let done' := fun (x : Macro) => tallied ((u.setCore c ((u.core c).signalled i.sig)).setMac k x)
    (i.op ≠ 3 → u.readOp c i.src (i.rowBytes m * i.nrows) = .ok (bs, u) →
      (ends = false → exec (.rowWrite c n bank h) s = .next (tallied (u.setMac k wrote))) ∧
      (ends = true → i.last = true → wrote.settles → exec (.rowWrite c n bank h) s = .next (tallied (u.setMac k wrote.begun))) ∧
      (ends = true → i.last = false → m.earlier w.no = false → open'.settles → (u.core c).maySignal i.sig →
        exec (.rowWrite c n bank h) s = .next (done' open'.begun)) ∧
      (∀ t, wrote.page t = if t ∈ ts then writeRow m w bs (m.page t) else m.page t) ∧
      (∀ t l, i.op = 0 → i.form = 0 → i.sparse = false → l < 256 → i.row0 ≤ o.next → o.next < 256 →
        -15 ≤ int8 (bs.getD ((o.next - i.row0) * 256 + l) 0) → int8 (bs.getD ((o.next - i.row0) * 256 + l) 0) ≤ 15 →
        (o.next - i.row0) * 256 + 256 ≤ bs.length → (writeRow m w bs (m.page t)).val o.next l = int8 (bs.getD ((o.next - i.row0) * 256 + l) 0))) ∧
    (i.op = 3 →
      (o.next < 255 → exec (.rowWrite c n bank h) s = .next (tallied (u.setMac k wiped))) ∧
      (o.next = 255 → m.earlier w.no = false → erased.settles → (u.core c).maySignal i.sig →
        exec (.rowWrite c n bank h) s = .next (done' erased.begun)) ∧
      ∀ t ∈ ts, (∀ l, l < 256 → (wiped.page t).cell o.next l = 0) ∧ (o.next = 255 → (∀ r l, r < 256 → l < 256 → (wiped.page t).cell r l = 0) ∧ (wiped.page t).valid = false))) ∧
  (∀ (s : State) (c n k p : Nat) (bank : Bool) (m : Macro) (w : PageWrite), Writes s c n bank k m w → w.op.verifying = true → m.earlier w.no = false →
    let i := w.ins
    let ts := m.targets i.op i.page w.op.both
    let crc := crcDone w.op.crc (i.fmt m) (i.is24 m)
    let sound := fun (t : Nat) => (m.page t).checksOk = true ∧ (m.page t).crcNow = crc
    (∀ t ∈ ts, (m.page t).suspects = []) → (s.core c).maySignal i.sig →
      ((∀ t ∈ ts, sound t) → m.queue = [] →
        ∃ t, exec (.pageVerify c n bank [] []) s = .next t ∧ t = { s with macros := t.macros, cores := t.cores, power := t.power } ∧
          (∀ j, j ∈ ts → ((t.mac k).page j).valid = true ∧ ((t.mac k).page j).gen = ((m.page j).gen + 1) % 256 ∧ ((t.mac k).page j).crc = crc ∧
            ((t.mac k).page j).lost = (if i.op = 0 then false else (m.page j).lost) ∧ ((t.mac k).page j).cells = (m.page j).cells ∧
            ∀ r, r < 257 → r ∈ ((t.mac k).page j).restored) ∧
          (∀ j, j ∉ ts → (t.mac k).page j = m.page j) ∧ (∀ x, x ∈ (t.mac k).writing ↔ x ∈ m.writing ∧ x.no ≠ w.no) ∧
          (t.mac k).shadow = (if m.cfg.rewritable then mset m.shadow 0 i.page (shadowAfter i.op w.op.both) else m.shadow) ∧
          t.core c = (s.core c).signalled i.sig ∧ (∀ x, x ≠ k → t.mac x = s.mac x) ∧ ∀ d, d ≠ c → t.core d = s.core d) ∧
      ((∃ t ∈ ts, ¬sound t) → (s.core c).part = some p → i.op ≠ 3 → i.nrows ≠ 0 → m.opOn i.page = some w.op → w.op.op = i.op →
        ∃ t, exec (.pageVerify c n bank [] []) s = .next t ∧ MacRefused s t c p k 0x0207 i.pc ∧ (t.mac k).stats.rejValid = true ∧
          (t.mac k).stats.rejPage = i.page % 64 ∧ (t.mac k).stats.rejDetail = 0x07 ∧ ∀ j ∈ ts, ((t.mac k).page j).valid = false))

/-! ### The maintenance of a macro, and its registers (R58 to R62, R66 to R73, R94 to R101, R407, R437 to R441) -/

/-- R60 to R62: a refresh operation restores the first row-page of its sweep that no other access has restored since, passing over those that one
has, and moves on; in the active page's bank of a product at work it takes the gap before the next step, once, unless a repeat or a scrub is due,
and switches to another page and back where it must. During a calibration pause of its bank it waits. A die on the 32 ms interval returns to 64
ms once its sensors have read 83 °C or less for 1 ms. R94 to R96, R62, R114, R115: a bank becomes due when the interval of 0x5110:01 has passed,
its die's temperature has moved by 0x5110:02 or its pace point has changed; due, it begins to calibrate in an idle window or at a job boundary;
due for 100 ms, in a pause between two steps of a job that has run for more than 2 s. Begun, it ends: a calibrated bank holds the tick, the
temperature and the pace point, and is counted. Where the spec leaves a point open, the reading is the model's, of log entry 91. -/
def Obligations.RefreshCompletes : Prop :=
  (∀ (s : State) (c j die : Nat) (bank : Bool),
    let k := macKey c j
    let m := s.mac k
    let b := m.bank bank
    let phys := fun (page : Nat) => page + (if bank then 32 else 0)
    let nx := sweepNext b.page b.row
    let moved : Macro := { m.setBank bank { b with page := nx.1, row := nx.2, skips := if nx = (0, 0) then 0 else b.skips,
                                                   skipped := if nx = (0, 0) then min 4095 b.skips else b.skipped } with sweepB := bank }
    let alongside := m.betweenProducts = true ∨ bank ≠ decide (32 ≤ m.active)
    let tallied := fun (v : State) => (v.tallyCore c 2 (if bank = decide (32 ≤ m.active) ∧ moved.sweptPage bank ≠ m.active then 2 else 0)).tallyCore c 3 1
    (coreOk c = true → physOk j = true → (b.calibrating = .pause → exec (.refreshOperation c j bank) s = .next s) ∧ (b.calibrating ≠ .pause →
      (b.row ∉ (m.page (phys b.page)).restored →
        (alongside → exec (.refreshOperation c j bank) s = .next (tallied (s.setMac k moved))) ∧
        (∀ r, ¬alongside → m.run = some r → r.gap = false → r.fail = 0 →
          exec (.refreshOperation c j bank) s = .next (tallied (s.setMac k { moved with run := some { r with gap := true } })))) ∧
      (∀ r, ¬alongside → m.run = some r → r.gap = true ∨ r.fail ≠ 0 → exec (.refreshOperation c j bank) s = .next s) ∧
      (alongside → b.row ∈ (m.page (phys b.page)).restored → nx.2 ∉ (m.page (phys nx.1)).restored →
        ∃ t, exec (.refreshOperation c j bank) s = .next t ∧ OnlyMacro k { s with power := t.power } t ∧
          (((t.mac k).bank bank).page, ((t.mac k).bank bank).row) = sweepNext nx.1 nx.2 ∧
          ((t.mac k).page (phys b.page)).restored = (m.page (phys b.page)).restored.erase b.row ∧ (t.mac k).sweepB = bank ∧
          (t.mac k).bank (!bank) = m.bank (!bank)))) ∧
    (arrayDieOk die = true → exec (.refreshIntervalRestore die) s = .next
      (if die ∈ s.spares.rate32 ∧ Config.msTicks ≤ mget s.power.coolTicks 0 die
        then { s with spares := { s.spares with rate32 := s.spares.rate32.filter fun d => d != die } } else s))) ∧
  (∀ (s : State) (c j : Nat) (bank : Bool),
    let k := macKey c j
    let m := s.mac k
    let b := m.bank bank
    let die := coreDie c
    let asks := b.calTick + s.dval 0x5110 0 1 500 * 1000000 / 240 ≤ s.hub.tick ∨ (s.dval 0x5110 0 2 8 * 100 : Nat) ≤ (s.temp die - b.calTemp).natAbs ∨
      s.diePace die ≠ b.calPace
    let fresh : Macro := m.setBank bank { b with due := false, calibrating := .no, calTick := s.hub.tick, calTemp := s.temp die, calPace := s.diePace die }
    let cals := min 0xFFFF (m.stats.cals + 1)
    let window := b.due = true ∧ b.calibrating = .no ∧ (m.bankIdle bank s.hub.tick = true ∨ s.atBoundary c = true)
    let pause := b.due = true ∧ b.calibrating = .no ∧ b.dueTick + 416667 ≤ s.hub.tick ∧ 8333333 < s.jobAge c ∧
      ∃ r, m.run = some r ∧ r.started = true ∧ r.fail = 0 ∧ r.gap = false
    let ends := fun (ins : Instr) (mac : Macro) => ∃ t, exec ins s = .next t ∧ OnlyMacro k s t ∧ t.mac k = mac
    coreOk c = true → physOk j = true →
      (b.due = false → asks → exec (.calibrationDue c j bank) s = .next (s.setMac k (m.setBank bank { b with due := true, dueTick := s.hub.tick }))) ∧
      (b.due = true ∨ ¬asks → exec (.calibrationDue c j bank) s = .next s) ∧
      (window →
        ends (.calibration c j bank .issue) (m.setBank bank { b with calibrating := .window }) ∧
        ends (.calibration c j bank .whole) { fresh with stats := { m.stats with cals := cals } }) ∧
      (b.calibrating = .window → ends (.calibration c j bank .perform) { fresh with stats := { m.stats with cals := cals } }) ∧
      (¬window → exec (.calibration c j bank .issue) s = .next s ∧ (b.calibrating ≠ .window → exec (.calibration c j bank .whole) s = .next s)) ∧
      (b.calibrating ≠ .window → exec (.calibration c j bank .perform) s = .next s) ∧
      (pause → ∀ r, m.run = some r →
        ends (.calibrationPause c j bank .issue) { m.setBank bank { b with calibrating := .pause } with run := some { r with gap := true } } ∧
        ends (.calibrationPause c j bank .whole)
          { fresh with run := some { r with gap := true }, stats := { m.stats with cals := cals, pauses := min 255 (m.stats.pauses + 1) } }) ∧
      (b.calibrating = .pause → ends (.calibrationPause c j bank .perform)
        { fresh with stats := { m.stats with cals := cals, pauses := min 255 (m.stats.pauses + 1) } }) ∧
      (¬pause → exec (.calibrationPause c j bank .issue) s = .next s ∧
        (b.calibrating ≠ .pause → exec (.calibrationPause c j bank .whole) s = .next s)) ∧
      (b.calibrating ≠ .pause → exec (.calibrationPause c j bank .perform) s = .next s))

/-- R53, R61, R97, R98, R407, R441: between products a patrol read of a row-page, a filler read on a core that waits among them, restores the
row-page and goes on to the next. Sound, it does nothing else; with up to two wrong bits in one codeword it writes the row back as it was
written, and counts; with three it makes the page invalid and lost, with a class 3 record of 0x0302 and alarm 5; that `LOST` does not rise for a
page already lost is log entry 84 (DESIGN CHOICE). A filler operation may as well be a refresh ahead. Where the spec leaves a point open, the
reading is the model's, of log entries 8 and 84. -/
def Obligations.PatrolCompletes : Prop :=
  ∀ (s : State) (c j word : Nat) (bank : Bool) (ins : Instr),
    let k := macKey c j
    let m := s.mac k
    let b := m.bank bank
    let pg := b.patrolPage + (if bank then 32 else 0)
    let page := m.page pg
    let row := b.patrolRow
    let one := (∀ u ∈ page.errs, u.row = row ∧ u.word = word) ∧ word < 5 ∧ page.errs.Nodup ∧ ∀ u ∈ page.errs, u.pos < 533
    coreOk c = true → physOk j = true → m.betweenProducts = true →
      (ins = .patrolRead c j bank [] ∨ (ins = .filler c j bank true [] ∧ s.fills c = true) →
        ((∀ u ∈ page.errs, u.row = row → 5 ≤ u.word) → exec ins s = .next
          ((s.setMac k (((m.updPage pg fun p => p.restore [row]).setBank bank b.patrolNext).useBank bank s.hub.tick)).tallyCore c 4 1)) ∧
        (one → page.errs.length = 1 ∨ page.errs.length = 2 →
          ∃ t, exec ins s = .next t ∧ ((t.mac k).page pg).errs = [] ∧ (∀ l, l < 256 → ((t.mac k).page pg).cell row l = page.trueCell row l) ∧
            row ∈ ((t.mac k).page pg).restored ∧ ((t.mac k).page pg).valid = page.valid ∧
            (t.mac k).stats.patrolCorrected = min 0xFFFF (m.stats.patrolCorrected + 1) ∧ (∀ i, i ≠ pg → (t.mac k).page i = m.page i) ∧ t.mem = s.mem) ∧
        (∀ p, one → page.errs.length = 3 → (s.core c).part = some p →
          ∃ t r, exec ins s = .next t ∧ ((t.mac k).page pg).valid = false ∧ ((t.mac k).page pg).lost = true ∧
            (t.mac k).stats.patrolLost = (if page.lost then m.stats.patrolLost else min 255 (m.stats.patrolLost + 1)) ∧
            (t.part p).log.due = (s.part p).log.due ++ [r] ∧ r.cls = 3 ∧ r.code = 0x0302 ∧ (mget t.hub.alarms Alarm.reset 5).raised = true ∧
            (t.part p).faults = (s.part p).faults ∧ ∀ i, i ≠ pg → (t.mac k).page i = m.page i)) ∧
      (s.fills c = true → exec (.filler c j bank false []) s = exec (.refreshOperation c j bank) s)

/-- R84, R99: at a job boundary a lost live page of a rewritable macro whose shadow is `SYNC` is restored from it: verified sound against the
shadow's CRC, it is valid again with the shadow's weights; else it stays lost, is restored no more until it is loaded, and 0x0207 is recorded.
R72, R437 to R440: while a job that 0x0301 ended is cleared, the lane test of the page that faulted counts, and its steps count. Finding no lane
at fault it charges the macro a strike; a lane whose sum is off gets the bank's next spare and a rebuild that the next job start waits for, or,
with no spare left, has the macro pending retirement; of a macro that is being retired already, nothing more. R58, R59, R69, R100, R101: a
rebuild recovers a failing lane's word of a dense row from the check-lane word and the row's other words, and with its pages done the lane maps
of its spares are committed, to act at the job boundary or the next tick, unless two of them clash. A page that is not valid is not rebuilt.
Where the spec leaves a point open, the reading is the model's, of log entries 83 and 84. -/
def Obligations.RepairsComplete : Prop :=
  (∀ (s : State) (c j page : Nat),
    let k := macKey c j
    let m := s.mac k
    let sh := m.page (m.shadowPage (page % 32))
    let sound := sh.checksOk = true ∧ sh.crcNow = sh.crc
    coreOk c = true → physOk j = true → pageOk page = true →
      (m.restorable page = true → s.atBoundary c = true → sh.suspects = [] →
        (sound → ∃ t, exec (.restore c j page []) s = .next t ∧ OnlyMacro k { s with power := t.power } t ∧ ((t.mac k).page page).valid = true ∧
          ((t.mac k).page page).lost = false ∧ ((t.mac k).page page).cells = sh.cells ∧ ((t.mac k).page page).crc = sh.crc ∧
          ((t.mac k).page page).wfmt = sh.wfmt ∧ ((t.mac k).page page).sparse24 = sh.sparse24 ∧ (∀ i, i ≠ page → (t.mac k).page i = m.page i)) ∧
        (¬sound → ∃ t, exec (.restore c j page []) s = .next t ∧ ((t.mac k).page page).valid = false ∧ ((t.mac k).page page).lost = true ∧
          (t.mac k).restorable page = false ∧ (t.mac k).stats.rejValid = true ∧ (t.mac k).stats.rejDetail = 0x07 ∧
          (mget t.hub.alarms Alarm.reset 5).raised = true ∧ ∀ i, i ≠ page → (t.mac k).page i = m.page i)) ∧
      (m.restorable page = false ∨ s.atBoundary c = false → exec (.restore c j page []) s = .next s)) ∧
  (∀ (s : State) (c j p page row lane : Nat) (d : Int),
    let k := macKey c j
    let m := s.mac k
    let slot := if 32 ≤ page then 4 else 0
    let off : List (Nat × Disturb) := [(row, { lane := lane, delta := d })]
    coreOk c = true → physOk j = true → (s.core c).part = some p → s.jobState p = 4 → m.testPage = some page → (m.page page).suspects = [] →
      ((s.spares.strikes.filter fun e => e.1 == k) = [] →
        ∃ t, exec (.laneTest c j [] []) s = .next t ∧
          t.mac k = { (m.updPage page fun q => q.restore (List.range 257)).useBank (decide (32 ≤ page)) s.hub.tick with
            testPage := none, stats := { m.stats with steps := m.stats.steps + (m.page page).rows } } ∧
          t.spares.strikes = (s.spares.strikes.filter fun e => decide (s.hub.tick < e.2)) ++ [(k, s.hub.tick + ticks720h)] ∧
          t.spares.strikesCharged = min 0xFFFFFFFF (s.spares.strikesCharged + 1) ∧
          t.spares.laneTests = min 0xFFFFFFFF (s.spares.laneTests + 1) ∧ t.spares.pendingMacros = s.spares.pendingMacros ∧ t.mem = s.mem) ∧
      (d ≠ 0 → lane < 256 →
        (m.staged.laneMap slot < 2 ^ 31 → slot ∉ m.spent → s.retiring k = false →
          ∃ t, exec (.laneTest c j [] off) s = .next t ∧ (t.mac k).testPage = none ∧ (t.mac k).rebuildHold = true ∧
            (t.mac k).rebuild = m.rebuild ++ [(slot, lane)] ∧ (t.mac k).staged.laneMap slot = 2 ^ 31 + lane ∧ (t.mac k).cfg = m.cfg ∧
            t.spares.laneTests = min 0xFFFFFFFF (s.spares.laneTests + 1) ∧ t.spares.strikes = s.spares.strikes) ∧
        ((∀ i, i < 4 → (m.staged.laneMap (slot + i)).testBit 31 = true) → (∀ x ∈ s.spares.macros ++ s.spares.pendingMacros, macCore x ≠ c) →
          c ∉ s.spares.pendingCores →
          ∃ t, exec (.laneTest c j [] off) s = .next t ∧ t.spares.pendingMacros = s.spares.pendingMacros ++ [k] ∧
            (t.mac k).rebuildHold = !m.rebuild.isEmpty ∧ (t.mac k).testPage = none) ∧
        (s.retiring k = true →
          ∃ t, exec (.laneTest c j [] off) s = .next t ∧ t.spares.pendingMacros = s.spares.pendingMacros ∧ (t.mac k).rebuild = m.rebuild ∧
            (t.mac k).staged = m.staged))) ∧
  (∀ (s : State) (c j : Nat) (bank : Bool),
    let k := macKey c j
    let m := s.mac k
    let mine := m.rebuild.filter fun e => (decide (4 ≤ e.1)) == bank
    let rest := m.rebuild.filter fun e => (decide (4 ≤ e.1)) != bank
    let g := m.committed.getD m.cfg
    let x : Macro := { m.useBank bank s.hub.tick with
      rebuild := rest, rebuildHold := m.rebuildHold && !rest.isEmpty }
    let maps : MacConfig := { g with lanes := mine.foldl (fun q e => mset (dropLane q bank e.2) 0 e.1 (2 ^ 31 + e.2)) g.lanes }
    (coreOk c = true → physOk j = true →
      (mine = [] → exec (.laneRebuild c j bank) s = .next s) ∧
      (mine ≠ [] → (∀ i, i < 32 → (m.page (i + (if bank then 32 else 0))).valid = false) →
        (maps.clash = false → exec (.laneRebuild c j bank) s = .next (s.setMac k { x with mapReject := false, committed := some maps })) ∧
        (maps.clash = true → exec (.laneRebuild c j bank) s = .next (s.setMac k { x with mapReject := true })))) ∧
    (∀ (p rec : Page) (fresh row lane : Nat) (v : Int),
      let others := ((p.rowSites row).filter fun e => e.1 != lane).foldl (fun a e => a + cellVal e.2) 0
      p.sparse24 = false → row < 256 → lane < 256 → p.errs.Nodup → (∀ u ∈ p.errs, u.row = row ∧ u.word < 5 ∧ u.pos < 512 ∧ laneOf u = lane) →
        p.trueCell row lane = (cellOf v 0).toNat → -fmtMax p.wfmt ≤ v → v ≤ fmtMax p.wfmt →
        mget p.chkLane 0 row = BitVec.ofNat 16 (mod127 (others + v)) →
          ∃ d, rebuildRow [lane] p rec fresh row = some d ∧ d.page.cell row lane = (cellOf v 0).toNat ∧ d.page.errs = [] ∧
            ∀ r l, l < 256 → (r ≠ row ∨ l ≠ lane) → d.page.cell r l = p.cell r l))

/-- R59: a commit that would make two valid entries of one bank name the same logical lane is refused as a whole: the lane maps and `MAC_CONFIG`
in force, and what a commit before it has left to come, stay unchanged, and the macro sets `MAP_REJECT`. -/
def Obligations.LaneMapsRefused : Prop :=
  ∀ (s : State) (c j b x y : Nat),
    let k := macKey c j
    let m := s.mac k
    let map (n : Nat) := m.staged.laneMap (b + n)
    coreOk c = true → physOk j = true → (b = 0 ∨ b = 4) → x < 4 → y < 4 → x ≠ y → (map x).testBit 31 = true → (map y).testBit 31 = true →
      map x % 256 = map y % 256 →
        ∃ t, exec (.macCommit c j) s = .next t ∧ t.mac k = { m with mapReject := true } ∧ (t.mac k).cfg = m.cfg ∧ OnlyMacro k s t

/-- R14, R58, R59, R68, R130, R235: a commit takes the staged copies as they stand, to act together at the job boundary, or at the next tick
where no job runs; a macro refuses one whole, with `MAP_REJECT`, that would make two valid entries of one bank name the same logical lane. R72,
R236, R271, R324: a read of the low half of a 64-bit count answers its bits [31:0] and latches bits [63:32] in the high half. Tables 2.12, 2.14,
3.8, 4.4, 4.5, 7.13, 8.8, 10.11, 14.14: a hub write stages what the staged registers hold, clears W1C bits, commits, and has no effect on what
the hub does not write. Where the spec leaves a point open, the reading is the model's, of log entries 83 and 91. -/
def Obligations.RegistersComplete : Prop :=
  (∀ (s : State) (c j e : Nat),
    let k := macKey c j
    let m := s.mac k
    let x := s.skink e
    (coreOk c = true → physOk j = true →
      (m.staged.clash = true → exec (.macCommit c j) s = .next (s.setMac k { m with mapReject := true })) ∧
      (m.staged.clash = false → exec (.macCommit c j) s = .next (s.setMac k { m with mapReject := false, committed := some m.staged })) ∧
      exec (.coreCommit c) s = .next (s.setCore c { s.core c with committed := some (s.core c).staged })) ∧
    (skinkOk e = true → exec (.skinkCommit e) s = .next (s.setSkink e { x with committed := some (x.stEnable, x.stPart, x.stLogical) })) ∧
    s.settleCommits.core c = (if s.atBoundary c then (s.core c).applyCommit else s.core c) ∧
    s.settleCommits.mac k = (if s.atBoundary (macCore k) then m.applyCommit else m) ∧
    s.settleSkinks.skink e = (if s.jobState x.awaits ≤ 1 then x.commitConfig else x) ∧
    (∀ g, m.committed = some g → m.applyCommit.cfg = g ∧ m.applyCommit.committed = none) ∧
    (∀ g, (s.core c).committed = some g → (s.core c).applyCommit = { s.core c with cfg := g, committed := none }) ∧
    (∀ g, x.committed = some g → x.commitConfig.enable = g.1 ∧ x.commitConfig.part = g.2.1 ∧ x.commitConfig.logical = g.2.2 ∧ x.commitConfig.committed = none)) ∧
  (∀ (s : State) (c j e i q : Nat),
    let m := s.mac (macKey c j)
    let read := fun (t : State) (n : Nat) => { t with hub := { s.hub with hubRead := n % 2 ^ 32 } }
    (coreOk c = true → physOk j = true → exec (.macStepCountLo c j) s = .next (read (s.setMac (macKey c j)
      { m with stats := { m.stats with stepsHi := m.stats.steps / 2 ^ 32 % 2 ^ 32 } }) m.stats.steps)) ∧
    (skinkOk e = true → exec (.skinkTilesLo e) s = .next
      (read (s.setSkink e { s.skink e with tilesHi := (s.skink e).tiles / 2 ^ 32 % 2 ^ 32 }) (s.skink e).tiles)) ∧
    (instOk i = true → exec (.opsLo i) s = .next (read (s.updEngine i fun x => { x with opsHi := x.ops / 2 ^ 32 % 2 ^ 32 }) (s.engine i).ops)) ∧
    (cwyPortOk q = true → exec (.cwyFlitsLo q) s = .next (read (s.updLink q fun x => { x with flitsHi := x.flits / 2 ^ 32 % 2 ^ 32 }) (s.link q).flits))) ∧
  (∀ (s : State) (c j n i o e q d : Nat) (v : Word),
    let k := macKey c j
    let m := s.mac k
    let b := v.toNat
    let x := s.core c
    let word := (if b.testBit 31 then 2 ^ 31 else 0) + b % 256
    (coreOk c = true → physOk j = true →
      exec (.registerWrite (.mac c j 0x000) v) s = .next (s.setMac k
        { m with staged := { m.staged with enable := b.testBit 0, rewritable := b.testBit 1, force32 := b.testBit 2 } }) ∧
      exec (.registerWrite (.mac c j 0x004) v) s = (if b.testBit 0 then exec (.macCommit c j) s else .next s) ∧
      exec (.registerWrite (.mac c j 0x00C) v) s = .next (s.setMac k
        { m with stats := { m.stats with uncorr := m.stats.uncorr && !b.testBit 3, persist := m.stats.persist && !b.testBit 2,
                                         corrected := m.stats.corrected && !b.testBit 1 } }) ∧
      (i < 8 → exec (.registerWrite (.mac c j (0x020 + 4 * i)) v) s = .next (s.setMac k
        { m with staged := { m.staged with lanes := mset m.staged.lanes 0 i word } })) ∧
      exec (.registerWrite (.mac c j 0x040) v) s = .next (s.setMac k
        { m with stats := { m.stats with rejValid := m.stats.rejValid && !b.testBit 31 } }) ∧
      (o < 512 → o ∉ [0x000, 0x004, 0x00C, 0x020, 0x024, 0x028, 0x02C, 0x030, 0x034, 0x038, 0x03C, 0x040] →
        exec (.registerWrite (.mac c j o) v) s = .next s)) ∧
    (coreOk c = true →
      exec (.registerWrite (.core c 0x1C) v) s = .next (s.setCore c { x with faultValid := x.faultValid && !b.testBit 31 }) ∧
      exec (.registerWrite (.core c 0x20) v) s = .next (s.setCore c { x with staged := { x.staged with rtlen0 := b } }) ∧
      exec (.registerWrite (.core c 0x24) v) s = .next (s.setCore c { x with staged := { x.staged with rtlen1 := b } }) ∧
      exec (.registerWrite (.core c 0x80) v) s = (if b.testBit 0 then exec (.coreCommit c) s else .next s) ∧
      (i < 4 → x.staged.macroMap.length = 16 →
        ∃ t, exec (.registerWrite (.core c (0x30 + 4 * i)) v) s = .next t ∧ OnlyCore c s t ∧
          t.core c = { x with staged := { x.staged with macroMap := (t.core c).staged.macroMap } } ∧
          ∀ l, l < 16 → (t.core c).staged.macroMap.getD l 0 = if l / 4 = i then b / 256 ^ (l % 4) % 32 else x.staged.macroMap.getD l 0) ∧
      (n < 64 → i < 4 →
        ∃ t, exec (.registerWrite (.core c (0x1000 + 16 * n + 4 * i)) v) s = .next t ∧ OnlyCore c s t ∧ (t.core c).cfg = x.cfg ∧
          (t.core c).staged.handle n = (x.staged.handle n).setWord i b ∧ ((t.core c).staged.handle n).word i =
            (if i = 1 then b % 2 ^ 24 else if i = 3 then b / 2 ^ 31 * 2 ^ 31 + b / 2 ^ 28 % 8 * 2 ^ 28 else b) ∧
          ∀ l, l ≠ n → (t.core c).staged.handle l = x.staged.handle l)) ∧
    (skinkOk e = true →
      exec (.registerWrite (.skink e 0x004) v) s = .next (s.setSkink e
        { s.skink e with stEnable := b.testBit 31, stPart := b / 2 ^ 27 % 16, stLogical := b / 2 ^ 22 % 32 }) ∧
      exec (.registerWrite (.skink e 0x008) v) s = (if b.testBit 0 then exec (.skinkCommit e) s else .next s) ∧
      exec (.registerWrite (.skink e 0x010) v) s = .next (s.setSkink e { s.skink e with faultValid := (s.skink e).faultValid && !b.testBit 31 })) ∧
    (instOk n = true → exec (.registerWrite (.engine n 0x008) v) s = .next
      (s.updEngine n fun y => { y with faultValid := y.faultValid && !b.testBit 31 })) ∧
    (cwyPortOk q = true → exec (.registerWrite (.cwy q 0x00C) v) s = .next
      (s.updLink q fun l => { l with stepped := l.stepped && !b.testBit 1, down := l.down && !b.testBit 0 })) ∧
    ((RegRef.pwr d 0x008).wf = true → exec (.registerWrite (.pwr d 0x008) v) s = .next { s with power :=
      { s.power with dies := mupd s.power.dies PacedDie.reset d fun y => { y with clamped := y.clamped && !b.testBit 0 } } }))

/-! ### Moving data (R138, R141 to R143, R163, R183 to R199, R282 to R288) -/

/-- R117, R141 to R143, R147: an instruction of the memory-operation unit that issues joins the unit's queue, of at most four, behind the earlier
ones: in its own step (`.issue`), and also where the queue is not empty or its destination has no credit left (`.whole`). Its operands and
registers are those at issue. One of zero length or count enters no queue: it completes as it issues. R141: `FIL` stores its word throughout its
range, whatever memory or window holds it, and nothing else; of no bytes it only completes. R141: `CPY` copies its bytes in ascending beats of
64, each read before it is stored: where no beat's destination meets a later beat's source, the destination holds what the source held, and every
other byte is as before; of no bytes it only completes. Where the spec leaves a point open, the reading is the model's, of log entries 10, 98 and
99. -/
def Obligations.FillAndCopyComplete : Prop :=
  (∀ (s : State) (c w : Nat) (h : Harm) (ph : Carry) (ins : Instr) (sel : Nat → Bool) (checks : Core → Nat → List (Bool × Nat)) (op : Core → Nat → MemOp),
    let u := s.suffer h
    let k := u.core c
    let atm := fun (n w : Nat) => fOpcode w == 0x42 && (atmOp w == n || decide (5 ≤ atmOp w))
    let atmChecks := fun (n : Nat) (k : Core) (w : Nat) =>
      (decide (5 ≤ atmOp w), 0x0100) :: (if n ≤ 1 then vectorChecks u k w else scalarAtmChecks u k w)
    (ins, sel, checks, op) ∈ [(Instr.fil c ph h, (fun w => fOpcode w == 0x40), filChecks u, filOp),
        (.cpy c ph h, (fun w => fOpcode w == 0x41), cpyChecks u, cpyOp), (.vectorAddInt32 c ph h, atm 0, atmChecks 0, atmMem),
        (.vectorAddFp32 c ph h, atm 1, atmChecks 1, atmMem), (.scalarAddInt32 c ph h, atm 2, atmChecks 2, atmMem),
        (.swap32 c ph h, atm 3, atmChecks 3, atmMem), (.swap64 c ph h, atm 4, atmChecks 4, atmMem),
        (.clm c ph h, (fun w => fOpcode w == 0x51), clmChecks u, clmOp)] →
      Issues u c w sel checks freely →
        let o := op k.issued w
        (memLength w = 0 → ph ≠ .perform → k.maySignal (fSig w) →
          exec ins s = .next { u.setCore c (k.issued.signalled (fSig w)) with harm := s.harm }) ∧
        (memLength w ≠ 0 → k.memQ.length < 4 → ph = .issue ∨ (ph = .whole ∧ (k.memQ ≠ [] ∨ u.memHeld c o = true)) →
          exec ins s = .next { u.setCore c { k.issued with memQ := k.memQ ++ [o] } with harm := s.harm } ∧ o.w = w ∧ o.sig = fSig w ∧ o.pc = k.pc) ∧
        (memLength w ≠ 0 → 4 ≤ k.memQ.length → ph ≠ .perform → exec ins s = .next { u.setCore c { k with state := 1 } with harm := s.harm })) ∧
  (∀ (s v : State) (c : Nat) (h : Harm) (ph : Carry) (o : MemOp) (ext : List (Nat × Nat)),
    let u := s.suffer h
    let n := field o.w 60 29 / 4
    Carries u c ph (fun w => fOpcode w == 0x40) (filChecks u) filOp o v → (v.core c).maySignal o.sig → field o.w 60 29 % 4 = 0 →
      (n = 0 → exec (.fil c ph h) s = .next { v.setCore c ((v.core c).signalled o.sig) with harm := s.harm }) ∧
      (n ≠ 0 → h.beat = none → v.extents c o.dst (4 * n) rWR = .ok ext → Writable v.mem ext →
        ∃ t, exec (.fil c ph h) s = .next t ∧ OnlyData c u t ∧ Stored u.mem t.mem ext (List.replicate n (leBytes 4 o.v0.toNat)).flatten ∧
          t.core c = (v.core c).signalled o.sig ∧ ∀ d, d ≠ c → t.core d = s.core d)) ∧
  (∀ (s v : State) (c : Nat) (h : Harm) (ph : Carry) (o : MemOp) (src dst : Nat → List (Nat × Nat)),
    let u := s.suffer h
    let n := field o.w 22 0
    let part := fun (x : Operand) (i : Nat) => { x with off := x.off + 64 * i }
    Carries u c ph (fun w => fOpcode w == 0x41) (cpyChecks u) cpyOp o v → (v.core c).maySignal o.sig →
      (n = 0 → exec (.cpy c ph h) s = .next { v.setCore c ((v.core c).signalled o.sig) with harm := s.harm }) ∧
      (h.beat = none → Uncached u c o.src →
        (∀ i, 64 * i < n → v.extents c (part o.src i) (min 64 (n - 64 * i)) rRD = .ok (src i) ∧ Readable v.mem (src i) ∧
          v.extents c (part o.dst i) (min 64 (n - 64 * i)) rWR = .ok (dst i) ∧ Writable v.mem (dst i)) →
        (∀ i j, i < j → 64 * j < n → ∀ x, inExtents (dst i) x → ¬inExtents (src j) x ∧ ¬inExtents (dst j) x) →
          ∃ t, exec (.cpy c ph h) s = .next t ∧ OnlyData c u t ∧ (∀ i, 64 * i < n → bytesAt t.mem (dst i) = bytesAt u.mem (src i)) ∧
            (∀ x, (∀ i, 64 * i < n → ¬inExtents (dst i) x) → t.mem.read x = s.mem.read x) ∧
            t.core c = (v.core c).signalled o.sig ∧ ∀ d, d ≠ c → t.core d = s.core d))

/-- R142, R163: a vector add puts at each of its elements the sum of the element and the source's, in int32 or in FP32, where each int32 sum
fits; the sources, on other bytes, and every other byte stay, and the accesses count (R399); of no elements it only completes. An int32 sum that
does not fit faults the job with 0x0116 and leaves its element, and the later ones, as they were. R142, R146, R163: a scalar atomic replaces its
element, of 4 bytes or of 8, by the sum or by the operand registers, and the old value goes to s[RD], of 8 bytes to s[RD] and s[RD + 1]; every
other byte and register stays. A sum that does not fit faults the job with 0x0116 and stores nothing. R143: `CLM` compares the counter's epoch
and then its index: a wrong epoch answers 1 and the epoch found, an index at the limit 2 and the index, and otherwise 0 and the index, which
advances by `INC`, at most to 2^32 − 1. The answer goes to s[RS] and s[RV]; with `INC` 0 nothing is read or written. Where the spec leaves a
point open, the reading is the model's, of log entries 10 and 99. -/
def Obligations.AtomicsComplete : Prop :=
  (∀ (s v : State) (c : Nat) (h : Harm) (ph : Carry) (ins : Instr) (op acc : Nat) (o : MemOp) (src dst : Nat → Nat),
    let u := s.suffer h
    let n := atmCount o.w
    let sum := fun (i : Nat) => s32 (leNat (u.mem.readN (dst i) 4)) + s32 (leNat (u.mem.readN (src i) 4))
    let fits := fun (i : Nat) => -(2 ^ 31) ≤ sum i ∧ sum i < 2 ^ 31
    let value := fun (i : Nat) =>
      if acc = 1 then leBytes 4 (u32 (sum i)) else leBytes 4 (fadd (leNat (u.mem.readN (dst i) 4)) (leNat (u.mem.readN (src i) 4)))
    (ins, op, acc) ∈ [(Instr.vectorAddInt32 c ph h, 0, 1), (.vectorAddFp32 c ph h, 1, 2)] →
      Carries u c ph (fun w => fOpcode w == 0x42 && (atmOp w == op || decide (5 ≤ atmOp w)))
        (fun k w => (decide (5 ≤ atmOp w), 0x0100) :: vectorChecks u k w) atmMem o v → (v.core c).maySignal o.sig →
      (n = 0 → exec ins s = .next { v.setCore c ((v.core c).signalled o.sig) with harm := s.harm }) ∧
      (h.beat = none → o.src.h.kind ≤ 2 →
        (∀ i, i < n → v.extents c { o.src with off := o.src.off + 4 * i } 4 rRD = .ok [(src i, 4)] ∧ v.mem.badAt (src i) 4 = none ∧
          v.extents c { o.dst with off := o.dst.off + 4 * i } 4 rATOM = .ok [(dst i, 4)] ∧ v.mem.badAt (dst i) 4 = none) →
        (∀ i j, i < n → j < n → (i ≠ j → dst i + 4 ≤ dst j ∨ dst j + 4 ≤ dst i) ∧ (dst i + 4 ≤ src j ∨ src j + 4 ≤ dst i)) →
          ((acc = 1 → ∀ i, i < n → fits i) →
            ∃ t, exec ins s = .next t ∧ OnlyData c ((u.tallyOp c o.src (4 * n) rRD).tallyOp c o.dst (4 * n) rATOM) t ∧ (∀ i, i < n → t.mem.readN (dst i) 4 = value i) ∧
              (∀ x, (∀ i, i < n → ¬(dst i ≤ x ∧ x < dst i + 4)) → t.mem.read x = s.mem.read x) ∧
              t.core c = (v.core c).signalled o.sig ∧ ∀ d, d ≠ c → t.core d = s.core d) ∧
          (∀ p m, acc = 1 → (u.core c).part = some p → m < n → (∀ i, i < m → fits i) → ¬fits m →
            ∃ t f, exec ins s = .next t ∧ (t.part p).faults = (s.part p).faults ++ [f] ∧ f.status = 0x0116 ∧ f.unit = 3 ∧
              (∀ i, i < m → t.mem.readN (dst i) 4 = value i) ∧
              ∀ x, (∀ i, i < m → ¬(dst i ≤ x ∧ x < dst i + 4)) → t.mem.read x = s.mem.read x))) ∧
  (∀ (s v : State) (c a : Nat) (h : Harm) (ph : Carry) (ins : Instr) (op n : Nat) (new : List Byte) (o : MemOp),
    let u := s.suffer h
    let old := u.mem.readN a n
    let sum := s32 (leNat old) + s32 o.v0.toNat
    let rd := atmRd o.w
    (ins, op, n, new) ∈ [(Instr.scalarAddInt32 c ph h, 2, 4, leBytes 4 (u32 sum)), (.swap32 c ph h, 3, 4, leBytes 4 o.v0.toNat),
        (.swap64 c ph h, 4, 8, leBytes 4 o.v0.toNat ++ leBytes 4 o.v1.toNat)] →
      Carries u c ph (fun w => fOpcode w == 0x42 && (atmOp w == op || decide (5 ≤ atmOp w)))
        (fun k w => (decide (5 ≤ atmOp w), 0x0100) :: scalarAtmChecks u k w) atmMem o v → (v.core c).maySignal o.sig → h.beat = none →
      (atmCount o.w = 0 → exec ins s = .next { v.setCore c ((v.core c).signalled o.sig) with harm := s.harm }) ∧
      (atmCount o.w ≠ 0 → v.extents c o.dst n rATOM = .ok [(a, n)] → v.mem.badAt a n = none →
        (op = 2 → -(2 ^ 31) ≤ sum ∧ sum < 2 ^ 31) →
          ∃ t, exec ins s = .next t ∧ OnlyData c (u.tallyOp c o.dst n rATOM) t ∧ t.mem.readN a n = new ∧ (∀ x, ¬(a ≤ x ∧ x < a + n) → t.mem.read x = s.mem.read x) ∧
            (∀ r, (t.core c).reg r =
              if r = 0 then 0
              else if n = 8 ∧ r = rd + 1 then BitVec.ofNat 32 (leNat (old.drop 4))
              else if r = rd then BitVec.ofNat 32 (leNat (old.take 4))
              else (s.core c).reg r) ∧
            t.core c = { (v.core c).signalled o.sig with regs := (t.core c).regs } ∧ ∀ d, d ≠ c → t.core d = s.core d) ∧
      (∀ p, atmCount o.w ≠ 0 → op = 2 → v.extents c o.dst n rATOM = .ok [(a, n)] → v.mem.badAt a n = none → (u.core c).part = some p →
        ¬(-(2 ^ 31) ≤ sum ∧ sum < 2 ^ 31) →
          ∃ t f, exec ins s = .next t ∧ (t.part p).faults = (s.part p).faults ++ [f] ∧ f.status = 0x0116 ∧ f.unit = 3 ∧
            ∀ x, t.mem.read x = s.mem.read x)) ∧
  (∀ (s v : State) (c a : Nat) (h : Harm) (ph : Carry) (o : MemOp),
    let u := s.suffer h
    let index := leNat (u.mem.readN a 4)
    let epoch := leNat (u.mem.readN (a + 4) 4)
    let inc := field o.w 50 35
    let claimed := epoch = o.v0.toNat ∧ index < o.v1.toNat
    let status := if epoch ≠ o.v0.toNat then 1 else if o.v1.toNat ≤ index then 2 else 0
    Carries u c ph (fun w => fOpcode w == 0x51) (clmChecks u) clmOp o v → (v.core c).maySignal o.sig → h.beat = none →
      (inc = 0 → exec (.clm c ph h) s = .next { v.setCore c ((v.core c).signalled o.sig) with harm := s.harm }) ∧
      (inc ≠ 0 → v.extents c o.dst 8 rATOM = .ok [(a, 8)] → v.mem.badAt a 8 = none →
        ∃ t, exec (.clm c ph h) s = .next t ∧ OnlyData c (u.tallyOp c o.dst 8 rATOM) t ∧
          leNat (t.mem.readN a 4) = (if claimed then min (index + inc) 0xFFFFFFFF else index) ∧ leNat (t.mem.readN (a + 4) 4) = epoch ∧
          (∀ x, ¬(a ≤ x ∧ x < a + 8) → t.mem.read x = s.mem.read x) ∧
          (∀ q, (t.core c).reg q = if q = 0 then 0 else if q = field o.w 34 30 then BitVec.ofNat 32 (if status = 1 then epoch else index)
            else if q = field o.w 29 25 then BitVec.ofNat 32 status else (s.core c).reg q) ∧
          t.core c = { (v.core c).signalled o.sig with regs := (t.core c).regs } ∧ ∀ d, d ≠ c → t.core d = s.core d))

/-- R138, R282, R283, R286, R288: a sound descriptor of a move between places that it can reach leaves at each destination element what its
source element held, in the order of address generation; under `ACC` 1 or 2 the element becomes the sum, in int32 where it fits, or in FP32.
Nothing else is written, and the `DMA` unit goes on to its next descriptor, the instruction complete after its last. A move of no elements does
nothing. R138, R244, R288: a descriptor that R288 refuses stops the `DMA` unit with 0x0150, a misaligned one with 0x0102: its queue is dropped,
the job faults, and nothing is moved. Where the spec leaves a point open, the reading is the model's, of log entry 11. -/
def Obligations.MovesComplete : Prop :=
  (∀ (s : State) (c : Nat) (h : Harm) (q : DmaOp) (rest : List DmaOp) (d : Desc) (src dst : Nat × Nat → Nat),
    let u := s.suffer h
    let k := u.core c
    let sh := k.cfg.handle d.srcH
    let dh := k.cfg.handle d.dstH
    let pairs := (tuples (validIndices k q.greg d)).map fun t => (elementAt d.ss t, elementAt d.ds t)
    let v := fun (p : Nat × Nat) => moved u.mem d.srcEs p.1 (src p)
    let w := fun (p : Nat × Nat) => moved u.mem d.dstEs p.2 (dst p)
    let sum := fun (p : Nat × Nat) => s32 (w p) + s32 (v p)
    let size := esBytes d.dstEs
    coreOk c = true → Calm h → k.dmaQ = q :: rest → u.nextDesc c q = .ok d → d.eng = 0 → u.moveHeld c q.greg d = false → u.bufferFault 1 c = none → k.maySignal q.sig →
      badHandles k [d.srcH, d.dstH] = false → cachedKind3 u k [d.srcH, d.dstH] = false → u.b4Move c d = false →
      Uncached u c { h := sh, off := 0 } →
      (∀ p ∈ pairs, Placed u c sh d.srcOff d.srcEs p.1 rRD (src p) ∧ Placed u c dh d.dstOff d.dstEs p.2 (if d.acc = 0 then rWR else rATOM) (dst p)) →
      (∀ p ∈ pairs, ∀ p' ∈ pairs, dst p + size ≤ src p' ∨ src p' + size ≤ dst p) →
      (pairs.Pairwise fun p p' => dst p + size ≤ dst p' ∨ dst p' + size ≤ dst p ∨ (d.dstEs = 0 ∧ dst p = dst p' ∧ p.2 % 2 ≠ p'.2 % 2)) →
      (d.acc = 1 → ∀ p ∈ pairs, -(2 ^ 31) ≤ sum p ∧ sum p < 2 ^ 31) →
        ∃ t, exec (.move c h) s = .next t ∧ OnlyData c u t ∧ (∀ i, i ≠ c → t.core i = s.core i) ∧
          (∀ p ∈ pairs, moved t.mem d.dstEs p.2 (dst p) =
            if d.acc = 0 then v p else if d.acc = 1 then u32 (sum p) else fadd (w p) (v p) % 2 ^ 32) ∧
          (∀ x, (∀ p ∈ pairs, ¬(dst p ≤ x ∧ x < dst p + size)) → t.mem.read x = s.mem.read x) ∧
          t.core c = if q.ndesc ≤ q.next + d.slots then ({ k with dmaQ := rest } : Core).signalled q.sig
            else { k with dmaQ := { q with next := q.next + d.slots } :: rest }) ∧
  (∀ (s : State) (c p : Nat) (q : DmaOp) (rest : List DmaOp) (b x : List Byte) (e : Nat),
    let k := s.core c
    let at' := fun (n : Nat) => { q.desc with off := (q.desc.off + 64 * n) % 2 ^ 32 }
    let d := descOf b x
    coreOk c = true → k.dmaQ = q :: rest → k.part = some p → q.desc.h.kind = 0 →
      s.readOp c (at' q.next) 64 = .ok (b, s) → s.readOp c (at' (q.next + 1)) 64 = .ok (x, s) →
      ((hasExt b = true ∧ q.ndesc ≤ q.next + 1 ∧ e = 0x0150) ∨ (¬(hasExt b = true ∧ q.ndesc ≤ q.next + 1) ∧ s.badDesc c d = true ∧ e = 0x0150) ∨
        (¬(hasExt b = true ∧ q.ndesc ≤ q.next + 1) ∧ s.badDesc c d = false ∧ misaligned d = true ∧ e = 0x0102)) →
        ∃ t f, exec (.move c Harm.none) s = .next t ∧ (t.part p).faults = (s.part p).faults ++ [f] ∧ f.status = e ∧ f.unit = 3 ∧ f.pc = q.pc ∧
          (t.core c).dmaQ = [] ∧ t.mem = s.mem)

/-- R183 to R187, R192, R193, R199: a move whose window is in `B4` mode carries the elements of each group that leave their die encoded at the
group's scale: each arrives as the decoded value of its code. The sending codec updates the group's statistics where `STAT` asks for it, and
counts the group. A scale of `E` 31 faults with 0x0120 at the codec, `UNIT` 6. Where the spec leaves a point open, the reading is the model's, of
log entries 95 and 100. -/
def Obligations.CrossingCompletes : Prop :=
  ∀ (s : State) (c p : Nat) (h : Harm) (q : DmaOp) (rest : List DmaOp) (d : Desc) (w : Window) (src dst : Nat × Nat → Nat) (sc : Nat → List Nat)
      (ys : Nat → List Int) (entry : Nat → Nat),
    let u := s.suffer h
    let k := u.core c
    let dims := validIndices k q.greg d
    let pairs := (tuples dims).map fun t => (elementAt d.ss t, elementAt d.ds t)
    let groups := groupsOf (groupSize w.gsize) (chunks (dims.headD []).length (pairs.length + 1) pairs)
    let scale := fun (j : Nat) => (sc j).headD 0
    let coded := fun (j : Nat) => encodeGroup (scale j) w.asign
      ((groups.getD j []).map fun e => a8 w.asign (BitVec.ofNat 8 (moved u.mem 1 e.1 (src e))))
    let rec' := fun (o n : Nat) => ({ h := k.cfg.handle d.recH, off := (o + n) % 2 ^ 32 } : Operand)
    let written := fun (x : Nat) => (∃ e ∈ pairs, x = dst e) ∨ (d.stat = true ∧ ∃ j, j < groups.length ∧ entry j ≤ x ∧ x < entry j + 5)
    coreOk c = true → Calm h → k.dmaQ = q :: rest → k.part = some p → u.nextDesc c q = .ok d → d.eng = 0 → u.moveHeld c q.greg d = false →
      u.bufferFault 1 c = none → k.maySignal q.sig → badHandles k [d.srcH, d.dstH, d.recH] = false → u.cached p = false → u.moveWindow c d = some w → w.cross = 1 →
      (∀ e ∈ pairs, u.parted c d e = true ∧ Placed u c (k.cfg.handle d.srcH) d.srcOff 1 e.1 rRD (src e) ∧
        Placed u c (k.cfg.handle d.dstH) d.dstOff 1 e.2 rWR (dst e)) →
      (∀ j, j < groups.length → ∃ a, u.extents c (rec' d.recOff j) 1 rRD = .ok [(a, 1)] ∧ u.mem.badAt a 1 = none ∧ sc j = [leNat (u.mem.readN a 1)] ∧
        ¬written a) →
      (pairs.Pairwise fun e e' => dst e ≠ dst e') → (∀ e ∈ pairs, ¬written (src e)) →
      (d.stat = true → ∀ j, j < groups.length → u.extents c (rec' d.statOff (8 * j)) 8 rRD = .ok [(entry j, 8)] ∧
        u.extents c (rec' d.statOff (8 * j)) 5 rWR = .ok [(entry j, 5)] ∧ u.mem.badAt (entry j) 8 = none ∧
        (∀ i, i < groups.length → i ≠ j → entry i + 8 ≤ entry j ∨ entry j + 8 ≤ entry i) ∧ ∀ e ∈ pairs, ¬(entry j ≤ dst e ∧ dst e < entry j + 8)) →
      ((∀ j, j < groups.length → s8E (scale j) ≠ 31 ∧ wireDecode w.zr w.asign (groups.getD j []).length
          (if w.zr then zrGroup (scale j) (coded j) else plainGroup (scale j) (coded j)) = some (ys j)) →
        ∃ t, exec (.move c h) s = .next t ∧
          (∀ j e y, j < groups.length → (e, y) ∈ (groups.getD j []).zip (ys j) → moved t.mem 1 e.2 (dst e) = (BitVec.ofInt 8 y).toNat) ∧
          (d.stat = true → ∀ j, j < groups.length → t.mem.readN (entry j) 5 = statUpdate (u.mem.readN (entry j) 8) (coded j)) ∧
          (∀ x, ¬written x → t.mem.read x = s.mem.read x) ∧
          mget (t.part p).counters 0 cB4Groups = min u64Max (mget (s.part p).counters 0 cB4Groups + groups.length) ∧
          (t.core c).dmaQ = (if q.ndesc ≤ q.next + d.slots then rest else { q with next := q.next + d.slots } :: rest)) ∧
      (groups.getD 0 [] ≠ [] → s8E (scale 0) = 31 →
        ∃ t f, exec (.move c h) s = .next t ∧ (t.part p).faults = (s.part p).faults ++ [f] ∧ f.status = 0x0120 ∧ f.unit = 6 ∧ (t.core c).dmaQ = [] ∧
          ∀ x, t.mem.read x = s.mem.read x)

/-! ### The engines (R189, R203 to R208, R219 to R272) -/

/-- R240, R244, R271: every operation that its instance takes, sound in its fields, comes to an end in its phase: handed on, it joins the
instance's queue of its partition, of at most eight; served, it is counted and the `DMA` unit goes on, or, where its work meets a fault, the
instance records the first, the `DMA` queue of its core is dropped and the job faults; not in its turn, it waits. Where the spec leaves a point
open, the reading is the model's, of log entries 10 and 22. -/
def Obligations.EngineOperationsComplete : Prop :=
  ∀ (s after : State) (c e code p : Nat) (h : Harm) (ph : Carry) (ins : Instr) (r : Recipe) (q : DmaOp) (d : Desc) (o : Op),
    let u := s.suffer h
    (ins, e, code, r) ∈ [(Instr.permute c ph h, 1, 0, permuteRecipe), (.gather c ph h, 2, 0, gatherRecipe), (.scatter c ph h, 2, 1, scatterRecipe),
        (.compress c ph h, 2, 2, compressRecipe), (.rescale c ph h, 3, 0, rescaleRecipe), (.encb4 c ph h, 3, 1, encb4Recipe),
        (.decb4 c ph h, 3, 2, decb4Recipe), (.quant c ph h, 3, 3, quantRecipe), (.dequant c ph h, 3, 4, dequantRecipe),
        (.tos8 c ph h, 3, 5, tos8Recipe), (.adapt c ph h, 3, 6, adaptRecipe), (.clipstat c ph h, 3, 7, clipstatRecipe),
        (.softmax c ph h, 4, 0, softmaxRecipe), (.rmsnorm c ph h, 4, 1, rmsnormRecipe), (.layernorm c ph h, 4, 2, layernormRecipe),
        (.rsum c ph h, 4, 3, rsumRecipe), (.rmax c ph h, 4, 4, rmaxRecipe), (.mask c ph h, 4, 5, maskRecipe), (.gated c ph h, 4, 6, gatedRecipe),
        (.spectrum c ph h, 5, 0, spectrumFull), (.keypoint c ph h, 5, 1, keypointRecipe), (.generate c ph h, 6, 0, generateRecipe),
        (.verify c ph h, 6, 1, verifyRecipe)] →
      Takes u c e code r q d o after → (u.core c).part = some p → (u.core c).maySignal q.sig →
        let i := instKey o.die e
        let x := u.engine i
        (Serves u after ph e o r →
          ∃ t, exec ins s = .next t ∧ (∀ j, j ≠ i → t.engine j = u.engine j) ∧ (∀ n ∈ (t.engine i).queue, n.2 ≠ c) ∧
            ((o.run r after).2 = none → Served u t c i q d ∧ t.mem = (o.run r after).1.mem) ∧
            (∀ st unit, (o.run r after).2 = some (st, unit) →
              ∃ f, (t.part p).faults = (u.part p).faults ++ [f] ∧ f.status = statusOf st ∧ (f.unit = unit ∨ f.unit = 6) ∧ f.pc = q.pc ∧
                (t.core c).dmaQ = [] ∧ (t.engine i).ops = x.ops ∧
                (x.faultValid = false → unit ≠ 3 → (t.engine i).faultValid = true ∧ (t.engine i).faultPart = p ∧ (t.engine i).faultStatus = statusOf st) ∧
                (x.faultValid = true → (t.engine i).faultStatus = x.faultStatus))) ∧
        ((ph = .issue ∨ (ph = .whole ∧ (x.queue ≠ [] ∨ o.starved after r = true))) → (∀ n ∈ x.queue, n.2 ≠ c) → x.queued p < 8 →
          exec ins s = .next { u.updEngine i (fun x => { x with queue := x.queue ++ [(p, c)] }) with harm := s.harm }) ∧
        (ph = .perform → x.turn c = false ∨ o.starved after r = true → exec ins s = .next { u with harm := s.harm })

/-- R250 to R267, R287: what each operation with one output leaves there, element by element, without check values; all else in memory is as
before. The factors, parameters and indices are those its record's operands hold. R189, R203 to R208, R246, R254 to R256, R258, R264, R268: what
the operations with several outputs, or whose output is no list of elements, leave in their places, without check values (`GENERATE` and `VERIFY`
with their own), all places apart; all else in memory is as before. Where the spec leaves a point open, the reading is the model's, of log entry
12. -/
def Obligations.EngineResults : Prop :=
  (∀ (s after s1 : State) (c : Nat) (h : Harm) (ph : Carry) (q : DmaOp) (d : Desc) (o : Op) (place : Nat → Nat) (vs idx ps ms : List Nat) (ws : List (List Nat))
      (hdr sg : List Byte),
    let u := s.suffer h
    let es := o.elements
    let dsts := es.map fun e => elementAt o.d.ds e.1
    let completes := fun (ins : Instr) (e code : Nat) (r : Recipe) (b : Nat) (outs : List (Nat × Nat)) =>
      Takes u c e code r q d o after → Serves u after ph e o r → r.idle o = false → after.bufferFault 0 o.inst = none → Storable o after (o.output after) b place (outs.map Prod.fst) →
        ∃ t, exec ins s = .next t ∧ Served u t c (instKey o.die e) q d ∧ Held u.mem t.mem (o.output after) b place outs
    let reads := fun (b : Nat) (ns : List Nat) => o.gets (o.src after) o.d.srcOff b after ns = .ok (vs, s1)
    let srcs := es.map Prod.snd
    let zero := iAt o.record 52 4
    let rows := chunks (geL o) (vs.length + 1) (vs.map fun v => fmul (geValue (geType o) v) (o.u 44))
    let store := fun (ys : List Nat) => ys.map (geStore (geOut o) (o.u 48))
    let perRow := fun (f : List Nat → Nat) => (o.shape rows.length 1 1).zip (store (rows.map f))
    let perElem := fun (f : Nat → List Nat → List Nat) =>
      (o.shape (geL o) rows.length 1).zip (store (((List.range rows.length).zip rows).flatMap fun e => f e.1 e.2))
    let frames := (chunks (kpN o) (vs.length + 1) ((chunks 3 (vs.length + 1) vs).map fun t =>
        ((BitVec.ofNat 16 (t.getD 0 0)).toInt, (BitVec.ofNat 16 (t.getD 1 0)).toInt, t.getD 2 0))).map
      (keypointFrame (uAt o.record 56 2) (uAt o.record 59 1) (uAt o.record 60 1) (uAt o.record 61 1))
    Calm h → (u.core c).maySignal q.sig → o.ckin = 0 → o.ckout = false →
      (reads (newtBits o) ((permutePairs o).map Prod.fst) →
        completes (.permute c ph h) 1 0 permuteRecipe (newtBits o) (((permutePairs o).map Prod.snd).zip vs)) ∧
      (o.words after (peepIndices o after) (peepCount o) = .ok idx → reads (peepBits o) (peepElements o idx) →
        completes (.gather c ph h) 2 0 gatherRecipe (peepBits o) ((o.shape (peepRow o) (peepCount o) 1).zip vs)) ∧
      (o.bytes after (o.operand after 33 36) 64 = .ok hdr → (rescaleOf hdr).sound = true →
        (if chSigsrc o then o.bytes after (o.operand after 33 56) 1 = .ok sg else sg = [BitVec.ofNat 8 (uAt o.record 34 1 % 32)]) →
        (if (rescaleOf hdr).perLane then allOk (fun e => o.word after ((o.operand after 33 36).plus 64) (e.1.headD 0)) es = .ok ms
          else ms = List.replicate es.length (u32 (rescaleOf hdr).mult)) → reads 32 srcs →
        completes (.rescale c ph h) 3 0 rescaleRecipe (ifmtBits (chFmt o)) (dsts.zip (List.zipWith (fun v m =>
          u32 (min (max (requantise (s32 v) (leNat sg) (rescaleOf hdr) (s32 m)) (fmtLo (chFmt o))) (fmtHi (chFmt o)))) vs ms))) ∧
      (allOk (fun e => chFactor o after e.1) es = .ok ps → reads 32 srcs →
        completes (.quant c ph h) 3 3 quantRecipe (ifmtBits (chFmt o)) (dsts.zip (List.zipWith (fun x f => u32 (quantOne (chFmt o) x f zero)) vs ps))) ∧
      (allOk (fun e => chFactor o after e.1) es = .ok ps → reads (if chFmt o = 6 then 32 else ifmtBits (chFmt o)) srcs →
        completes (.dequant c ph h) 3 4 dequantRecipe 32 (dsts.zip (List.zipWith (fun v f => fmul (f32OfInt (fmtInt (chFmt o) v - zero)) f) vs ps))) ∧
      (reads 32 srcs → completes (.tos8 c ph h) 3 5 tos8Recipe 8 (dsts.zip (vs.map toS8))) ∧
      (reads (geBits (geType o)) srcs →
        completes (.softmax c ph h) 4 0 softmaxRecipe (geOutBits (geOut o)) (perElem (softmaxRow o)) ∧
        (o.words after (o.operand after 33 40) (geL o) = .ok ps →
          completes (.rmsnorm c ph h) 4 1 rmsnormRecipe (geOutBits (geOut o)) (perElem fun _ z => rmsnormRow (o.u 52) (geL o) ps z)) ∧
        (o.words after (o.operand after 33 40) (2 * geL o) = .ok ps → completes (.layernorm c ph h) 4 2 layernormRecipe (geOutBits (geOut o))
          (perElem fun _ z => layernormRow (o.u 52) (geL o) (ps.take (geL o)) (ps.drop (geL o)) z)) ∧
        completes (.rsum c ph h) 4 3 rsumRecipe (geOutBits (geOut o)) (perRow sumAsc) ∧
        completes (.rmax c ph h) 4 4 rmaxRecipe (geOutBits (geOut o)) (perRow maxOf)) ∧
      (reads 16 srcs →
        completes (.keypoint c ph h) 5 1 keypointRecipe 32 ((o.shape 3 (kpN o) frames.length).zip (frames.flatMap Prod.fst))) ∧
      (let fb : Operand := { h := o.handleAt after 38, off := o.u 44 }
       let bands := bandStarts (spBands o) (idx.map fun w => (w % 65536, w / 65536))
       let oty := if spOut o = 2 then 3 else spOut o
       let nf := spFrames o o.count
       let frame := fun (f : Nat) => (List.range 257).map (powerAt (List.zipWith (fun x y => fmul (f32OfInt (BitVec.ofNat 16 x).toInt) y)
         ((vs.drop (f * spHop o)).take (spFlen o)) ps))
       o.words after fb (spBands o) = .ok idx → (∀ w ∈ idx, w % 65536 + w / 65536 ≤ 257) →
        allOk (fun (b : Nat × Nat × Nat) => allOk (fun i => o.word after fb (b.2.2 + i)) (List.range b.2.1)) bands = .ok ws →
        o.words after { h := o.handleAt after 38, off := o.u 40 } (spFlen o) = .ok ps → reads 16 srcs →
          completes (.spectrum c ph h) 5 0 spectrumFull (geOutBits oty) ((o.shape (spBands o) nf 1).zip
            (((List.range nf).flatMap fun f => (bands.zip ws).map fun b => bandOut (o.u 48) (frame f) b.1.1 b.2).map (geStore oty (o.u 52)))))) ∧
  (∀ (s after s1 : State) (c : Nat) (h : Harm) (ph : Carry) (q : DmaOp) (d : Desc) (o : Op),
    let u := s.suffer h
    let m0 := u.mem
    let ready := fun (e code : Nat) (r : Recipe) =>
      Takes u c e code r q d o after ∧ Serves u after ph e o r ∧ r.idle o = false ∧ after.bufferFault 0 o.inst = none ∧ Calm h ∧ (u.core c).maySignal q.sig
    let plain := o.ckin = 0 ∧ o.ckout = false
    let ends := fun (ins : Instr) (e : Nat) (holds : Memory → Prop) =>
      ∃ t, exec ins s = .next t ∧ Served u t c (instKey o.die e) q d ∧ holds t.mem
    let srcs := o.elements.map Prod.snd
    let src := o.src after
    let par := o.operand after 33 40
    (∀ (place : Nat → Nat) (vs idx : List Nat),
      let outs := (peepElements o idx).zip vs
      let out := o.output after
      let old := fun (e : Nat × Nat) => leNat (m0.readN (place e.1) 4)
      ready 2 1 scatterRecipe → plain → o.words after (peepIndices o after) (peepCount o) = .ok idx →
        o.gets src o.d.srcOff (peepBits o) after srcs = .ok (vs, s1) → Storable o after out (peepBits o) place (peepElements o idx) →
        (peepAcc o = 0 → ends (.scatter c ph h) 2 fun m => Held m0 m out (peepBits o) place outs) ∧
        (peepAcc o ≠ 0 → (∀ e ∈ outs, after.extentsAt o.die o.core { out with off := elemOff o.d.dstOff e.1 3 } 4 rATOM = .ok [(place e.1, 4)]) →
          (peepAcc o = 1 → ∀ e ∈ outs, -(2 ^ 31) ≤ s32 (old e) + s32 e.2 ∧ s32 (old e) + s32 e.2 < 2 ^ 31) →
          ends (.scatter c ph h) 2 fun m => Held m0 m out 32 place
            (outs.map fun e => (e.1, if peepAcc o = 1 then u32 (s32 (old e) + s32 e.2) else fadd (old e) e.2)))) ∧
    (∀ (p1 p2 : Nat → Nat) (vs : List Nat) (ext : List (Nat × Nat)),
      let found := ((List.range srcs.length).zip vs).filter fun e => nonZero (peepBits o) e.2
      let kept := found.take (peepCount o)
      let o1 := (o.shape kept.length 1 1).zip (kept.map Prod.snd)
      let o2 := (List.range kept.length).zip (kept.map Prod.fst)
      let x2 : Operand := { h := o.handleAt after 33, off := o.u 36 }
      let e1 := o1.map fun e => (p1 e.1, elemBytes (peepBits o))
      let e2 := o2.map fun e => (p2 e.1, 4)
      ready 2 2 compressRecipe → plain → o.gets src o.d.srcOff (peepBits o) after srcs = .ok (vs, s1) →
        Storable o after (o.output after) (peepBits o) p1 (o1.map Prod.fst) → Storable o after x2 32 p2 (o2.map Prod.fst) →
        Room o after (o.operand after 33 52) 4 ext → Apart e1 e2 → Apart e1 ext → Apart e2 ext →
        ends (.compress c ph h) 2 fun m => (∀ e ∈ o1, elemVal m o.d.dstOff (peepBits o) e.1 (p1 e.1) = e.2 % 2 ^ peepBits o) ∧
          (∀ e ∈ o2, leNat (m.readN (p2 e.1) 4) = e.2 % 2 ^ 32) ∧ bytesAt m ext = leBytes 4 found.length ∧
          ∀ x, ¬inExtents (e1 ++ e2 ++ ext) x → m.read x = m0.read x) ∧
    (∀ (out : Bool) (at' sc : Nat → Nat) (dst : Nat → List (Nat × Nat)) (entry : Nat → Nat),
      let coded := fun (j : Nat) => encodeGroup (leNat (m0.readN (sc j) 1)) (chAsign o)
        ((o.groups.getD j []).map fun e => a8 (chAsign o) (m0.read (at' e.1)))
      let bytes := fun (j : Nat) => plainGroup (leNat (m0.readN (sc j) 1)) (coded j)
      let off := fun (j : Nat) => (((List.range j).map bytes).map List.length).sum
      let n := o.groups.length
      let ext := fun (j : Nat) => (if out then dst j else []) ++ (if chStats o then [(entry j, 5)] else [])
      (if out then ready 3 1 encb4Recipe else ready 3 7 clipstatRecipe) → plain →
        (∀ e ∈ o.groups.flatten, after.extentsAt o.die o.core { h := src, off := (bitPlace o.d.srcOff e.1 8).1 } 1 rRD = .ok [(at' e.1, 1)] ∧
          m0.badAt (at' e.1) 1 = none ∧ ∀ j, j < n → ¬inExtents (ext j) (at' e.1)) →
        (∀ j, j < n → after.extentsAt o.die o.core (par.plus j) 1 rRD = .ok [(sc j, 1)] ∧ m0.badAt (sc j) 1 = none ∧ s8E (leNat (m0.readN (sc j) 1)) ≠ 31 ∧
          (out = true → Room o after ((o.output after).plus (off j)) (bytes j).length (dst j)) ∧
          (chStats o = true → Room o after ((o.operand after 33 44).plus (8 * j)) 5 [(entry j, 5)] ∧ Readable m0 [(entry j, 8)] ∧
            after.extentsAt o.die o.core ((o.operand after 33 44).plus (8 * j)) 8 rRD = .ok [(entry j, 8)]) ∧
          Writable m0 (ext j) ∧ ∀ i, i < n → ¬inExtents (ext j) (sc i) ∧ (i ≠ j → Apart (ext i) (ext j) ∧ Apart [(entry i, 8)] (ext j))) →
        ends (if out then .encb4 c ph h else .clipstat c ph h) 3 fun m => (∀ j, j < n → (out = true → bytesAt m (dst j) = bytes j) ∧
          (chStats o = true → m.readN (entry j) 5 = statUpdate (m0.readN (entry j) 8) (coded j))) ∧
          ∀ x, (∀ j, j < n → ¬inExtents (ext j) x) → m.read x = m0.read x) ∧
    (∀ (place : Nat → Nat) (ext : Nat → List (Nat × Nat)),
      let size := fun (j : Nat) => 1 + 8 * ceilDiv (o.groups.getD j []).length 16
      let off := fun (j : Nat) => ((List.range j).map size).sum
      let outs := (List.range o.groups.length).flatMap fun j => ((o.groups.getD j []).map Prod.snd).zip
        (((wireDecode false (chAsign o) (o.groups.getD j []).length (bytesAt m0 (ext j))).getD []).map fun y => (BitVec.ofInt 8 y).toNat)
      ready 3 2 decb4Recipe → plain →
        (∀ j, j < o.groups.length → after.extentsAt o.die o.core ((o.primary after).plus (off j)) (size j) rRD = .ok (ext j) ∧ Readable m0 (ext j) ∧
          ∀ e ∈ outs, ¬inExtents (ext j) (place e.1)) →
        Storable o after (o.output after) 8 place (outs.map Prod.fst) →
        ends (.decb4 c ph h) 3 fun m => Held m0 m (o.output after) 8 place outs) ∧
    (∀ (place : Nat → Nat) (entry : Nat → List (Nat × Nat)) (bs : List Byte),
      let n := srcs.length
      let new := fun (j : Nat) => adaptGroup (adaptOf bs) (leNat (m0.readN (place j) 1)) (bytesAt m0 (entry j))
      let x := fun (j : Nat) => ({ h := src, off := (bitPlace o.d.srcOff (srcs.getD j 0) 8).1 } : Operand)
      let e := fun (j : Nat) => (place j, 1) :: entry j
      ready 3 6 adaptRecipe → plain → o.bytes after (o.operand after 33 36) 16 = .ok bs → (adaptOf bs).sound = true →
        (∀ j, j < n → after.extentsAt o.die o.core (x j) 1 rRD = .ok [(place j, 1)] ∧ after.extentsAt o.die o.core (x j) 1 rWR = .ok [(place j, 1)] ∧
          after.extentsAt o.die o.core ((o.operand after 33 44).plus (8 * j)) 8 rRD = .ok (entry j) ∧
          Room o after ((o.operand after 33 44).plus (8 * j)) 8 (entry j) ∧ Readable m0 (e j) ∧ Writable m0 (e j) ∧
          ∀ i, i < n → i ≠ j → Apart (e i) (e j)) →
        ends (.adapt c ph h) 3 fun m => (∀ j, j < n → leNat (m.readN (place j) 1) = (new j).1 % 256 ∧ bytesAt m (entry j) = (new j).2) ∧
          ∀ a, (∀ j, j < n → ¬inExtents (e j) a) → m.read a = m0.read a) ∧
    (∀ (vs : List Nat) (b : List Byte) (e1 e2 e3 : List (Nat × Nat)),
      let r := (predictorOf b).evaluate
      let w := maskStates r r.phase (chunks 256 (vs.length + 1) (vs.map fun v => (BitVec.ofNat 8 v).toInt))
      ready 4 5 maskRecipe → plain → o.bytes after par 32 = .ok b → (predictorOf b).sound = true →
        o.gets src o.d.srcOff 8 after srcs = .ok (vs, s1) →
        Room o after (o.output after) (packStates w.1.flatten).length e1 → Room o after (o.operand after 33 56) (w.1.flatMap tileSummary).length e2 →
        Room o after par 32 e3 → Apart e1 e2 → Apart e1 e3 → Apart e2 e3 →
        ends (.mask c ph h) 4 fun m => bytesAt m e1 = packStates w.1.flatten ∧ bytesAt m e2 = w.1.flatMap tileSummary ∧
          bytesAt m e3 = ({ r with phase := w.2 } : Predictor).bytes b ∧ ∀ x, ¬inExtents (e1 ++ e2 ++ e3) x → m.read x = m0.read x) ∧
    (∀ (place : Nat → Nat) (ys : List (Nat × Bool × Bool)) (b : List Byte) (ext : List (Nat × Nat)),
      let r := predictorOf b
      let outs := (o.shape (geL o) (srcs.length / geL o) 1).zip (ys.map fun y => y.1)
      let sum := fun (k : Nat) (f : Nat × Bool × Bool → Bool) => leBytes 4 (min 0xFFFFFFFF (k + (ys.filter f).length))
      ready 4 6 gatedRecipe → plain → o.bytes after par 32 = .ok b → allOk (o.gate after r.margin) ((List.range srcs.length).zip srcs) = .ok ys →
        Storable o after (o.output after) 8 place (outs.map Prod.fst) → Room o after (par.plus 20) 8 ext →
        Apart (outs.map fun e => (place e.1, 1)) ext →
        ends (.gated c ph h) 4 fun m => (∀ e ∈ outs, leNat (m.readN (place e.1) 1) = e.2 % 256) ∧
          bytesAt m ext = sum r.audits (fun y => y.2.1) ++ sum r.misses (fun y => y.2.2) ∧
          ∀ x, ¬inExtents ((outs.map fun e => (place e.1, 1)) ++ ext) x → m.read x = m0.read x) ∧
    (∀ (a : Nat) (b : List Byte) (region : Nat → List Byte) (ctr : List (Nat × Nat)) (ext : Nat → List (Nat × Nat)),
      let blocks := if toadLen o = 0 then [(0, 0)] else checkBlocks o.cb (toadLen o)
      let n := blocks.length
      let rec' := fun (off j : Nat) => ({ h := o.handleAt after 2, off := (off + 8 * j) % 2 ^ 32 } : Operand)
      (∀ j, j < n → o.bytes after ((toadBase o after).plus (blocks.getD j (0, 0)).1) (blocks.getD j (0, 0)).2 = .ok (region j)) →
      (ready 6 0 generateRecipe → o.bytes after (o.operand after 2 32) 4 = .ok b → a = leNat b → Room o after (o.operand after 2 32) 4 ctr →
        (∀ j, j < n → Room o after (rec' (o.u 24) j) 8 (ext j) ∧ Apart ctr (ext j) ∧ (∀ i, i < n → i ≠ j → Apart (ext i) (ext j)) ∧
          ∀ e, after.extentsAt o.die o.core ((toadBase o after).plus (blocks.getD j (0, 0)).1) (blocks.getD j (0, 0)).2 rRD = .ok e →
            Apart e ctr ∧ ∀ i, i < n → Apart e (ext i)) →
        ends (.generate c ph h) 6 fun m => bytesAt m ctr = leBytes 4 ((a + 1) % 2 ^ 32) ∧
          (∀ j, j < n → bytesAt m (ext j) = leBytes 4 (blockCrc (region j) a) ++ leBytes 4 a) ∧
          ∀ x, ¬inExtents ctr x → (∀ j, j < n → ¬inExtents (ext j) x) → m.read x = m0.read x) ∧
      (ready 6 1 verifyRecipe → (o.aexp = true → a = o.alive) → a < 2 ^ 32 →
        (∀ j, j < n → o.bytes after (rec' (o.u 8) j) 8 = .ok (leBytes 4 (blockCrc (region j) a) ++ leBytes 4 a)) →
        ends (.verify c ph h) 6 fun m => ∀ x, m.read x = m0.read x)))

/-- R157, R161, R169, R170, R222, R223, R225, R228: the tile at the front of an engine's queue, on operands that it can read, leaves at each of
its entries the sum of its chain: in FP32 from ascending passes, or in int32, attempted again with its entries halved and σ one higher until it
fits. Its blocks take its σ and count; with a drain it waits to be drained, else it is counted and its instruction completes. A tile of no work
only completes. R228 to R233: the oldest drain of an engine stores the outputs of its tile, its entries as they are or through its drain chain,
each at its place, and its shift byte where the tile asks for it, and no other byte changes; the tile is then complete and counted. Where the
spec leaves a point open, the reading is the model's, of log entry 13. -/
def Obligations.TilesComplete : Prop :=
  (∀ (s : State) (e reps : Nat) (h : Harm) (t : Tile) (rest : List Tile) (rec : List Byte) (init : List Nat) (a : List (List Nat))
      (b : List (List (Nat × Nat))) (vals : Nat → Int),
    let u := s.suffer h
    let x := u.skink e
    let chain := tileChain x t
    let sigma := chain.1 + reps
    let entry := fun (r i : Nat) => chainI (chain.1 + r) (a.getD (i / t.n) []) (b.getD (i % t.n) []) (s32 (init.getD i 0) / 2 ^ r)
    let core' := { u.core t.core with sktOut := (u.core t.core).sktOut - 1 }
    skinkOk e = true → Calm h → x.queue = t :: rest → x.mayStart t = true → (u.core t.core).maySignal t.sig →
      (∀ j, (u.part t.part).job = some j → ∀ c ∈ j.cores, (u.core c).sktQ = []) →
      (t.isEmpty = true →
        ∃ v, exec (.skinkTile e h) s = .next v ∧ v.skink e = ({ x with queue := rest } : Skink).settled ∧
          v.core t.core = core'.signalled t.sig ∧ v.mem = u.mem ∧ ∀ i, i ≠ e → v.skink i = s.skink i) ∧
      (t.isEmpty = false → u.mem.badPart (skinkBase e + 4 * t.base) (4 * t.size) = none → u.tileRecord e t = .ok rec → u.tileInit e t = .ok init → allOk (u.rowA (skinkDie e) t) (List.range t.m) = .ok a →
        allOk (u.colB (skinkDie e) t) (List.range t.n) = .ok b →
        (t.isInt = true → (∀ r, r < reps → chain.1 + r < 31 ∧ (u.part t.part).policy ≠ 1 ∧ ∃ i, i < t.size ∧ entry r i = none) ∧
          ∀ i, i < t.size → entry reps i = some (vals i)) →
        (t.isInt = false → reps = 0 ∧
          ∀ i, i < t.size → vals i = chainF t (a.getD (i / t.n) []) (b.getD (i % t.n) []) (init.getD i 0)) →
        ∃ v, exec (.skinkTile e h) s = .next v ∧ (v.skink e).queue = rest ∧
          (∀ i, i < t.size → mget (v.skink e).acc 0 (t.base + i) = BitVec.ofInt 32 (vals i)) ∧
          (∀ i, ¬(t.base ≤ i ∧ i < t.base + t.size) → mget (v.skink e).acc 0 i = mget x.acc 0 i) ∧
          (∀ k, mget (v.skink e).chainSigma 0 k = if k ∈ t.blocks then sigma else mget x.chainSigma 0 k) ∧
          (∀ k, mget (v.skink e).chainCount 0 k = if k ∈ t.blocks then chain.2 else mget x.chainCount 0 k) ∧
          (v.skink e).rescales = min 0xFFFF (x.rescales + reps) ∧ (∀ i, i ≠ e → v.skink i = s.skink i) ∧ v.mem.cells = u.mem.cells ∧
          (∀ j, (u.part t.part).job = some j → ∃ g, (v.part t.part).job = some g ∧ g.rescaled = (j.rescaled || decide (reps ≠ 0)) ∧
            g.longsum = (j.longsum || (!t.isInt && decide (65536 < chain.2)))) ∧
          (t.drain = 0 → (v.skink e).tiles = min u64Max (x.tiles + 1) ∧ (v.skink e).sigma = sigma ∧ (v.skink e).draining = x.draining ∧
            v.core t.core = core'.signalled t.sig) ∧
          (t.drain ≠ 0 → (v.skink e).tiles = x.tiles ∧ (v.skink e).draining = x.draining ++ [{ tile := t, sigma := sigma, record := rec }] ∧
            v.cores = u.cores))) ∧
  (∀ (s : State) (e : Nat) (h : Harm) (d : SkinkDrain) (rest : List SkinkDrain) (out : Nat → List Byte) (place : Nat → List (Nat × Nat))
      (sig : List (Nat × Nat)),
    let u := s.suffer h
    let x := u.skink e
    let t := d.tile
    let die := skinkDie e
    let raw := fun (i : Nat) => (mget x.acc 0 (t.base + i)).toNat
    let at' := fun (i n : Nat) => t.c.plus ((((i / t.n : Nat) : Int) * t.cRs + (i % t.n : Nat)) * n)
    let core' := { u.core t.core with sktOut := (u.core t.core).sktOut - 1 }
    skinkOk e = true → Calm h → x.draining = d :: rest → u.drainHeld e d = false → (u.core t.core).maySignal t.sig →
      (∀ j, (u.part t.part).job = some j → ∀ c ∈ j.cores, (u.core c).sktQ = []) → u.mem.badAt (skinkBase e + 4 * t.base) (4 * t.size) = none →
      (∀ i, i < t.size →
        (if t.drain = 1 then out i = leBytes 4 (raw i)
          else ∃ v, u.chainElem die (2 ^ 21 + 8 * i) d.sigma t (i / t.n) (i % t.n) (slotsOf d.record) (if t.isInt then .i (s32 (raw i)) else .f (raw i)) = .ok v ∧
            out i = chainOut (uAt d.record 1 1) v ∧
            ∀ y ∈ slotsOf d.record, y.src ≠ 0 → ∃ a, u.extentsAt die t.core (({ t.x with off := 0 } : Operand).plus
                ((y.v0 : Int) + (if y.src = 1 then i % t.n else i / t.n * t.n + i % t.n) * 4)) 4 rRD = .ok [(a, 4)] ∧
              ∀ j, j < t.size → Apart [(a, 4)] (place j)) ∧
        u.extentsAt die t.core (at' i (out i).length) (out i).length rWR = .ok (place i) ∧ Writable u.mem (place i) ∧ Apart (place i) sig ∧
        (∀ j, j < t.size → j ≠ i → Apart (place i) (place j)) ∧ Apart (place i) [(skinkBase e, 2 ^ 18)]) →
      (if t.sigw then u.extentsAt die t.core (t.c.plus ((t.sOff : Int) - t.c.off)) 1 rWR = .ok sig ∧ Writable u.mem sig else sig = []) →
        ∃ v, exec (.skinkDrain e h) s = .next v ∧ (∀ i, i < t.size → bytesAt v.mem (place i) = out i) ∧
          (t.sigw = true → bytesAt v.mem sig = [BitVec.ofNat 8 d.sigma]) ∧
          (∀ y, ¬inExtents sig y → (∀ i, i < t.size → ¬inExtents (place i) y) → v.mem.read y = s.mem.read y) ∧
          v.skink e = ({ x with draining := rest, sigma := d.sigma, tiles := min u64Max (x.tiles + 1) } : Skink).settled ∧
          v.core t.core = core'.signalled t.sig ∧ (∀ i, i ≠ e → v.skink i = s.skink i) ∧ ∀ c, c ≠ t.core → v.core c = s.core c)

/-! ### Beats, links and package DRAM (R305 to R322, R425, R426) -/

/-- R25, R150, R187, R310, R316, R318, R375, R426: a write beat that its window admits takes a credit of its die's reservation, crosses in the
window's mode, encoded and decoded group by group under `B4`, with the statistics entry updated that came with it, and is stored, nothing else;
with no credit left it waits, and once its job stops it does nothing; refused by the window it faults the job; and one whose bytes change on the
way, so that its check disagrees, stores nothing and faults with 0x0308, of `UNIT` 6 where a port or a codec finds it. A beat into the die's own
store takes one of the core's four credits of its local pool. R194, R311, R316, R318: a read that its window admits is answered by its
destination and changes nothing but the counts of its accesses and of bytes that cross `WIDE`; one whose window is not open faults the job with
0x0401, one past its size with 0x0402, one without the right with 0x0403; a word that cannot be corrected faults with its code's status. R310: a
credit returned is one less in use of that window, source die and tower, or of that core's share of its local pool, and of no other. Where the
spec leaves a point open, the reading is the model's, of log entries 22 and 86. -/
def Obligations.RemoteBeatsComplete : Prop :=
  (∀ (s : State) (c win off p sc : Nat) (h : Harm) (bs : List Byte) (scales : List Nat) (stat : Option (Nat × Nat)) (ext : List (Nat × Nat))
    (ys : List Int) (v : State),
    let u := s.suffer h
    let w := u.window p win
    let die := coreDie c
    let a := firstAddr ext
    let far := dieOfAddr a
    let key := creditKey win die (creditTower a)
    let used := mget (u.part p).credits 0 key
    let own := ownScratch c a
    let plain := w.cross ≠ 1 ∨ die = far ∨ scales = []
    let coded := encodeGroup sc w.asign (bs.map (a8 w.asign))
    let counted := (if own then u else u.takeCredit p key).countGroup p w.zr coded
    let ins := Instr.remoteWrite c win off bs scales stat h
    let store := Instr.remoteWrite c 256 off bs scales stat h
    let place := localExtents (storeBase die) (2 ^ 26) 2 off bs.length
    let pool := mget (u.part p).credits 0 (poolKey c)
    let takes := fun (t : State) => ∀ x, mget (t.part p).credits 0 x = if x = key ∧ own = false then used + 1 else mget (u.part p).credits 0 x
    let faults := fun (i : Instr) (e unit : Nat) => ∃ t f, exec i s = .next t ∧ (t.part p).faults = (u.part p).faults ++ [f] ∧ f.status = e ∧
      f.unit = unit ∧ t.mem = u.mem
    let changed := fun (flips : List Byte) =>
      beatChecks a ((List.range bs.length).map fun i => bs.getD i 0 ^^^ flips.getD i 0) ≠ beatChecks a bs
    coreOk c = true → winOk win = true → (u.core c).part = some p → bs ≠ [] → off % 64 + bs.length ≤ 64 →
      (3 ≤ u.jobState p → exec ins s = .next { u with harm := s.harm } ∧ exec store s = .next { u with harm := s.harm }) ∧
      (u.jobState p < 3 →
        (∀ e, u.windowAt die p win off bs.length rWR = .error e →
          ∃ t f, exec ins s = .next t ∧ (t.part p).faults = (u.part p).faults ++ [f] ∧ f.status = statusOf e ∧ t.mem = u.mem) ∧
        (u.windowAt die p win off bs.length rWR = .ok ext →
          (own = false → w.credits ≤ used → exec ins s = .next { u with harm := s.harm }) ∧
          (own = true ∨ used < w.credits →
            (plain → h.beat = none → Writable u.mem ext →
              ∃ t, exec ins s = .next t ∧ OnlyData c (u.tallyAccess (some p) ext) t ∧ t.cores = u.cores ∧ Stored u.mem t.mem ext bs ∧ takes t ∧
                mget (t.part p).counters 0 cWideBytes =
                  (if w.cross = 2 ∧ die ≠ far then min u64Max (mget (u.part p).counters 0 cWideBytes + bs.length)
                  else mget (u.part p).counters 0 cWideBytes)) ∧
            (¬plain → Calm h → scales = [sc] → s8E sc ≠ 31 → bs.length ≤ groupSize w.gsize →
              wireDecode w.zr w.asign bs.length (if w.zr then zrGroup sc coded else plainGroup sc coded) = some ys →
              noteStats c stat 0 coded counted = .ok v → Writable v.mem ext →
                ∃ t, exec ins s = .next t ∧ Stored v.mem t.mem ext (ys.map fun y => BitVec.ofInt 8 y) ∧ takes t ∧ t.cores = u.cores ∧
                  mget (t.part p).counters 0 cB4Groups = min u64Max (mget (u.part p).counters 0 cB4Groups + 1)) ∧
            (∀ port flips, h.beat = some (0, port, flips) → changed flips →
              (plain → own = false → faults ins 0x0308 (if port then 6 else 3)) ∧ (¬plain → faults ins 0x0308 6)))) ∧
        (u.cached p = true → faults store 0x0104 3) ∧
        (u.cached p = false →
          (4 ≤ pool → exec store s = .next { u with harm := s.harm }) ∧
          (pool < 4 → h.beat = none → Writable u.mem place →
            ∃ t, exec store s = .next t ∧ OnlyData c (u.tallyAccess (some p) place) t ∧ t.cores = u.cores ∧ Stored u.mem t.mem place bs ∧
              ∀ x, mget (t.part p).credits 0 x = if x = poolKey c then pool + 1 else mget (u.part p).credits 0 x)))) ∧
  (∀ (s : State) (c win off n p : Nat) (h : Harm) (scales : List Nat) (ext : List (Nat × Nat)),
    let u := s.suffer h
    let w := u.window p win
    let far := dieOfAddr (firstAddr ext)
    let ins := Instr.remoteRead c win off n scales h
    let faults := fun (st : Nat) => ∃ t f, exec ins s = .next t ∧ (t.part p).faults = (u.part p).faults ++ [f] ∧ f.status = st ∧ t.mem = u.mem
    coreOk c = true → winOk win = true → (u.core c).part = some p → u.jobState p < 3 → u.cached p = false → 0 < n →
      (∀ st, (w.isOpen = false ∧ st = 0x0401) ∨ (w.isOpen = true ∧ w.size ≤ off ∧ st = 0x0402) ∨
          (w.isOpen = true ∧ off < w.size ∧ w.rights.testBit 0 = false ∧ st = 0x0403) → h.err = none → faults st) ∧
      (u.windowAt (coreDie c) p win off n rRD = .ok ext →
        (Readable u.mem ext → h.beat = none → w.cross ≠ 1 ∨ coreDie c = far ∨ scales = [] →
          (w.cross = 2 ∧ far ≠ coreDie c →
            ∃ t, exec ins s = .next t ∧ t = { u.tallyAccess (some p) ext with parts := t.parts, harm := s.harm } ∧ (∀ q, q ≠ p → t.part q = u.part q) ∧
              mget (t.part p).counters 0 cWideBytes = min u64Max (mget (u.part p).counters 0 cWideBytes + n)) ∧
          (¬(w.cross = 2 ∧ far ≠ coreDie c) → exec ins s = .next { u.tallyAccess (some p) ext with harm := s.harm })) ∧
        ∀ e x, ext = [x] → u.mem.badAt x.1 x.2 = some e → faults (statusOf e))) ∧
  (∀ (s : State) (p win src tower : Nat),
    let key := returnKey win src tower
    partOk p = true → creditOk win src tower = true →
      ∃ t, exec (.creditReturn p win src tower) s = .next t ∧ t = { s with parts := t.parts } ∧
        mget (t.part p).credits 0 key = mget (s.part p).credits 0 key - 1 ∧
        (∀ k, k ≠ key → mget (t.part p).credits 0 k = mget (s.part p).credits 0 k) ∧ ∀ q, q ≠ p → t.part q = s.part q)

/-- R305, R306: while both directions of a link start flits, the sender starts a new flit with its next number and the last that it received, and
keeps it until it is acknowledged, at most 32; or the next flit of a replay. Arriving sound and in order it is accepted and counted, and its
acknowledgment and link-level credits reach the far sender; out of order it is discarded and gives no credits. Damaged so that `LCRC` disagrees
it is not: the receiver counts it, charges the lanes whose parity disagrees, and discards until a replay. R305, R306: an acknowledgment releases
the flits up to its number, a replay request begins a replay with the oldest flit still kept, and the credits returned are its channel's. R307,
R308: once a link has drained and retrained, failing lanes within the four spares of a direction are replaced by them; else it steps down to 32
good lanes and the device asks to be replaced; with fewer it goes down in both directions. Until then nothing happens. R319 to R322: a row due
with a spare row left is remapped to it, a spare row in service too; a channel with a row due and none left goes to the tower's spare channel,
and with that used up fails, its reads faulting from then on; the patrol counts what it corrects, marks what it cannot, and moves on. Where the
spec leaves a point open, the reading is the model's, of log entries 22 and 68. -/
def Obligations.LinksAndTowersComplete : Prop :=
  (∀ (s : State) (l : Nat) (dir : Bool) (f : Flit),
    let k := linkKey l dir
    let o := oppositeKey k
    let x := s.link k
    let back := s.link o
    let new : SentFlit := { vc := f.vc % 4, lcred := f.lcred % 2 ^ 16, payload := f.payload.take 256 }
    let crosses := fun (g : SentFlit) (seq : Nat) (after : LinkDir) =>
      let bs := flipBits (flitBytes g seq (back.expect + 63) back.discarding) f.flips
      (f.flips = [] → (x.expect + 64 - seq % 64) % 64 = 0 →
        ∃ t, exec (.flit l dir f) s = .next t ∧ t = { s with links := t.links, power := t.power } ∧
          t.link k = { after with expect := (x.expect + 1) % 64, discarding := false, flits := min u64Max (x.flits + 1) } ∧
          t.link o = (back.acknowledged (back.expect + 63) back.discarding).credited g.lcred ∧ ∀ i, i ≠ k → i ≠ o → t.link i = s.link i) ∧
      (f.flips = [] → (x.expect + 64 - seq % 64) % 64 ≠ 0 →
        ∃ t, exec (.flit l dir f) s = .next t ∧ t = { s with links := t.links, power := t.power } ∧ (t.link k).expect = x.expect ∧
          (t.link k).flits = x.flits ∧ t.link o = back.acknowledged (back.expect + 63) back.discarding ∧ ∀ i, i ≠ k → i ≠ o → t.link i = s.link i) ∧
      (flitCrc bs ≠ leNat ((bs.drop 4).take 4) →
        ∃ t, exec (.flit l dir f) s = .next t ∧ t = { s with links := t.links, power := t.power } ∧ t.link k = after.mismatch (badLanes bs) ∧
          (t.link k).expect = x.expect ∧ (t.link k).discarding = true ∧ (t.link k).flits = x.flits ∧
          (t.link k).crcErrs = min 0xFFFF (x.crcErrs + 1) ∧ ∀ i, i ≠ k → t.link i = s.link i)
    linkOk l = true →
      (x.flows = true → back.flows = true →
        (x.replaying = false → x.kept.length < 32 → crosses new x.sent { x with sent := (x.sent + 1) % 64, kept := x.kept ++ [new] }) ∧
        (x.replaying = false → 32 ≤ x.kept.length → exec (.flit l dir f) s = .next s) ∧
        (∀ g rest, x.replaying = true → x.kept.drop x.resend = g :: rest → g.lcred < 2 ^ 16 → g.vc < 4 →
          crosses g (x.oldest + x.resend) { x with resend := x.resend + 1, replaying := !rest.isEmpty })) ∧
      (x.flows = false ∨ back.flows = false → exec (.flit l dir f) s = .next s)) ∧
  (∀ (x : LinkDir) (n lcred : Nat) (replay : Bool), n ≤ x.kept.length → x.kept.length ≤ 32 → x.sent < 64 →
    let t := x.acknowledged (x.oldest + n + 63) replay
    t.kept = x.kept.drop n ∧ t.sent = x.sent ∧ t.expect = x.expect ∧
      (replay = true → x.replaying = false → n < x.kept.length → t.replaying = true ∧ t.resend = 0) ∧
      t.lcred = x.lcred ∧ mget (x.credited lcred).lcred 0 (lcred / 2 ^ 14 % 4) = mget x.lcred 0 (lcred / 2 ^ 14 % 4) + lcred % 2 ^ 14) ∧
  (∀ (s : State) (l : Nat) (dir : Bool),
    let k := linkKey l dir
    let o := oppositeKey k
    let d := s.link k
    let good := 64 - (d.dead ++ d.failing).length
    let ins := Instr.laneSubstitution l dir
    linkOk l = true →
      (d.failing = [] ∨ d.retrain < 4 → exec ins s = .next s) ∧
      (d.failing ≠ [] → 4 ≤ d.retrain →
        (d.lanes = 64 → d.spares.length + d.failing.length ≤ 4 →
          ∃ t, exec ins s = .next t ∧ (t.link k).state = 2 ∧ (t.link k).failing = [] ∧ (t.link k).lanes = d.lanes ∧
            (t.link k).spares.length = d.spares.length + d.failing.length ∧ (t.link k).retrains = min 255 (d.retrains + 1) ∧ (t.link k).retrain = 0 ∧
            (∀ i, i ≠ k → t.link i = s.link i) ∧ t.mem = s.mem) ∧
        (d.lanes ≠ 64 ∨ 4 < d.spares.length + d.failing.length →
          (32 ≤ good →
            ∃ t, exec ins s = .next t ∧ (t.link k).state = 3 ∧ (t.link k).lanes = 32 ∧ (t.link k).stepped = true ∧ (t.link k).failing = [] ∧
              (t.link k).dead = d.dead ++ d.failing ∧ t.hub.replaceMe = true ∧ (∀ i, i ≠ k → t.link i = s.link i) ∧ t.mem = s.mem) ∧
          (good < 32 →
            ∃ t, exec ins s = .next t ∧ (t.link k).state = 0 ∧ (t.link k).down = true ∧ (t.link o).state = 0 ∧ (t.link o).down = true ∧
              t.linkDown l = true ∧ t.hub.replaceMe = true ∧ (∀ i, i ≠ k → i ≠ o → t.link i = s.link i) ∧ t.mem = s.mem)))) ∧
  (∀ (s : State) (w row ch beat wrong : Nat),
    let t0 := s.tower w
    let a := towerBase w + beat * 64
    let key := t0.rowKey w beat
    let due := (∃ e ∈ t0.rowReads, e.1 % 32 = ch ∧ 4 ≤ e.2) ∧ ch ∈ t0.inService ∧ t0.rowsLeft w ch = 0 ∧ ch ∉ t0.failed
    let others := fun (t : State) => ∀ i, i ≠ w → t.tower i = s.tower i
    towerOk w = true →
      (4 ≤ mget t0.rowReads 0 row → row % 32 ∈ t0.inService → t0.rowsLeft w (row % 32) ≠ 0 →
        ∃ t, exec (.rowRemap w row) s = .next t ∧ t = { s with towers := t.towers } ∧ (t.tower w).remappedRows = t0.remappedRows ++ [row] ∧
          mget (t.tower w).rowReads 0 row = 0 ∧ (t.tower w).remapped = min 0xFFFFFFFF (t0.remapped + 1) ∧ others t) ∧
      (¬(4 ≤ mget t0.rowReads 0 row ∧ row % 32 ∈ t0.inService ∧ t0.rowsLeft w (row % 32) ≠ 0) → exec (.rowRemap w row) s = .next s) ∧
      (due → t0.spareUsed = false →
        ∃ t, exec (.channelRetire w ch) s = .next t ∧ (t.tower w).spareUsed = true ∧ (t.tower w).channels = t0.channels ∧
          (t.tower w).inService = t0.inService.map (fun c => if c = ch then 16 else c) ∧ t.mem = s.mem ∧ others t) ∧
      (due → t0.spareUsed = true →
        ∃ t, exec (.channelRetire w ch) s = .next t ∧ (t.tower w).failed = t0.failed ++ [ch] ∧ t.hub.replaceMe = true ∧ t.mem = s.mem ∧ others t) ∧
      (¬due → exec (.channelRetire w ch) s = .next s) ∧
      (beat * 64 < t0.channels * 3 * 2 ^ 30 →
        (wrong ≤ 2 → a ∉ s.mem.bad →
          ∃ t, exec (.dramPatrol w beat wrong) s = .next t ∧ t = { s with towers := t.towers } ∧ (t.tower w).patrolBeat = beat + 1 ∧ others t ∧
            (t.tower w).corrected = (if wrong = 0 then t0.corrected else min 0xFFFFFFFF (t0.corrected + 1)) ∧
            ∀ r, mget (t.tower w).rowReads 0 r = if r = key ∧ wrong ≠ 0 then (if wrong = 2 then 4 else mget t0.rowReads 0 r + 1)
              else mget t0.rowReads 0 r) ∧
        (2 < wrong ∨ a ∈ s.mem.bad →
          ∃ t, exec (.dramPatrol w beat wrong) s = .next t ∧ (t.mem.badAt a 64).isSome = true ∧ (t.tower w).uncorr = min 0xFFFFFFFF (t0.uncorr + 1) ∧
            (mget t.hub.alarms Alarm.reset 7).raised = true ∧ t.mem.cells = s.mem.cells ∧ others t)) ∧
      (t0.channels * 3 * 2 ^ 30 ≤ beat * 64 →
        ∃ t, exec (.dramPatrol w beat wrong) s = .next t ∧ t = { s with towers := t.towers } ∧ t.tower w = { t0 with patrolBeat := beat + 1 } ∧ others t))

/-! ### Ports, time and SLP (R326 to R344, R355 to R361, R476) -/

/-- R326, R328, R330: a port answers ARP requests, neighbour solicitations and echo requests for its own addresses in its VLAN, with MACsec on
under its transmit association's next packet number; a frame of another VLAN, and an echo request for another address, is dropped and counted,
and one that does not validate is MACsec's discard. The MAC discards a frame of more than the MTU plus 54 bytes; which bytes make up the 54 is
log entry 102 (DEDUCED). R328, R330, R332: a frame discarded for its form counts in `:12` of its port, one that MACsec discards in that port's
own count, and an SLP message whose header or length is bad in the device's. Table 11.2, R436, Table 18.3: a port that is on shows its link's new
state, in the role that it has; the management port's first link completes the start-up, and alarm 13 tells a reset that the hub began. R329: on
the port that carries time a Sync is stamped with the tick of its arrival; its Follow_Up gives the time of that tick, the measured link delay
added. As initiator the device sends a request, and the two messages of the answer set the delay; as responder it answers with both. On another
port such a message does nothing. 3 s without a Sync make the time invalid and raise alarm 14. Where the spec leaves a point open, the reading is
the model's, of log entries 22, 90 and 102. -/
def Obligations.FramesComplete : Prop :=
  (∀ (s : State) (p a : Nat) (w : Wrap) (v6 data : List Byte) (f : Frame) (ins : Instr), portOk p = true → s.portLive p = true →
    s.portVal p 6 = a → s.portV6 p = v6 → a ≠ 0 → v6 ≠ [] → frameBytes w (48 + data.length) ≤ s.portVal p 8 + 54 →
    (ins, f) ∈ [(Instr.arpRequest p w a, Frame.arp p a (s.portVal p 3)), (.neighbourSolicitation p w v6, .advertisement p v6 (s.portVal p 3)),
        (.echoRequest p w v6 data, .echo p v6 data), (.echoRequest p w (v4Bytes a) data, .echo p (v4Bytes a) data)] →
      (s.macsecOn p = false →
        (w.sec = none → s.vlanOk p w = true → exec ins s = .next { s.accepted p with
          slp := { (s.accepted p).slp with wire := s.slp.wire ++ [{ frame := f, vlan := s.portTag p, sec := none }] } }) ∧
        (w.sec ≠ none ∨ s.vlanOk p w = false → exec ins s = .next (s.discarded p)) ∧
        (w.sec = none → s.vlanOk p w = true → ∀ x, x ≠ v6 → x ≠ v4Bytes a → exec (.echoRequest p w x data) s = .next (s.discarded p))) ∧
      (s.macsecOn p = true → ∀ sa, (s.port p).txSa = some sa → sa.2.2.2 < 2 ^ 32 - 1 →
        ((s.port p).validates w = true → s.vlanOk p w = true →
          ∃ t, exec ins s = .next t ∧ t.slp.wire = s.slp.wire ++ [{ frame := f, vlan := s.portTag p, sec := some sa }] ∧
            (t.port p).txSa = some (sa.1, sa.2.1, sa.2.2.1, sa.2.2.2 + 1) ∧ (t.port p).rxSas = ((s.port p).heard w).rxSas ∧
            (t.port p).accepted = min (2 ^ 64 - 1) ((s.port p).accepted + 1) ∧ ∀ r, r ≠ p → t.port r = s.port r) ∧
        ((s.port p).validates w = true → s.vlanOk p w = false → exec ins s = .next ((s.updPort p fun q => q.heard w).discarded p)) ∧
        ((s.port p).validates w = false → exec ins s = .next (s.macsecLost p))) ∧
      ∀ x long, s.portVal p 8 + 54 < frameBytes w (ipHeader x + 8 + long.length) → exec (.echoRequest p w x long) s = .next (s.discarded p)) ∧
  (∀ (s : State) (p : Nat) (w : Wrap), portOk p = true → s.portLive p = true →
    (∀ why ∈ [DiscardReason.fcs, .length, .pause], exec (.discardedFrame p w why) s = .next (s.discarded p)) ∧
    (s.macsecOn p = true → exec (.discardedFrame p w .macsec) s = .next (s.macsecLost p)) ∧
    (s.macsecOn p = false → w.sec = none → s.vlanOk p w = true →
      (∀ why ∈ [DiscardReason.address, .udpPort, .fragment, .ipOptions, .checksum, .type], exec (.discardedFrame p w why) s = .next (s.discarded p)) ∧
      ∀ why ∈ [DiscardReason.hcrc, .slpLength],
        ∃ t, exec (.discardedFrame p w why) s = .next t ∧ t.slp.discarded = min (2 ^ 64 - 1) (s.slp.discarded + 1) ∧
          (t.port p).accepted = min (2 ^ 64 - 1) ((s.port p).accepted + 1) ∧ t.slp.sessions = s.slp.sessions ∧ t.slp.wire = s.slp.wire ∧ t.mem = s.mem)) ∧
  (∀ (s : State) (p l : Nat), portOk p = true → s.hub.phase = .running → s.portVal p 1 ≠ 0 → l < 4 →
    (s.roleFits p l = true →
      (p ≠ 16 ∨ s.hub.startPhase ≠ 11 ∨ l < 2 → exec (.portLinkChange p l) s = .next (s.updPort p fun q => { q with link := l })) ∧
      (p = 16 → s.hub.startPhase = 11 → 2 ≤ l →
        ∃ t, exec (.portLinkChange p l) s = .next t ∧ (t.port p).link = l ∧ t.hub.startPhase = 15 ∧ t.hub.warmCause = 0 ∧ t.mem = s.mem ∧
          (s.hub.warmCause < 2 → t.hub.alarms = s.hub.alarms) ∧
          (2 ≤ s.hub.warmCause → (mget t.hub.alarms Alarm.reset 13).raised = true ∧ (mget t.hub.alarms Alarm.reset 13).detail = s.hub.warmCause))) ∧
    ((l = 2 ∧ s.portVal p 2 = 1) ∨ (l = 3 ∧ s.portVal p 2 = 0) → exec (.portLinkChange p l) s = .next s)) ∧
  (∀ (s : State) (p ns : Nat) (d : Int) (w w2 : Wrap),
    let base := s.hub.time
    let out (f : Frame) : Sent := { frame := f, vlan := s.portTag p, sec := none }
    (portOk p = true → s.portLive p = true → s.macsecOn p = false → w.sec = none → s.vlanOk p w = true → w2.sec = none → s.vlanOk p w2 = true →
      (s.timePort = p →
        (∃ t, exec (.sync p w) s = .next t ∧ t.hub.time = { base with lastSync := s.hub.tick, syncSeen := true } ∧ t.mem = s.mem) ∧
        (base.syncSeen = true →
          ∃ t, exec (.followUp p w ns) s = .next t ∧ t.hub.time.valid = true ∧ t.hub.time.baseTick = base.lastSync ∧
            t.hub.time.baseNs = ((ns : Int) + base.linkDelay).toNat % 2 ^ 64 ∧ t.hub.time.syncSeen = false) ∧
        (∃ t, exec (.peerDelay p true w w2 d) s = .next t ∧ t.hub.time = { base with linkDelay := (BitVec.ofInt 32 d).toInt } ∧
          t.slp.wire = s.slp.wire ++ [out (.peerDelayReq p)]) ∧
        (∃ t, exec (.peerDelay p false w w2 d) s = .next t ∧ t.hub = s.hub ∧
          t.slp.wire = s.slp.wire ++ [out (.peerDelayResp p), out (.peerDelayFollowUp p)])) ∧
      (s.timePort ≠ p → ∀ ins ∈ [Instr.sync p w, .followUp p w ns, .peerDelay p true w w2 d, .peerDelay p false w w2 d], exec ins s = .next s)) ∧
    (base.valid = true → base.lastSync + 12500000 ≤ s.hub.tick →
      ∃ t, exec .timeInvalid s = .next t ∧ t.hub.time = { base with valid := false } ∧ (mget t.hub.alarms Alarm.reset 14).raised = true ∧
        t.mem = s.mem))

/-- R341, R355, R476: a `DREAD` at its turn, of a log entry too, is answered with the entry's bytes as they are when its turn comes; a refused
one with the status of the first rule it breaks. R355, R357, R358, R497: a `DWRITE` to an RWS entry at its turn changes the session's staged copy
only: the values in force, memory and every unit stay. One that a rule refuses is answered with its status and changes not even that. -/
def Obligations.DictionaryAccessCompletes : Prop :=
  (∀ (s s' : State) (r : Req) (q p q' : Session) (st : Nat) (v : List Byte), Turn s 0x10 r q p s' q' → r.payload.length = 16 → badAccess r.payload = false →
    ((s'.readEntry q' (accIndex r.payload) (accSub r.payload) (accOff r.payload) (accLen r.payload) = .ok v ∧ st = 0) ∨
      (s'.readEntry q' (accIndex r.payload) (accSub r.payload) (accOff r.payload) (accLen r.payload) = .error st ∧ v = [])) →
      ∀ ins, ins = Instr.dread r ∨ (ins = .logRead r ∧ isLog (accIndex r.payload) (accSub r.payload) = true) →
        ∃ t x m k, exec ins s = .next t ∧ t.session r.session = some x ∧ (m, k) ∈ x.unacked ∧ m.type = 0x90 ∧ m.status = st ∧ m.payload = v ∧
          m.seq = q'.txNext ∧ t.mem = s.mem ∧ t.dict = s.dict ∧ t.parts = s.parts) ∧
  (∀ (s s' : State) (r : Req) (q p q' : Session),
    let bs := r.payload
    let n := accLen bs
    let answered := fun (t : State) (x : Session) (st : Nat) => t.session r.session = some x ∧ ∃ m k, (m, k) ∈ x.unacked ∧ m.type = 0x91 ∧ m.status = st
    let others := fun (t : State) => t.dict = s.dict ∧ t.mem = s.mem ∧ t.macros = s.macros ∧ t.parts = s.parts ∧ t.rings = s.rings ∧
      t.tenants = s.tenants ∧ t.power = s.power
    Turn s 0x11 r q p s' q' → badAccess bs = false → 16 + n ≤ bs.length → bs.length ≤ (16 + n + 7) / 8 * 8 →
      (∀ b e u, s'.resolve q' (accIndex bs) (accSub bs) true = .ok (b, e) → e.access ≠ 2 →
        s'.stage r.session q' b e (accIndex bs) (accOff bs) ((bs.drop 16).take n) = .ok u →
          ∃ t x y, exec (.dwrite r) s = .next t ∧ others t ∧ answered t x 0 ∧ u.session r.session = some y ∧ x.staged = y.staged) ∧
      (∀ st, (s'.resolve q' (accIndex bs) (accSub bs) true = .error st ∨
          ∃ b e, s'.resolve q' (accIndex bs) (accSub bs) true = .ok (b, e) ∧
            (e.access ≠ 2 ∧ s'.stage r.session q' b e (accIndex bs) (accOff bs) ((bs.drop 16).take n) = .error st ∨
              e.access = 2 ∧ (accOff bs ≠ 0 ∨ n ≠ 1) ∧ st = 0x0416 ∨ e.access = 2 ∧ accOff bs = 0 ∧ n = 1 ∧ 1 < numAt bs 16 1 ∧ st = 0x0104)) →
        ∃ t x, exec (.dwrite r) s = .next t ∧ others t ∧ answered t x st ∧ x.staged = q'.staged))

/-- R334, R336, R363, R448, R458: an admitted `OPEN` makes a session that was none before, not numbered 0, with the partition and tenant that it
names and nothing staged or received; its reply, of `SEQ` 0, carries the number and the boot epoch and waits to be acknowledged. One that is
refused makes none, and its reply carries the status. R334, R336, R358: a `CLOSE` at its turn closes the session: its number is no session's, its
staged copies are gone, and the log records it. Where the spec leaves a point open, the reading is the model's, of log entry 26. -/
def Obligations.SessionsComplete : Prop :=
  (∀ (s : State) (r : Req) (u : State), portOk r.port = true → s.takeMessage 0x01 r = (u, true) →
    (u.openStatus r = 0 →
      ∃ t n x m k, exec (.openSession r) s = .next t ∧ s.session n = none ∧ n ≠ 0 ∧ t.session n = some x ∧ x.part = numAt r.payload 0 1 ∧
        x.tenant = numAt r.payload 4 4 ∧ x.port = r.port ∧ x.addr = r.addr ∧ x.udp = r.udp ∧ x.rxNext = 1 ∧ x.txNext = 1 ∧ x.staged = [] ∧
        x.inbox = [] ∧ x.unacked = [(m, k)] ∧ m.type = 0x81 ∧ m.seq = 0 ∧ m.status = 0 ∧
        m.payload = leBytes 4 n ++ leBytes 4 s.hub.bootEpoch ∧ t.mem = s.mem ∧ t.dict = s.dict ∧ ∀ j, j ≠ n → t.session j = s.session j) ∧
    (∀ st, u.openStatus r = st → st ≠ 0 →
      ∃ t f m d, exec (.openSession r) s = .next t ∧ t.slp.sessions = s.slp.sessions ∧ t.slp.wire = s.slp.wire ++ [f] ∧ f.frame = .slp m d ∧
        m.type = 0x81 ∧ m.status = st ∧ m.payload = leBytes 4 0 ++ leBytes 4 s.hub.bootEpoch ∧ t.mem = s.mem ∧ t.dict = s.dict)) ∧
  (∀ (s s' : State) (r : Req) (q p q' : Session), Turn s 0x02 r q p s' q' → r.payload = [] →
    ∃ t, exec (.closeSession r) s = .next t ∧ t.session r.session = none ∧ t.mem = s.mem ∧ t.macros = s.macros ∧
      (∀ n, n ≠ r.session → (t.session n).isSome = (s.session n).isSome) ∧
      ∃ e, e.cls = 6 ∧ e.code = 2 ∧ (16 ≤ q.part → t.hub.log.due = s.hub.log.due ++ [e]) ∧
        (q.part < 16 → (t.part q.part).log.due = (s.part q.part).log.due ++ [e]))

/-- R318, R338, R339: a `WRITE` of one beat without check records, which its window admits, crosses in the window's mode and is stored where the
window says, nothing else, and is answered with 0; any sound `WRITE` stores its beats and records in order up to the first that faults, and is
answered with its status. R318, R338, R340: a `READ` without check records, which its window admits, is answered with the window's bytes as they
cross, `ALIVE` 0; it changes no memory. One whose data or records meet a fault is answered with its status. R344: a doorbell of one entry moves
`SUB_TAIL`, or frees completion slots up to `CMP_HEAD`, of a ring of the session's partition; one that is refused moves neither. A message of
several acts on each in order and is answered with the status of the first refused. Where the spec leaves a point open, the reading is the
model's, of log entries 60 and 62. -/
def Obligations.BulkAccessCompletes : Prop :=
  (∀ (s s' v : State) (h : Harm) (r : Req) (q p q' : Session) (ext : List (Nat × Nat)) (y : List Byte) (st : Nat),
    let b := readBulk r.payload
    let data := r.payload.drop 32
    let w := s'.window q'.part b.win
    let answered := fun (t : State) (e : Nat) => ∃ x m k, t.session r.session = some x ∧ (m, k) ∈ x.unacked ∧ m.type = 0xA0 ∧ m.status = e
    Turn (s.suffer h) 0x20 r q p s' q' → q'.part < 16 → badBulk r.payload (s'.maxCb q') = false → b.dlen = 0 →
      (b.cb = 0 → data.length = 64 → h.beat = none → s'.windowAt 19 q'.part b.win b.off 64 rHWR = .ok ext →
        s'.bufferFault 3 0 = none → s'.throughB4 q'.part 19 (dieOfAddr (firstAddr ext)) (firstAddr ext) w (hostScales q'.part b.win b.off 64 w)
          (fun _ _ s => .ok s) data = (v, .ok y) → y.length = 64 → Writable v.mem ext →
          ∃ t, exec (.bulkWrite r h) s = .next t ∧ Stored v.mem t.mem ext y ∧ (w.cross ≠ 1 → y = data) ∧ t.macros = s'.macros ∧ t.dict = s'.dict ∧
            answered t 0) ∧
      (data.length % b.unit = 0 →
        (if b.cb = 0 then ((State.storeBeats q'.part b.win data.length b.off data s').1, (State.storeBeats q'.part b.win data.length b.off data s').2.1)
          else State.storeBlocks q'.part b r.alive data.length 0 data s') = (v, st) →
          ∃ t, exec (.bulkWrite r h) s = .next t ∧ t.mem = v.mem ∧ t.macros = v.macros ∧ answered t (statusOf st))) ∧
  (∀ (s s' v : State) (h : Harm) (r : Req) (q p q' : Session) (ext : List (Nat × Nat)) (bs y : List Byte),
    let b := readBulk r.payload
    let w := s'.window q'.part b.win
    let answered := fun (t : State) (e : Nat) (bs : List Byte) (a : Option Nat) => ∃ x m k, t.session r.session = some x ∧ (m, k) ∈ x.unacked ∧
      m.type = 0xA1 ∧ m.status = e ∧ m.payload = bs ∧ ∀ v, a = some v → m.alive = v
    Turn (s.suffer h) 0x21 r q p s' q' → q'.part < 16 → badBulk r.payload (s'.maxCb q') = false → r.payload.length = 32 →
      b.dlen ≤ s'.payloadLimit q'.port - 32 → (b.cb ≠ 0 → b.dlen % b.unit = 0) →
      (b.cb = 0 → h.beat = none → s'.windowAt 19 q'.part b.win b.off b.dlen rHRD = .ok ext → readExtents s'.mem ext = .ok bs →
        s'.throughB4 q'.part (dieOfAddr (firstAddr ext)) 19 (firstAddr ext) w (hostScales q'.part b.win b.off b.dlen w) (fun _ _ s => .ok s) bs =
          (v, .ok y) → v.bufferFault 3 0 = none →
          ∃ t, exec (.bulkRead r h) s = .next t ∧ t.mem = s'.mem ∧ t.macros = s'.macros ∧ (w.cross ≠ 1 → y = bs) ∧ answered t 0 y (some 0)) ∧
      (∀ e u, s'.readBulkData q'.part b = (u, .error e) →
        ∃ t, exec (.bulkRead r h) s = .next t ∧ t.mem = s'.mem ∧ t.macros = s'.macros ∧ answered t (statusOf e) [] none) ∧
      (∀ d a u, s'.readBulkData q'.part b = (u, .ok (d, a)) → ∃ t, exec (.bulkRead r h) s = .next t ∧ t.mem = u.mem ∧ answered t 0 d a)) ∧
  (∀ (s s' u : State) (r : Req) (q p q' : Session) (ins : Instr) (st : Nat),
    let k := numAt r.payload 0 2
    let kind := numAt r.payload 2 1
    let i := numAt r.payload 4 4
    let answered := fun (t : State) (e : Nat) => ∃ x m k, t.session r.session = some x ∧ (m, k) ∈ x.unacked ∧ m.type = 0xB0 ∧ m.status = e
    Turn s 0x30 r q p s' q' → badBells r.payload = false → (ins = .doorbellSubTail r ∧ kind ≠ 1) ∨ (ins = .doorbellCmpHead r ∧ kind = 1) →
      (r.payload.length = 8 →
        (kind = 0 → s'.bellStatus q' k kind i = 0 →
          ∃ t, exec ins s = .next t ∧ t.rings = (s'.setRing k { s'.ring k with subTail := i }).rings ∧ t.mem = s.mem ∧ answered t 0) ∧
        (kind = 1 → s'.bellStatus q' k kind i = 0 → (s.part (s'.ring k).part).flushing = false →
          ∃ t, exec ins s = .next t ∧ t.rings = (s'.setRing k { s'.ring k with cmpHead := i }).rings ∧ t.mem = s.mem ∧ answered t 0) ∧
        (s'.bellStatus q' k kind i ≠ 0 → ∃ t, exec ins s = .next t ∧ t.rings = s.rings ∧ t.mem = s.mem ∧ answered t (s'.bellStatus q' k kind i))) ∧
      (State.ringBells q' 16 r.payload (s', 0) = (u, st) →
        ∃ t, exec ins s = .next t ∧ t.rings = u.rings ∧ t.parts = u.parts ∧ t.mem = u.mem ∧ answered t st))

/-- R494, Table 18.6: `IDCODE` returns 0x21620FCB: stepping 2, part 0x1620, the manufacturer code and the fixed one; nothing else of the device
changes. -/
def Obligations.IdcodeReturns : Prop :=
  ∀ (s : State),
    ∃ t, exec .idcode s = .next t ∧ t = { s with hub := { s.hub with tap := t.hub.tap, tapReg := 0x21620FCB } } ∧ t.hub.tapReg / 2 ^ 28 % 2 ^ 4 = 2 ∧
      t.hub.tapReg / 2 ^ 12 % 2 ^ 16 = 0x1620 ∧ t.hub.tapReg / 2 % 2 ^ 11 = 0b11111100101 ∧ t.hub.tapReg % 2 = 1

/-- R332, R335 to R338, R355: a request whose layout Tables 11.4 to 11.8 do not allow is answered with 0x0603, a bulk transfer of no partition
with 0x0412, and neither acts. A message ahead of its turn is held, one received before is acknowledged again, and one of no session is answered
with 0x0604. Where the spec leaves a point open, the reading is the model's, of log entries 58, 59 and 90. -/
def Obligations.RequestsRefused : Prop :=
  ∀ (s s' u : State) (type : Nat) (r : Req) (h : Harm) (q p q' : Session) (ins : Instr),
    let bs := r.payload
    let b := readBulk bs
    let answered := fun (t : State) (st : Nat) => (∃ x m k, t.session r.session = some x ∧ (m, k) ∈ x.unacked ∧ m.type = type + 0x80 ∧ m.status = st) ∧
      t.mem = s'.mem ∧ t.dict = s'.dict ∧ t.rings = s'.rings ∧ t.macros = s'.macros
    (Turn s type r q p s' q' →
      (ins, type) = (.closeSession r, 0x02) ∧ bs ≠ [] ∨
        (ins, type) = (.dread r, 0x10) ∧ (badAccess bs = true ∨ bs.length ≠ 16) ∨
        (ins, type) = (.dwrite r, 0x11) ∧ (badAccess bs = true ∨ bs.length < 16 + accLen bs ∨ (16 + accLen bs + 7) / 8 * 8 < bs.length) ∨
        ((ins, type) = (.doorbellSubTail r, 0x30) ∧ numAt bs 2 1 ≠ 1 ∨ (ins, type) = (.doorbellCmpHead r, 0x30) ∧ numAt bs 2 1 = 1) ∧ badBells bs = true →
      ∃ t, exec ins s = .next t ∧ answered t 0x0603) ∧
    (Turn (s.suffer h) type r q p s' q' → (ins, type) ∈ [(Instr.bulkWrite r h, 0x20), (.bulkRead r h, 0x21)] →
      (16 ≤ q'.part → ∃ t, exec ins s = .next t ∧ answered t 0x0412) ∧
      (q'.part < 16 → badBulk bs (s'.maxCb q') = true ∨ (type = 0x20 ∧ b.dlen ≠ 0) ∨ (type = 0x21 ∧ bs.length ≠ 32) →
        ∃ t, exec ins s = .next t ∧ answered t 0x0603)) ∧
    ((ins, type) ∈ [(Instr.closeSession r, 0x02), (.dread r, 0x10), (.dwrite r, 0x11)] → portOk r.port = true → s.takeMessage type r = (u, true) →
      (s.session r.session = none →
        ∃ t f m d, exec ins s = .next t ∧ t.slp.sessions = s.slp.sessions ∧ t.slp.wire = s.slp.wire ++ [f] ∧ f.frame = .slp m d ∧
          m.type = type + 0x80 ∧ m.status = 0x0604 ∧ m.session = r.session ∧ t.mem = s.mem ∧ t.dict = s.dict) ∧
      (s.session r.session = some q → q.addr = r.addr → q.udp = r.udp → (u.acknowledge r.session r.ack).session r.session = some p →
        (0 < q.ahead r.seq → q.ahead r.seq ≤ 63 → (p.held.any fun e => e.2.seq == r.seq) = false →
          ∃ t x, exec ins s = .next t ∧ t.session r.session = some x ∧ x.held = p.held ++ [(type, r)] ∧ x.rxNext = p.rxNext ∧ x.ackDue = true ∧
            t.mem = s.mem ∧ t.dict = s.dict) ∧
        (2 ^ 31 ≤ q.ahead r.seq →
          ∃ t x, exec ins s = .next t ∧ t.session r.session = some x ∧ x = { p with ackDue := true } ∧ t.mem = s.mem ∧ t.dict = s.dict)))

/-- R335, R336: an `ACK` releases every message sent up to its number and no other. A session that owes an acknowledgment sends it; a message
whose timer runs out is sent again, under its own number, and after the eighth transmission the session closes. R343, R476: completion records
that wait for a session, and log records that its stream has not sent, leave in the session's next message, oldest first, as many as a message
holds, of log records those of one tick; a loss before them is told. Where the spec leaves a point open, the reading is the model's, of log entry
64. -/
def Obligations.TransportCompletes : Prop :=
  (∀ (s u : State) (n i c : Nat) (r : Req) (q : Session) (m : Msg),
    (portOk r.port = true → s.takeMessage 0x7F r = (u, true) → s.session r.session = some q → q.addr = r.addr → q.udp = r.udp →
      ∃ t x, exec (.ackMessage r) s = .next t ∧ t.session r.session = some x ∧ x.rxNext = q.rxNext ∧ t.mem = s.mem ∧ t.dict = s.dict ∧
        x.unacked.map Prod.fst = (q.unacked.filter fun e => e.2 == 0 || decide (2 ^ 31 ≤ (r.ack + 2 ^ 32 - e.1.seq) % 2 ^ 32)).map Prod.fst) ∧
    (s.session n = some q →
      (q.ackDue = false → exec (.sendAck n) s = .next s) ∧
      (q.ackDue = true → s.portSpeaks q.port = true →
        ∃ t x f g d, exec (.sendAck n) s = .next t ∧ t.session n = some x ∧ x = { q with ackDue := false } ∧ t.slp.wire = s.slp.wire ++ [f] ∧
          f.frame = .slp g d ∧ g.type = 0x7F ∧ g.ack = q.ackNo ∧ g.session = n ∧ t.mem = s.mem) ∧
      (q.unacked.drop i = (m, c) :: q.unacked.drop (i + 1) →
        (1 ≤ c → c < 8 → s.portSpeaks m.port = true →
          ∃ t x f d, exec (.retransmission n i) s = .next t ∧ t.session n = some x ∧ x.unacked = q.unacked.set i (m, c + 1) ∧
            t.slp.wire = s.slp.wire ++ [f] ∧ f.frame = .slp { m with ack := q.ackNo } d ∧
            t.slp.retransmitted = min (2 ^ 64 - 1) (s.slp.retransmitted + 1) ∧ t.mem = s.mem) ∧
        (8 ≤ c → ∃ t, exec (.retransmission n i) s = .next t ∧ t.session n = none ∧ t.mem = s.mem)))) ∧
  (∀ (s : State) (n : Nat) (q : Session), s.session n = some q → q.unacked.length < 64 →
    let k := s.perMessage q
    let told := fun (t : State) (type : Nat) (loss : Bool) (bs : List Byte) =>
      (∃ x m j, t.session n = some x ∧ (m, j) ∈ x.unacked ∧ m.type = type ∧ m.payload = bs ∧ m.loss = loss) ∧ t.mem = s.mem ∧ t.dict = s.dict
    (q.completes ≠ [] →
      ∃ t x, exec (.complete n) s = .next t ∧ told t 0x40 q.completeLoss (q.completes.take k).flatten ∧ t.session n = some x ∧
        x.completes = q.completes.drop k ∧ x.completeLoss = false) ∧
    (q.completes = [] → exec (.complete n) s = .next s) ∧
    (let r := s.hub.log.stream 255 s.hub.stream k
     s.dval 0x7000 0 3 0 = n → n ≠ 0 → r.1 ≠ [] →
      ∃ t, exec (.event n true) s = .next t ∧ told t 0x41 r.2.2 (r.1.flatMap LogRec.bytes) ∧ t.hub.stream = r.2.1 ∧ t.hub.log = s.hub.log) ∧
    (let a := s.part q.part
     let r := a.log.stream q.part a.stream k
     q.part < 16 → s.dval 0x7020 q.part 1 0 = n → n ≠ 0 → r.1 ≠ [] →
      ∃ t, exec (.event n false) s = .next t ∧ told t 0x41 r.2.2 (r.1.flatMap LogRec.bytes) ∧ (t.part q.part).stream = r.2.1 ∧
        (t.part q.part).log = a.log))

/-! ### The blocks (R105 to R108, R360 to R366, R369 to R372, R378, R445 to R463) -/

/-- R360, R361: a commit of any block that the block's rules grant leaves memory, cores, macros, rings, power and tenants as those rules leave
them, and is answered with 0, its staged copy gone; one that they refuse is answered with its status and changes nothing but its block's result,
the copy kept. A flush reads rings, and suffers what befalls these reads. `COMMIT_DISCARD` drops the copy and nothing else. R358, R360:
`COMMIT_DISCARD` drops the session's staged copy of the block and leaves every value in force, memory and every unit as it was. Where the spec
leaves a point open, the reading is the model's, of log entry 15. -/
def Obligations.CommitsComplete : Prop :=
  (∀ (s₀ s s' u : State) (n port index st : Nat) (h : Harm) (ins : Instr) (test : Staged → Bool) (q q' : Session) (b : Block) (c : Staged)
      (closes : List Nat),
    ((ins, index, test) = (Instr.flush n h, 0x2010, asks 1 2) ∧ s = s₀.suffer h) ∨ (s = s₀ ∧
    (ins, index, test) ∈ [(Instr.kill n, 0x2010, asks 1 1), (.hold n, 0x2010, asks 1 3), (.release n, 0x2010, asks 1 4),
        (.ringCommit n, 0x8100, anyCopy), (.windowOpen n, 0x8400, asks 2 1), (.windowClose n, 0x8400, asks 2 2),
        (.partitionCreate n, 0x2000, asks 0xA 1), (.partitionRemove n, 0x2000, asks 0xA 2), (.fullPlacement n, 0x2100, asks 4 1),
        (.emptyReloadList n, 0x2100, asks 4 2), (.tenantCommit n, 0x6010, anyCopy), (.budgetCommit n, 0x3000, anyCopy),
        (.weightCommit n, 0x3010, anyCopy), (.paceCommit n, 0x3020, anyCopy), (.railCommit n, 0x3040, anyCopy), (.alertCommit n, 0x3050, anyCopy),
        (.thermalCommit n, 0x4000, anyCopy), (.arrayMaintenanceCommit n, 0x5110, anyCopy), (.sramPatrolCommit n, 0x5120, anyCopy),
        (.dramPatrolCommit n, 0x5210, anyCopy), (.overflowPolicyCommit n, 0x9010, anyCopy), (.portCommit n port, portIndex port, anyCopy),
        (.slpSettingsCommit n, 0x1020, anyCopy), (.timeCommit n, 0x1040, anyCopy), (.queryStored n, 0x5130, asks 2 0),
        (.queryRemeasure n, 0x5130, asks 2 1), (.queryShadow n, 0x5130, asks 2 2), (.accumulatorRead n, 0xA020, anyCopy),
        (.alarmClear n, 0x7000, anyCopy), (.traceCommit n, 0x7020, anyCopy), (.quote n, 0x6030, anyCopy), (.debugCommit n, 0x6040, anyCopy),
        (.install n port, keyIndex port, asks 7 1), (.delete n port, keyIndex port, asks 7 2), (.clearTenants n, 0x6100, asks 3 3),
        (.raiseMinimum n, 0x6100, asks 3 4)]) →
      portOk port = true → Samples s n index test q b c s' q' →
        (s'.verdict q' c = .ok (u, closes) → (u.session n).isSome = true →
          ∃ t, exec ins s₀ = .next t ∧ t.mem = u.mem ∧ t.cores = u.cores ∧ t.macros = u.macros ∧ t.rings = u.rings ∧ t.power = u.power ∧
            t.tenants = u.tenants ∧ (closes = [] → Granted t n c)) ∧
        (s'.verdict q' c = .error st →
          ∃ t, exec ins s₀ = .next t ∧ SameUnits s t ∧ t.parts = s.parts ∧ t.power = s.power ∧ t.tenants = s.tenants ∧ t.hub = s.hub ∧ Denied t n q st ∧
            ∀ k, k ≠ dkey index c.inst 0x10 → k ≠ dkey index c.inst 0x12 → mget t.dict [] k = mget s.dict [] k)) ∧
  (∀ (s : State) (n index : Nat) (q : Session) (b : Block) (e : Entry),
    let q' : Session := { q with rxNext := (q.rxNext + 1) % 2 ^ 32, ackDue := true }
    s.session n = some q → blockAt index = some b → s.sessionFree n q = true → q.held = [] → (b.entry 0xFF).isSome = true →
      (s.setSession n q').resolve q' index 0xFF true = .ok (b, e) → e.access = 2 →
        ∃ t y, exec (.commitDiscard n index) s = .next t ∧ t.session n = some y ∧ y.copy index (b.inst q) = none ∧ t.dict = s.dict ∧ SameUnits s t ∧
          t.parts = s.parts ∧ t.tenants = s.tenants ∧ t.power = s.power)

/-- R108, R336, R366, R417, R420, R422, R435, Tables 3.7, 5.7, 10.9, 11.3, 11.7, 15.3: a commit of a block of settings puts every staged value in
force; a budget or weight sets the base shares, with what partitions lend and borrow, a lower host maximum decides a level. A value outside its
range has the whole commit refused with 0x0104. R327, R419, R461, R471, R475, R476: a port's values stand, and a new mode, role or MTU drops its
link; a MACsec association is installed, or deleted, as staged. A rail block waits for the next 1 ms reading. Alarms of the mask whose condition
does not hold are cleared, but for replace-me; a stream that changes its session begins with the next record (log entry 47, DEDUCED). That a
port's commit is refused with 0x0603 for every value, and not for `MODE` alone as Table 11.2 says, is log entry 25. Where the spec leaves a point
open, the reading is the model's, of log entries 25 and 47. -/
def Obligations.SettingsCommitted : Prop :=
  (∀ (s s' : State) (n index : Nat) (ins : Instr) (q q' : Session) (b : Block) (c : Staged) (ranges : List (Nat × Nat × Nat)),
    (ins, index, ranges) ∈ [(Instr.slpSettingsCommit n, 0x1020, [(1, 200, 64000)]), (.timeCommit n, 0x1040, [(1, 0, 16)]),
        (.arrayMaintenanceCommit n, 0x5110, [(1, 100, 5000), (2, 2, 20), (3, 1, 600)]), (.sramPatrolCommit n, 0x5120, [(1, 1, 168)]),
        (.dramPatrolCommit n, 0x5210, [(1, 1, 168)]), (.budgetCommit n, 0x3000, [(1, 400, 3400)]), (.weightCommit n, 0x3010, [(1, 1, 1000)]),
        (.paceCommit n, 0x3020, [(1, 0, 7)]), (.thermalCommit n, 0x4000, [(1, 85, 100)]), (.overflowPolicyCommit n, 0x9010, [(1, 0, 1)]),
        (.alertCommit n, 0x3050, [])] →
      Samples s n index anyCopy q b c s' q' →
        ((∀ r ∈ ranges, r.2.1 ≤ c.num r.1 ∧ c.num r.1 ≤ r.2.2) →
          ∃ t, exec ins s = .next t ∧ Granted t n c ∧ InForce s t c ∧ SameUnits s t ∧ t.tenants = s.tenants ∧ t.power = s.power ∧
            (index = 0x3000 ∨ index = 0x3010 → ∀ p ∈ s.partsHere, (t.part p).share = ((t.baseShare p : Int) + (s.part p).lendNet).toNat) ∧
            (index = 0x3020 → t.hostCap c.inst < (s.part c.inst).level → s.clampActive c.inst = false →
              ∃ l, (t.part c.inst).decided = some l ∧ l ≤ t.hostCap c.inst)) ∧
        (∀ r ∈ ranges, c.num r.1 < r.2.1 ∨ r.2.2 < c.num r.1 →
          ∃ t, exec ins s = .next t ∧ Denied t n q 0x0104 ∧ t.dict = s.dict ∧ SameUnits s t ∧ t.parts = s.parts ∧ t.power = s.power)) ∧
  (∀ (s s' : State) (n port : Nat) (q q' : Session) (b : Block) (c : Staged), portOk port = true →
    let p := c.inst
    let x := s.port port
    (Samples s n (portIndex port) anyCopy q b c s' q' →
      (badPort port c = false →
        ∃ t, exec (.portCommit n port) s = .next t ∧ Granted t n c ∧ InForce s t c ∧ SameUnits s t ∧
          (∀ r, r ≠ port → (t.port r).link = (s.port r).link) ∧
          (t.port port).link = if s.portVal port 1 ≠ c.num 1 ∨ s.portVal port 2 ≠ c.num 2 ∨ s.portVal port 8 ≠ c.num 8 then 0 else x.link) ∧
      (badPort port c = true → ∃ t, exec (.portCommit n port) s = .next t ∧ Denied t n q 0x0603 ∧ t.dict = s.dict ∧
        ∀ r, (t.port r).link = (s.port r).link)) ∧
    (c.num 1 ≤ 1 → c.num 2 ≤ 3 →
      (Samples s n (keyIndex port) (asks 7 1) q b c s' q' → (c.bytes 3).length = 32 → (c.num 1 = 1 → c.num 5 ≠ 0) →
        ∃ t, exec (.install n port) s = .next t ∧ Granted t n c ∧ (∀ r, r ≠ port → (t.port r).rxSas = (s.port r).rxSas) ∧ SameUnits s t ∧
          (c.num 1 = 0 → ∃ pn, (t.port port).txSa = some (c.num 2, c.bytes 3, c.num 4, pn) ∧ (q.port ≠ port → pn = c.num 5)) ∧
          (c.num 1 = 1 → (t.port port).rxSas = mput x.rxSas (c.num 2) (c.bytes 3, c.num 4, c.num 5, c.num 6))) ∧
      (Samples s n (keyIndex port) (asks 7 2) q b c s' q' →
        ∃ t, exec (.delete n port) s = .next t ∧ Granted t n c ∧ (∀ r, r ≠ port → (t.port r).rxSas = (s.port r).rxSas) ∧ SameUnits s t ∧
          (c.num 1 = 0 → ∀ a, x.txSa = some a → a.1 = c.num 2 → (t.port port).txSa = none) ∧
          (c.num 1 = 1 → (t.port port).rxSas = mdrop x.rxSas fun k => k == c.num 2))) ∧
    (Samples s n 0x3040 anyCopy q b c s' q' → (∀ r, r < 24 → badRail r (c.num (r + 1)) = false) →
      ∃ t, exec (.railCommit n) s = .next t ∧ Granted t n c ∧ t.dict = s.dict ∧ SameUnits s t ∧
        t.power = { s.power with newRails := some ((List.range 24).map fun r => c.num (r + 1)) }) ∧
    (Samples s n 0x7000 anyCopy q b c s' q' → c.num 2 < 2 ^ 15 → s'.streamOk (c.num 3) s'.isAdmin = true →
      ∃ t, exec (.alarmClear n) s = .next t ∧ Granted t n c ∧ InForce s t c ∧ SameUnits s t ∧
        t.hub.stream = (if s.dval 0x7000 0 3 0 = c.num 3 then s.hub.stream else s.hub.log.next) ∧
        ∀ a, mget t.hub.alarms Alarm.reset a =
          if a < 15 ∧ (c.num 2).testBit a ∧ a ≠ 12 ∧ (s'.store c fun _ => true).alarmActive a = false then Alarm.reset else mget s.hub.alarms Alarm.reset a) ∧
    (Samples s n 0x7020 anyCopy q b c s' q' → c.num 2 < 32 → s'.streamOk (c.num 1) (fun x => x.part == p) = true →
      ∃ t, exec (.traceCommit n) s = .next t ∧ Granted t n c ∧ InForce s t c ∧ SameUnits s t ∧
        (t.part p).stream = if s.dval 0x7020 p 1 0 = c.num 1 then (s.part p).stream else (s.part p).log.next))

/-- R373, R375, R378, R379, Table 13.5: a kill ends the job in hand with 0x0701, stopping its units, or, of a job that stops or clears already,
forbids its restart; a fault reported in the same tick ranks above it. A flush kills, holds the partition, and completes every waiting descriptor
with 0x0701; hold and release set and clear the hold. Where the spec leaves a point open, the reading is the model's, of log entry 44. -/
def Obligations.JobControl : Prop :=
  ∀ (s s' : State) (h : Harm) (n k a : Nat) (r : Ring) (bs : List Byte) (q q' : Session) (b : Block) (c : Staged),
    let p := c.inst
    let u := s.suffer h
    let stopped := fun (s t : State) => t.mem = s.mem ∧ t.rings = s.rings ∧
      (∀ i, (s.core (macCore i)).part = some p → (t.mac i).queue = [] ∧ (t.mac i).run = none ∧ (t.mac i).drainBuf = none) ∧
      ∀ i, (s.core i).part = some p → (t.core i).dmaQ = [] ∧ (t.core i).memQ = [] ∧ (t.core i).sktQ = []
    let killed := fun (s t : State) (x : Job) => (t.part p).job = some x ∧ x.killed = true ∧ x.ring = (s.jobOf p).ring ∧ x.slot = (s.jobOf p).slot ∧
      x.tag = (s.jobOf p).tag
    (Samples s n 0x2010 (asks 1 1) q b c s' q' →
      ((s.part p).job = none → ∃ t, exec (.kill n) s = .next t ∧ Granted t n c ∧ (t.part p).job = none ∧ SameUnits s t) ∧
      (∀ j, (s.part p).job = some j →
        (j.state = 1 ∨ (j.state = 2 ∧ (s.part p).faults = []) →
          ∃ t x, exec (.kill n) s = .next t ∧ Granted t n c ∧ killed s t x ∧ x.state = 3 ∧ x.status = 0x0701 ∧ stopped s t) ∧
        (∀ f fs, j.state = 2 → (s.part p).faults = f :: fs →
          ∃ t x, exec (.kill n) s = .next t ∧ Granted t n c ∧ killed s t x ∧ x.state = 3 ∧ x.status = (firstFault f fs).status ∧ t.mem = s.mem) ∧
        (3 ≤ j.state → (s.part p).faults = [] →
          ∃ t x, exec (.kill n) s = .next t ∧ Granted t n c ∧ killed s t x ∧ x.status = j.status ∧
            x.state = (if j.state = 4 ∧ j.cleared = true then 5 else j.state) ∧ SameUnits s t))) ∧
    (Samples u n 0x2010 (asks 1 2) q b c s' q' →
      (∀ j, (u.part p).job = some j → j.state = 1 ∨ (j.state = 2 ∧ (u.part p).faults = []) →
        ∃ t x, exec (.flush n h) s = .next t ∧ Granted t n c ∧ killed u t x ∧ x.state = 3 ∧ x.status = 0x0701 ∧ stopped u t ∧ (t.part p).held = true ∧
          (t.part p).flushing = true) ∧
      ((u.part p).job = none → (∀ e ∈ u.ringsOf p, e.2.waiting = 0) →
        ∃ t, exec (.flush n h) s = .next t ∧ Granted t n c ∧ (t.part p).held = true ∧ (t.part p).flushing = false ∧ SameUnits u t) ∧
      ((u.part p).job = none → u.ringsOf p = [(k, r)] → u.ring k = r → r.size ≠ 0 → r.waiting = 1 → r.subHead < 2 ^ 32 → r.subTail < 2 ^ 32 →
        (r.cmpTail + 2 ^ 32 - r.cmpHead) % 2 ^ 32 < r.size → h.beat = none → u.descriptor p r (r.subHead % r.size) = .ok bs → u.recordRoom p r a →
          ∃ t, exec (.flush n h) s = .next t ∧ Granted t n c ∧ (t.part p).held = true ∧ (t.part p).flushing = false ∧ t.ring k = r.advance 0 ∧
            IsRecord (t.mem.readN a 32) r { Job.reset with ring := k, slot := r.subHead % r.size, tag := (readDesc bs).tag } 0x0701 0 ∧
            ∀ x, ¬(a ≤ x ∧ x < a + 32) → t.mem.read x = u.mem.read x)) ∧
    (∀ ins v, (ins, v) ∈ [(Instr.hold n, 3), (.release n, 4)] → Samples s n 0x2010 (asks 1 v) q b c s' q' →
      ∃ t, exec ins s = .next t ∧ Granted t n c ∧ (t.part p).held = (v == 3) ∧ (t.part p).job = (s.part p).job ∧
        (t.part p).flushing = (s.part p).flushing ∧ SameUnits s t)

/-- R310, R314 to R317, R342: a window commit is refused with the first status that applies; else the partition's next version holds the window,
with its pages, or closed, and builds, the version in force kept. A ring commit is refused or gives the ring its staged values and its indices 0.
Where the spec leaves a point open, the reading is the model's, of log entries 25 and 30. -/
def Obligations.WindowsAndRings : Prop :=
  ∀ (s s' : State) (n : Nat) (q q' : Session) (b : Block) (c : Staged),
    let p := c.inst
    let w := c.num 1
    let x := s.part p
    let new := stagedWindow c.num
    let put := fun (t : State) (v : Window) => (t.part p).newWindows = some (mset x.latest Window.reset w v) ∧ 0x8400 ∈ (t.part p).building ∧
      (t.part p).windows = x.windows ∧ SameUnits s t ∧ Granted t n c
    (Samples s n 0x8400 (asks 2 1) q b c s' q' →
      let plain := new.badField = false ∧ s.badUnit p new = false
      (∀ st, (new.badField = true ∧ st = 0x0408) ∨ (new.badField = false ∧ s.badUnit p new = true ∧ st = 0x0404) ∨
          (plain ∧ s.ringNames p w = true ∧ st = 0x0409) ∨ (plain ∧ s.ringNames p w = false ∧ s.allocate p w new = none ∧ st = 0x0405) →
        ∃ t, exec (.windowOpen n) s = .next t ∧ Denied t n q st ∧ SameUnits s t ∧ t.parts = s.parts) ∧
      (∀ pages, plain → s.ringNames p w = false → s.allocate p w new = some pages →
        let full := { new with pages := pages }
        (∀ st, (262144 < s.entriesUsed p w + pages.length ∧ st = 0x0406) ∨
            (s.entriesUsed p w + pages.length ≤ 262144 ∧ s.noCredits p w full = true ∧ st = 0x0407) →
          ∃ t, exec (.windowOpen n) s = .next t ∧ Denied t n q st ∧ SameUnits s t ∧ t.parts = s.parts) ∧
        (s.entriesUsed p w + pages.length ≤ 262144 → s.noCredits p w full = false → ∃ t, exec (.windowOpen n) s = .next t ∧ put t full))) ∧
    (Samples s n 0x8400 (asks 2 2) q b c s' q' →
      (s.ringNames p w = true → ∃ t, exec (.windowClose n) s = .next t ∧ Denied t n q 0x0409 ∧ SameUnits s t ∧ t.parts = s.parts) ∧
      (s.ringNames p w = false → ∃ t, exec (.windowClose n) s = .next t ∧ put t Window.reset)) ∧
    (Samples s n 0x8100 anyCopy q b c s' q' →
      let r := s.ring w
      let part := if s.isAdmin q then c.num 2 else r.part
      let v : Nat → Nat := fun sub => if sub = 2 then part else c.num sub
      let mine := s.isAdmin q = true ∨ r.part = q.part
      let fits := (part < 16 ∨ part = 255) ∧ c.num 7 ≤ 3 ∧ w < 32768
      (∀ st, (¬mine ∧ st = 0x0410) ∨ (mine ∧ ¬fits ∧ st = 0x0104) ∨ (mine ∧ fits ∧ s.ringBusy w = true ∧ st = 0x0708) ∨
          (mine ∧ fits ∧ s.ringBusy w = false ∧ s.badArea v = true ∧ st = 0x0709) →
        ∃ t, exec (.ringCommit n) s = .next t ∧ Denied t n q st ∧ SameUnits s t ∧ t.parts = s.parts) ∧
      (mine → fits → s.ringBusy w = false → s.badArea v = false →
        ∃ t, exec (.ringCommit n) s = .next t ∧ Granted t n c ∧ t.mem = s.mem ∧ (∀ k, k ≠ w → t.ring k = s.ring k) ∧
          t.ring w = { Ring.reset with part := part, size := c.num 3, rwin := c.num 4, subOff := c.num 5, cmpOff := c.num 6, prio := c.num 7,
                                       sess := c.num 8, alive0 := c.num 9, nextAlive := c.num 9 }))

/-- R297, R360, R365, R369 to R372, R384, R392, R463, Table 13.1: a commit creates an absent partition on the dies named, owned by the tenant
named, at level 12, with no window and no job, in state 1 or, where dies must be erased first, 3; changes one that exists; or removes one: its
windows close, its rings are disabled, its sessions close. Refusals come first. A placement commit begins a full placement from the profile, or
empties the reload list. Where the spec leaves a point open, the reading is the model's, of log entry 32. -/
def Obligations.PartitionCommits : Prop :=
  ∀ (s s' : State) (n : Nat) (q q' : Session) (b : Block) (c : Staged),
    let p := c.inst
    let v := c.num
    let dies := (List.range 16).filter fun d => (v 1).testBit d
    let erase := s.toErase (v 2) dies
    let sound := badPartition v = false ∧ (s.slotOf (v 2)).isSome = true
    let denied := fun (ins : Instr) (st : Nat) => ∃ t, exec ins s = .next t ∧ Denied t n q st ∧ SameUnits s t ∧ t.parts = s.parts
    (Samples s n 0x2000 (asks 0xA 1) q b c s' q' →
      (∀ st, (¬(sound ∧ v 1 ≠ 0) ∧ st = 0x0104) ∨ (sound ∧ v 1 ≠ 0 ∧ s.exists_ p = true ∧ s.partBusy p = true ∧ st = 0x070B) ∨
        (sound ∧ v 1 ≠ 0 ∧ ¬(s.exists_ p = true ∧ s.partBusy p = true) ∧ s.taken p v = true ∧ st = 0x070A) → denied (.partitionCreate n) st) ∧
      (sound → v 1 ≠ 0 → s.taken p v = false →
        (s.exists_ p = false →
          ∃ t, exec (.partitionCreate n) s = .next t ∧ Granted t n c ∧ t.partDies p = dies ∧ t.owner p = v 2 % 2 ^ 32 ∧
            (t.part p).state = (if erase = [] then 1 else 3) ∧ (t.part p).erasing = erase ∧ (t.part p).level = 12 ∧ (t.part p).windows = [] ∧
            (t.part p).job = none ∧ (t.part p).counters = [] ∧ (t.part p).log.recs = (s.part p).log.recs ∧
            (∀ d ∈ dies, (t.die d).level = 12 ∧ (d ∉ erase → mget t.spares.owners 0 d = v 2)) ∧ SameUnits s t) ∧
        (s.exists_ p = true → s.partBusy p = false →
          ∃ t, exec (.partitionCreate n) s = .next t ∧ t.partDies p = dies ∧ t.owner p = v 2 % 2 ^ 32 ∧
            (dies ≠ s.partDies p → (t.part p).state = 1 ∨ (t.part p).state = 3) ∧ t.macros = s.macros ∧
            (v 2 = s.owner p → Granted t n c) ∧
            (v 2 ≠ s.owner p → (∀ m x, s.session m = some x → x.part = p → t.session m = none) ∧
              (t.part p).debug = 0 ∧ t.dbytes 0x6040 p 1 = [0] ∧ ∀ k, (s.ring k).part = p → (t.ring k).size = 0 ∧ (t.ring k).part = p)))) ∧
    (Samples s n 0x2000 (asks 0xA 2) q b c s' q' →
      (∀ st, (¬sound ∧ st = 0x0104) ∨ (sound ∧ s.exists_ p = false ∧ st = 0x0414) ∨
        (sound ∧ s.exists_ p = true ∧ s.partBusy p = true ∧ st = 0x070B) ∨
        (sound ∧ s.exists_ p = true ∧ s.partBusy p = false ∧ s.taken p v = true ∧ st = 0x070A) → denied (.partitionRemove n) st) ∧
      (sound → s.exists_ p = true → s.partBusy p = false → s.taken p v = false →
        ∃ t, exec (.partitionRemove n) s = .next t ∧ (t.part p).state = 3 ∧ t.dbytes 0x2000 p 0xA = [2] ∧ (t.part p).removing = true ∧ (t.part p).windows = [] ∧
          (∀ m x, s.session m = some x → x.part = p → t.session m = none) ∧
          (∀ k, (s.ring k).part = p → (t.ring k).size = 0 ∧ (t.ring k).part = 255) ∧ t.macros = s.macros)) ∧
    (let len := (c.bytes 3).length
     let fits := len = 0 ∨ len = 512 * (s.partDies p).length + 4
     (Samples s n 0x2100 (asks 4 1) q b c s' q' →
       (fits → ∃ t, exec (.fullPlacement n) s = .next t ∧ Granted t n c ∧ InForce s t c ∧ 0x2100 ∈ (t.part p).building ∧
         (t.part p).nextVersion = (s.part p).nextVersion + 1 ∧ (t.part p).waiting = some ((s'.store c fun _ => true).fullPlacement p (c.bytes 3)) ∧
         (t.part p).placement = (s.part p).placement ∧ SameUnits s t) ∧
       (¬fits → denied (.fullPlacement n) 0x0104)) ∧
     (Samples s n 0x2100 (asks 4 2) q b c s' q' → fits →
       ∃ t, exec (.emptyReloadList n) s = .next t ∧ Granted t n c ∧ (t.part p).reload = [] ∧ (t.part p).placement = (s.part p).placement ∧ SameUnits s t))

/-- R362, R447, R449, R454, R455, R457, R460, R463: a tenant slot takes its staged values, no other slot changes and the sessions of a tenant
that leaves close; in recovery mode with the strap set the tenants are cleared; the minimum version rises to that of the running firmware once it
is verified. A quote uses the epoch key's next leaf and leaves body, signature and epoch record. Debug mode acts at once without a job in hand,
else at the next boundary. Each is refused with the status of the rule it breaks; 0x0104 for a minimum version that is raised while the image
verified is not the one that runs is log entry 49 (DEDUCED), which no rule names. Where the spec leaves a point open, the reading is the model's,
of log entries 49 and 52. -/
def Obligations.SecurityCommits : Prop :=
  ∀ (s s' : State) (n : Nat) (q q' : Session) (b : Block) (c : Staged),
    let p := c.inst
    let h := s.hub
    let denied := fun (ins : Instr) (st : Nat) => ∃ t, exec ins s = .next t ∧ Denied t n q st ∧ SameUnits s t ∧ t.parts = s.parts ∧
      t.tenants = s.tenants ∧ t.hub = s.hub
    (Samples s n 0x6010 anyCopy q b c s' q' →
      (∀ st, s.tenantRefusal c = some st → denied (.tenantCommit n) st) ∧
      (s.tenantRefusal c = none →
        ∃ t, exec (.tenantCommit n) s = .next t ∧ mget t.tenants Tenant.reset (c.num 1) = stagedTenant c ∧
          (∀ k, k ≠ c.num 1 → mget t.tenants Tenant.reset k = mget s.tenants Tenant.reset k) ∧ SameUnits s t ∧
          (∀ m ∈ s'.tenantCloses (mget s.tenants Tenant.reset (c.num 1)) (stagedTenant c), t.session m = none) ∧
          (n ∉ s'.tenantCloses (mget s.tenants Tenant.reset (c.num 1)) (stagedTenant c) → Granted t n c))) ∧
    (let fits := c.num 1 % 4096 = 0 ∧ c.num 1 < 2 ^ 25 ∧ (c.bytes 2).length ≤ 4096
     (Samples s n 0x6100 (asks 3 3) q b c s' q' →
       (¬fits → denied (.clearTenants n) 0x0104) ∧
       (fits → h.phase ≠ .recovery ∨ h.straps.testBit 3 = true → denied (.clearTenants n) 0x0426) ∧
       (fits → h.phase = .recovery → h.straps.testBit 3 = false →
         ∃ t, exec (.clearTenants n) s = .next t ∧ t.tenants = [] ∧ SameUnits s t ∧ Granted t n c)) ∧
     (Samples s n 0x6100 (asks 3 4) q b c s' q' →
       (¬fits ∨ h.verified ≠ h.fwHash ∨ h.fwHash = [] → denied (.raiseMinimum n) 0x0104) ∧
       (fits → h.verified = h.fwHash → h.fwHash ≠ [] →
         ∃ t, exec (.raiseMinimum n) s = .next t ∧ t.hub.svnMin = max h.svnMin h.svn ∧ SameUnits s t ∧ Granted t n c))) ∧
    (Samples s n 0x6030 anyCopy q b c s' q' →
      let fits := (c.bytes 1).length = 32 ∧ ((c.bytes 2).length = 0 ∨ (c.bytes 2).length = 32)
      (∀ st, (¬fits ∧ st = 0x0104) ∨ (fits ∧ 32768 ≤ h.rootUsed ∧ st = 0x0422) ∨ (fits ∧ h.rootUsed < 32768 ∧ h.epochState = 3 ∧ st = 0x0423) ∨
        (fits ∧ h.rootUsed < 32768 ∧ h.epochState ≠ 3 ∧ h.epochState ≠ 2 ∧ st = 0x0424) → denied (.quote n) st) ∧
      (fits → h.rootUsed < 32768 → h.epochState = 2 →
        ∃ t, exec (.quote n) s = .next t ∧ Granted t n c ∧ t.hub.epochUsed = h.epochUsed + 1 ∧
          t.hub.epochState = (if h.epochUsed + 1 = 32768 then 3 else 2) ∧ SameUnits s t ∧
          t.dbytes 0x6030 p 0x11 = s.quoteBody p h.epochUsed (c.bytes 1) (c.bytes 2) ++
            s.epochSign h.epochUsed (s.quoteBody p h.epochUsed (c.bytes 1) (c.bytes 2)) ++ s.epochEntry)) ∧
    (Samples s n 0x6040 anyCopy q b c s' q' →
      (1 < c.num 1 → denied (.debugCommit n) 0x0104) ∧
      (c.num 1 = 1 → s.ofTenant q = false ∨ s.hasDebug q = false → denied (.debugCommit n) 0x0412) ∧
      (c.num 1 = 0 ∨ (c.num 1 = 1 ∧ s.ofTenant q = true ∧ s.hasDebug q = true) →
        ∃ t, exec (.debugCommit n) s = .next t ∧ Granted t n c ∧ (t.part p).debugNext = c.num 1 ∧ SameUnits s t ∧
          (t.part p).debug = if (s.part p).job = none then c.num 1 else (s.part p).debug))

/-- R84, R107, R179, R180: a page query answers the stored CRC and generation, of the shadow in mode 2, or, in mode 1 with the macro between
products, the CRC of what a page without wrong cells holds; a remeasure waits while a product is at work. A debug read answers the accumulators,
or waits while its unit is not idle or the job's clears are due. Each is refused with the status of the rule it breaks. Where the spec leaves a
point open, the reading is the model's, of log entries 53, 54 and 56. -/
def Obligations.QueriesComplete : Prop :=
  ∀ (s s' : State) (n : Nat) (q q' : Session) (b : Block) (c : Staged),
    let p := c.inst
    let v := s'.store c fun _ => true
    let left := fun (t : State) (index result : Nat) (main aux : List Byte) => t.dbytes index p 0x12 = leBytes 2 result ∧ t.dbytes index p 0x13 = [0] ∧
      t.dbytes index p 0x10 = main ∧ t.dbytes index p 0x11 = aux
    let malformed := 1 < c.num 3 ∨ (c.num 3 = 1 ∧ c.num 1 / 64 % 1024 ≠ 0)
    (∀ ins mode, (ins, mode) ∈ [(Instr.queryStored n, 0), (.queryRemeasure n, 1), (.queryShadow n, 2)] → Samples s n 0x5130 (asks 2 mode) q b c s' q' →
      (∀ st, (malformed ∧ st = 0x0206) ∨ (¬malformed ∧ v.queryPage p = .error st) →
        ∃ t, exec ins s = .next t ∧ Denied t n q st ∧ SameUnits s t ∧ (st ≠ 0 → t.dbytes 0x5130 p 0x12 = leBytes 2 st)) ∧
      (∀ k page, ¬malformed → v.queryPage p = .ok (k, page) →
        let pg := (s.mac k).page page
        (mode ≠ 1 → (mode = 0 → v.dval 0x5130 p 2 0 = 0) → (mode = 2 → v.dval 0x5130 p 2 0 = 2) →
          ∃ t, exec ins s = .next t ∧ Granted t n c ∧ SameUnits s t ∧ left t 0x5130 0 (leBytes 4 pg.crc.toNat) (leBytes 1 (pg.gen % 256))) ∧
        (mode = 1 → (s.mac k).betweenProducts = true → pg.suspects = [] →
          ∃ t, exec ins s = .next t ∧ Granted t n c ∧ t.mem = s.mem ∧ (t.mac k).page page = pg ∧
            left t 0x5130 0 (leBytes 4 pg.crcNow.toNat) (leBytes 1 (pg.gen % 256))) ∧
        (mode = 1 → (s.mac k).betweenProducts = false →
          ∃ t, exec ins s = .next t ∧ Granted t n c ∧ SameUnits s t ∧ t.dbytes 0x5130 p 0x13 = [1]))) ∧
    (Samples s n 0xA020 anyCopy q b c s' q' →
      let fits := c.num 2 ≤ 2 ∧ c.num 3 % 4 = 0 ∧ 4 ≤ c.num 4 ∧ c.num 4 ≤ 1024 ∧ c.num 4 % 4 = 0
      (∀ st, (¬fits ∧ st = 0x0104) ∨ (fits ∧ (s.part p).debug ≠ 1 ∧ st = 0x0411) ∨ (fits ∧ (s.part p).debug = 1 ∧ v.peekTarget p = none ∧ st = 0x0410) →
        ∃ t, exec (.accumulatorRead n) s = .next t ∧ Denied t n q st ∧ SameUnits s t ∧ t.dbytes 0xA020 p 0x12 = leBytes 2 st) ∧
      (∀ u, fits → (s.part p).debug = 1 → v.peekTarget p = some u →
        (s.unitIdle u = true → s.unclean p = false →
          ∃ t, exec (.accumulatorRead n) s = .next t ∧ Granted t n c ∧ SameUnits s t ∧
            left t 0xA020 0 ((v.peekWords p u).1.flatMap fun w => leBytes 4 w) (leBytes 1 (v.peekWords p u).2)) ∧
        (s.unitIdle u = false ∨ s.unclean p = true →
          ∃ t, exec (.accumulatorRead n) s = .next t ∧ Granted t n c ∧ SameUnits s t ∧ t.dbytes 0xA020 p 0x13 = [1])))

/-- R445, R449: a session's firmware action, committed by the command or at work already, ends with it: programming writes the chunk over its
4,096 bytes of flash, and no other byte changes; what a flash that fails leaves there is open, and the result is 0x0425. A finish verifies the
image in flash and its result is the image's status, 0x0420 where none can be read. The session waits no more. Where the spec leaves a point
open, the reading is the model's, of log entries 16 and 51. -/
def Obligations.FirmwareCompletes : Prop :=
  ∀ (s s' v : State) (n act : Nat) (q q' : Session) (b : Block) (c : Staged),
    let off := v.dval 0x6100 0 1 0
    (s.session n = some q ∧ q.inbox = [] ∧ s.actionOf n act = true ∧ v = s) ∨
      (Samples s n 0x6100 (asks 3 act) q b c s' q' ∧ s.actionOf n act = false ∧ c.num 1 % 4096 = 0 ∧ c.num 1 < 2 ^ 25 ∧
        (c.bytes 2).length ≤ 4096 ∧ (act = 1 → (c.bytes 2).length = 4096) ∧ v = s'.store c fun _ => true) →
      (∀ ok, act = 1 → (v.dbytes 0x6100 0 2).length = 4096 →
        ∃ t x, exec (.programFlash n ok) s = .next t ∧ t.hub.finished = false ∧ t.actionOf n 1 = false ∧ t.session n = some x ∧ t.mem = s.mem ∧
          t.dval 0x6100 0 0x10 1 = (if ok then 0 else 0x0425) ∧
          (ok = true → ∀ a, a < 4096 → mget t.hub.flash 0 (off + a) = (v.dbytes 0x6100 0 2).getD a 0) ∧
          ∀ a, ¬(off ≤ a ∧ a < off + 4096) → mget t.hub.flash 0 a = mget s.hub.flash 0 a) ∧
      (act = 2 →
        (∀ i, ∃ t, exec (.finish n (some i)) s = .next t ∧ t.hub.finished = (s.imageStatus i == 0) ∧ t.actionOf n 2 = false ∧ t.mem = s.mem ∧
          t.dval 0x6100 0 0x10 1 = s.imageStatus i ∧ t.hub.flash = s.hub.flash ∧
          t.hub.verified = if s.imageStatus i = 0 then s.imageHash else s.hub.verified) ∧
        ∃ t, exec (.finish n none) s = .next t ∧ t.hub.finished = false ∧ t.actionOf n 2 = false ∧ t.dval 0x6100 0 0x10 1 = 0x0420 ∧
          t.hub.flash = s.hub.flash ∧ t.mem = s.mem)

/-! ### Jobs and partitions (R92 to R101, R345 to R349, R372 to R385) -/

/-- R322, R345, R347, R349, R406, R426: the hub selects a partition's next descriptor. Of a marked partition it completes at once with 0x0501;
one that cannot be read, or whose checks fail, completes with the status of the first failure; of one that passes, the job is in hand, its checks
done. A completion consumes the descriptor and writes one record: status, ring, slot and `TAG`, of which nothing is stated where the record
itself suffers (log entry 44). Where no ring may be served nothing happens. Where the spec leaves a point open, the reading is the model's, of
log entries 40 and 44. -/
def Obligations.SelectionCompletes : Prop :=
  ∀ (s s' : State) (h : Harm) (p k a : Nat),
    let u := s.suffer h
    let r := u.ring k
    let j := { Job.reset with state := 1, ring := k, slot := r.subHead % r.size }
    let ins := Instr.jobSelection p h
    let spared := fun (n : Nat) => ∀ i x, h.beat = some (i, x) → i < n
    let consumed := fun (t : State) => (t.part p).job = none ∧ (t.ring k).subHead = (r.subHead + 1) % 2 ^ 32 ∧
      (t.ring k).cmpTail = (r.cmpTail + 1) % 2 ^ 32 ∧ (∀ i, i ≠ k → t.ring i = u.ring i) ∧ ∀ x, ¬(a ≤ x ∧ x < a + 32) → t.mem.read x = u.mem.read x
    partOk p = true →
      (u.maySelect p = false ∨ u.chooseRing p = none ∨ ((u.part p).marked = true ∧ (u.part p).preempted = true) →
        exec ins s = .next { u with harm := s.harm }) ∧
      (u.maySelect p = true → u.chooseRing p = some (k, r) → ¬((u.part p).marked = true ∧ (u.part p).preempted = true) →
        s' = ((u.updPart p fun q => { q with lastRing := k, preempted := q.marked, job := some j }).logJob p j 1 0).trace p 1 j.place →
        (∀ e, s'.descriptor p r j.slot = .error e → u.recordRoom p r a →
          ∃ t tag f, exec ins s = .next t ∧ consumed t ∧ (t.part p).preempted = (u.part p).marked ∧
            (spared 1 → IsRecord (t.mem.readN a 32) r { j with tag := tag, fault := f } (if (u.part p).marked then 0x0501 else statusOf e) 0) ∧
            ((u.part p).marked = false → f.unit = if e / 65536 = 9 then 6 else 0)) ∧
        (∀ bs, s'.descriptor p r j.slot = .ok bs →
          let d := readDesc bs
          ((u.part p).marked = true → u.recordRoom p r a →
            ∃ t, exec ins s = .next t ∧ consumed t ∧ (t.part p).preempted = true ∧
              (spared 1 → IsRecord (t.mem.readN a 32) r { j with tag := d.tag } 0x0501 0)) ∧
          (∀ aged e, (u.part p).marked = false → s'.crossed.checkJob p bs (some r.nextAlive) = (aged, .error e) → u.recordRoom p r a →
            ∃ t f, exec ins s = .next t ∧ consumed t ∧ f.unit = (if e / 65536 = 9 then 6 else 0) ∧
              (spared (1 + d.accesses) → IsRecord (t.mem.readN a 32) r { j with tag := d.tag, fault := f } (statusOf e) 0)) ∧
          (∀ aged g, (u.part p).marked = false → s'.crossed.checkJob p bs (some r.nextAlive) = (aged, .ok g) →
            ∃ t n, exec ins s = .next t ∧ (t.part p).job = some n ∧ n.state = 1 ∧ n.ready = true ∧ n.ring = k ∧ n.slot = j.slot ∧
              n.tag = d.tag ∧ n.restarts = 0 ∧ (t.part p).lastRing = k ∧ (t.ring k).subHead = r.subHead ∧ (t.ring k).cmpTail = r.cmpTail ∧
              t.mem = u.mem ∧ t.macros = u.macros)))

/-- R95, R99, R101, R130, R149, Table 4.21: a job that is checked starts when the work of the boundary has ended, and waits until then: it runs
from this tick; every participating core fetches instruction 0 of its segment with its scalar registers and token counters at 0 and no fault
recorded; the partition's engines begin with their accumulators at 0, a core of another partition is as it was, and so is all other memory. -/
def Obligations.JobStartCompletes : Prop :=
  ∀ (s : State) (p : Nat) (j : Job), partOk p = true → (s.part p).job = some j → j.state = 1 → j.ready = true →
    (((s.partMacros p).any fun e => e.2.holdsStart) = true → exec (.jobStart p) s = .next s) ∧
    (((s.partMacros p).any fun e => e.2.holdsStart) = false → (j.assign.map Prod.fst).Nodup →
      ∃ t n, exec (.jobStart p) s = .next t ∧ (t.part p).job = some n ∧ n.state = 2 ∧ n.ready = false ∧ n.startTick = s.hub.tick ∧ n.ring = j.ring ∧
        n.slot = j.slot ∧ n.tag = j.tag ∧ n.wrote = [] ∧ (t.part p).faults = [] ∧ (t.part p).barriers = [] ∧ (t.part p).cacheLines = [] ∧
        (∀ x, x < skinkBase 0 → t.mem.read x = s.mem.read x) ∧
        (∀ e v, (e, v) ∈ s.skinks → v.enable = true → v.part = p → ∀ x, skinkBase e ≤ x → x < skinkBase (e + 1) → t.mem.read x = 0) ∧
        (∀ c b z, (c, b, z) ∈ j.assign → (s.core c).part = some p →
          (t.core c).inJob = true ∧ (t.core c).state = 1 ∧ (t.core c).pc = 0 ∧ (t.core c).segStart = b ∧ (t.core c).segCount = z ∧
            (t.core c).faultValid = false ∧ (t.core c).dmaQ = [] ∧ (t.core c).memQ = [] ∧ (∀ g, (s.core c).committed = some g → (t.core c).cfg = g) ∧
            ∀ i, (t.core c).reg i = 0 ∧ mget (t.core c).tokens 0 i = 0) ∧
        (∀ k, (s.core (macCore k)).part = some p → (t.mac k).acc = [] ∧ (t.mac k).queue = [] ∧ (t.mac k).sigma = 0) ∧
        (∀ c, (s.core c).part ≠ some p → c ∉ j.assign.map Prod.fst → t.core c = s.core c))

/-- R17, R348, R375 to R379, Table 13.3: a job past its time limit reports 0x0706; the first of the faults reported stops the running job, with
every unit of its, and is its status, and all are recorded; its units then abandon what they hold; and when the clears have ended its cores hold
nothing of it, its die stores, scratchpads and plaza pages read 0. Where the spec leaves a point open, the reading is the model's, of log entries
4 and 36. -/
def Obligations.FaultedJobCompletes : Prop :=
  ∀ (s : State) (p : Nat) (j : Job), partOk p = true → (s.part p).job = some j →
    (j.state = 2 → j.tlimit ≠ 0 → j.tlimit * 10 ^ 6 ≤ (s.hub.tick - j.startTick) * 240 → (∀ f ∈ (s.part p).faults, f.status ≠ 0x0706) →
      exec (.timeLimit p) s =
        .next (s.setPart p { s.part p with faults := (s.part p).faults ++ [{ FaultRec.reset with status := 0x0706 }] })) ∧
    (∀ f fs, (s.part p).faults = f :: fs →
      ∃ t n, exec (.fault p) s = .next t ∧ (t.part p).job = some n ∧ n.state = (if j.state = 2 then 3 else j.state) ∧ n.ring = j.ring ∧ n.slot = j.slot ∧ n.tag = j.tag ∧
        n.status = (if j.state = 2 then (firstFault f fs).status else j.status) ∧ (t.part p).faults = [] ∧ t.mem = s.mem ∧
        (∀ g ∈ f :: fs, ∃ r ∈ (t.part p).log.due, r.cls = 3 ∧ r.code = g.status) ∧
        (j.state = 2 → (∀ g ∈ f :: fs, g.charge = 0) →
          (∀ k, (s.core (macCore k)).part = some p → (t.mac k).queue = [] ∧ (t.mac k).run = none ∧ (t.mac k).drainBuf = none ∧ (t.mac k).armed = false) ∧
          ∀ c, (s.core c).part = some p → (t.core c).dmaQ = [] ∧ (t.core c).memQ = [] ∧ (t.core c).pc = (s.core c).pc)) ∧
    (j.state = 3 →
      ∃ t, exec (.unitsStopped p) s = .next t ∧ (t.part p).job = some { j with state := 4, cleared := false } ∧ (t.part p).barriers = [] ∧ (t.part p).credits = [] ∧
        t.mem = s.mem ∧ (∀ c, coreDie c ∈ s.partDies p → t.core c = (s.core c).clearWork) ∧
        (∀ k, macCore k / 272 ∈ s.partDies p → t.mac k = (s.mac k).clearWork) ∧ ∀ k, macCore k / 272 ∉ s.partDies p → t.mac k = s.mac k) ∧
    (j.state = 4 → j.cleared = false → ((s.partMacros p).any fun e => e.2.testPage.isSome) = false → j.wrote = [] →
      ∃ t n, exec (.clearingComplete p) s = .next t ∧ (t.part p).job = some n ∧ n.cleared = true ∧ n.status = j.status ∧
        n.state = (if j.again false = true ∧ j.restarts < 3 ∧ (s.part p).reload = [] then 4 else 5) ∧
        (∀ d ∈ s.partDies p, ∀ x, (storeBase d ≤ x ∧ x < storeBase d + 2 ^ 26) ∨ (coreBase (272 * d) ≤ x ∧ x < coreBase (272 * (d + 1))) →
          t.mem.read x = 0) ∧
        (∀ e ∈ s.plazaPages p, ∀ x, e.1 ≤ x → x < e.1 + e.2 → t.mem.read x = 0) ∧
        (∀ c, coreDie c ∈ s.partDies p → t.core c = (s.core c).clearAll) ∧ ∀ x, x < 2 ^ 40 → t.mem.read x = s.mem.read x)

/-- R92, R349, R373, R380 to R382, R414, R426: a job whose boundary is reached and whose run is not to be repeated completes: it is in hand no
more, its ring has consumed the descriptor, and its record, where it does not suffer itself, holds its status (0x0702 after its third restart),
ring, slot, `TAG` and ticks. One to be repeated is checked again and stays in hand. At the boundary armed swaps take effect. Before its end, or
after a thermal trip, nothing happens. Where the spec leaves a point open, the reading is the model's, of log entries 42, 43 and 44. -/
def Obligations.BoundaryCompletes : Prop :=
  ∀ (s u : State) (h : Harm) (p a : Nat) (j : Job) (replaced : Bool),
    let v := s.suffer h
    let ins := Instr.jobBoundary p h
    let again := j.again replaced = true ∧ j.restarts < 3 ∧ (u.part p).reload = []
    partOk p = true → (v.part p).job = some j →
    (v.atEnd p j = false ∨ v.hub.phase = .tripped → exec ins s = .next { v with harm := s.harm }) ∧
    (v.atEnd p j = true → v.hub.phase ≠ .tripped → v.boundary p = (u, replaced) →
      (¬again → (u.part p).flushing = false → u.recordRoom p (u.ring j.ring) a →
        let st := if j.again replaced = true ∧ j.restarts = 3 then 0x0702 else j.status
        ∃ t, exec ins s = .next t ∧ (t.part p).job = none ∧ (t.part p).faults = [] ∧ t.ring j.ring = (u.ring j.ring).advance j.energy ∧
          (u.struck = none → IsRecord (t.mem.readN a 32) (u.ring j.ring) j st (v.runTicks j)) ∧
          (∀ x, ¬(a ≤ x ∧ x < a + 32) → t.mem.read x = u.mem.read x) ∧ (∀ k, k ≠ j.ring → t.ring k = u.ring k)) ∧
      (∀ bs g aged, again →
        let w := (u.count p cRestarts 1 0xFFFFFFFF).trace p 1 j.place
        w.descriptor p (w.ring j.ring) j.slot = .ok bs → w.crossed.checkJob p bs none = (aged, .ok g) →
          ∃ t n, exec ins s = .next t ∧ (t.part p).job = some n ∧ n.state = 1 ∧ n.ready = true ∧ n.restarts = j.restarts + 1 ∧
            n.ring = j.ring ∧ n.slot = j.slot ∧ n.status = 0 ∧ n.wrote = [] ∧ t.mem = u.mem ∧ t.rings = u.rings)) ∧
    (v.pendingOf p = ([], [], []) → (v.part p).waiting = none → (v.part p).newWindows = none → v.boundary p = (u, replaced) →
      replaced = false ∧ u.mem = v.mem ∧ ∀ k, (v.core (macCore k)).part = some p → u.mac k = (v.mac k).swapBanks.applyCommit)

/-- R111, R295, R315, R372, R384, R385: an erased die belongs to its new owner and its macros hold nothing; a partition whose builds and erasures
are over is ready, or, where it is being removed, absent; a version that is built waits to take effect, and its windows then are the ones in
force. -/
def Obligations.BuildsComplete : Prop :=
  ∀ (s : State) (p d : Nat), partOk p = true →
    (arrayDieOk d = true → (List.range 16).find? (fun q => (s.part q).erasing.contains d) = some p →
      ∃ t, exec (.tenantErasure d) s = .next t ∧ mget t.spares.owners 0 d = s.owner p ∧ d ∉ (t.part p).erasing ∧
        (∀ k page, macCore k / 272 = d → ((t.mac k).page page).valid = false ∧ ((t.mac k).page page).lost = false) ∧
        (∀ c, coreDie c = d → t.core c = (s.core c).clearAll) ∧ (∀ x, storeBase d ≤ x ∧ x < storeBase d + 2 ^ 26 → t.mem.read x = 0) ∧
        ∀ k, macCore k / 272 ≠ d → t.mac k = s.mac k) ∧
    ((s.part p).state = 1 ∨ (s.part p).state = 3 → (s.part p).erasing = [] → (s.part p).removing = false →
      ∃ t, exec (.partitionReady p) s = .next t ∧ (t.part p).state = 2 ∧ (t.part p).clearing = [] ∧ (t.part p).placement = s.builtPlacement p) ∧
    ((s.part p).state = 3 → (s.part p).erasing = [] → (s.part p).removing = true →
      ∃ t, exec (.partitionReady p) s = .next t ∧ (t.part p).state = 0 ∧ (t.part p).windows = [] ∧ (t.part p).job = none ∧ t.partDies p = [] ∧
        ∀ d ∈ s.partDies p, (t.die d).level = 12 ∧ (t.die d).raise = none) ∧
    ((s.part p).building = [0x8400] → exec (.versionBuildComplete p) s = .next (s.setPart p { s.part p with building := [] })) ∧
    (0x2100 ∈ (s.part p).building → exec (.versionBuildComplete p) s =
      .next (s.setPart p { s.part p with building := [], waiting := some (s.fullPlacement p (s.dbytes 0x2100 p 3)) })) ∧
    (∀ new, (s.part p).newWindows = some new → (s.part p).waiting = none → (s.part p).building = [] →
      ((s.swapVersions p).part p).windows = new ∧ ((s.swapVersions p).part p).newWindows = none ∧
        ∀ e ∈ (s.part p).windows, mget new Window.reset e.1 ≠ e.2 → ∀ x ∈ e.2.extents, ∀ i, x.1 ≤ i → i < x.1 + x.2 → (s.swapVersions p).mem.read i = 0)

/-! ### Power (R392 to R423) -/

/-- R394, R415: a decided level below the present one acts at once, with the dies' voltage targets, and cancels a pending raise; within PP0 a
raise acts at once; a raise of the pace point sets the targets and waits for the rails, and while one is pending no other is taken; it acts when
every rail reports its target, as far as the bounds then in force let it, and is abandoned after 40 ticks, the old targets restored and the
rail's alarm raised. -/
def Obligations.LevelChangeCompletes : Prop :=
  ∀ (s : State) (x l : Nat),
    let cur := s.levelOf x
    let volted := fun (t : State) (l : Nat) => ∀ d ∈ s.targetDies x, (t.die d).targetMv = (s.die d).volts (pacePoint l)
    targetOk x = true →
      (s.decidedOf x = none → exec (.levelChange x) s = .next s) ∧
      (s.decidedOf x = some l →
        (l < cur →
          ∃ t, exec (.levelChange x) s = .next t ∧ t.levelOf x = l ∧ t.decidedOf x = none ∧ t.raiseOf x = none ∧ t.mem = s.mem ∧ volted t l ∧
            ∀ d ∈ s.targetDies x, (t.die d).level = l) ∧
        (l = cur ∨ (cur < l ∧ (s.raiseOf x).isSome = true) → exec (.levelChange x) s = .next (s.clearDecided x)) ∧
        (cur < l → s.raiseOf x = none → pacePoint l = pacePoint cur →
          ∃ t, exec (.levelChange x) s = .next t ∧ t.levelOf x = l ∧ t.decidedOf x = none ∧ t.raiseOf x = none ∧ t.mem = s.mem) ∧
        (cur < l → s.raiseOf x = none → pacePoint l ≠ pacePoint cur →
          ∃ t, exec (.levelChange x) s = .next t ∧ t.levelOf x = cur ∧ t.decidedOf x = none ∧ t.raiseOf x = some (l, s.hub.tick) ∧ t.mem = s.mem ∧
            volted t l)) ∧
      (∀ r, s.raiseOf x = some r →
        (∃ t, exec (.railTargetReached x) s = .next t ∧ t.levelOf x = max cur (min r.1 (s.bound x)) ∧ t.raiseOf x = none ∧
          t.decidedOf x = s.decidedOf x ∧ t.mem = s.mem ∧ volted t (t.levelOf x)) ∧
        ∀ rail, railOk rail = true →
          (s.hub.tick < r.2 + 40 → exec (.raiseTimeout x rail) s = .next s) ∧
          (r.2 + 40 ≤ s.hub.tick →
            ∃ t, exec (.raiseTimeout x rail) s = .next t ∧ t.levelOf x = cur ∧ t.raiseOf x = none ∧ t.mem = s.mem ∧ volted t cur ∧
              (mget t.hub.alarms Alarm.reset 3).raised = true ∧ (mget t.hub.alarms Alarm.reset 3).detail = rail)) ∧
      (s.raiseOf x = none → exec (.railTargetReached x) s = .next s)

/-- R399, R401, R403, R416: a tick's estimates are the calibrated raw estimates that its activity counters, voltages and temperatures give, their
energies are counted and the counters restart; a partition above its share decides a lower level, above 4,000 W every one does, but for one whose
change a clamp defers; one that has fitted the next level for 16 ticks decides it. Where the spec leaves a point open, the reading is the
model's, of log entries 20 and 88. -/
def Obligations.LevelControlCompletes : Prop :=
  ∀ (s : State) (acts : List Activity),
    let raws := s.railRaws acts
    let drawn (q : Nat) : Nat := (s.drawn raws q).1 + (s.drawn raws q).2
    let total := s.overheadDrawn raws + (s.partsHere.map drawn).sum
    acts.all activityOk = true →
      ∃ t, exec (.levelControl acts) s = .next t ∧ t.power.estimate = total ∧ t.power.overhead = s.power.overhead ∧
        t.power.overheadSum = s.power.overheadSum + s.overheadDrawn raws ∧ t.power.sumTicks = s.power.sumTicks + 1 ∧ t.power.counts = [] ∧
        t.mem = s.mem ∧ t.macros = s.macros ∧ t.cores = s.cores ∧
        ∀ q ∈ s.partsHere, (t.part q).estimate = drawn q ∧ (t.part q).energy = (s.part q).energy + drawn q * 240 ∧
          (t.part q).level = (s.part q).level ∧
          (s.clampActive q = false →
            (s.forced = false → s.thermalForced q = false →
              ((s.part q).share < drawn q → 0 < (s.part q).level → ∃ l, (t.part q).decided = some l ∧ l ≤ (s.part q).level - 1) ∧
              (drawn q ≤ (s.part q).share → (s.part q).upTicks = 15 → (s.part q).raise = none → (s.part q).deferred = none → (s.part q).decided = none →
                s.thermalLowering q = false → fitsAt (s.drawn raws q).1 (s.drawn raws q).2 (s.part q).level ((s.part q).level + 1) (s.part q).share = true →
                (s.part q).level < s.levelCap q → total ≤ 4000000 → (t.part q).decided = some ((s.part q).level + 1))) ∧
            (s.forced = true ∨ s.thermalForced q = true → 0 < (s.part q).level → (t.part q).decided = some 0) ∧
            (4000000 < total → ∃ l, (t.part q).decided = some l ∧ l ≤ (s.part q).level - 1))

/-- R398, R400, R402, R419: a rail with an address is read each millisecond: an answer whose check holds is recorded and, above 1 W, calibrates
the rail's factor; any other counts as failed, the third in a row raising the rail's alarm. A rail block that waits acts first. Every millisecond
the mean overhead of the last stands and a partition's share is set anew; where no partition lends it is the base share. Which millisecond the
mean is of is log entry 101. R404 to R406, R410: an estimate above the budget for 10 ms lowers every partition a level, or defers that under a
clamp; a shortfall raises its alarm and marks the partition of lowest priority, no other, and a further one each millisecond; when the estimate
has stood at 90 % of the budget for 4,167 ticks the marked partition of highest priority is unmarked. Where the spec leaves a point open, the
reading is the model's, of log entries 20, 87 and 101. -/
def Obligations.TelemetryCompletes : Prop :=
  (∀ (s : State) (rail p : Nat) (reply : Option BusReply),
    let old := mget s.power.rails Rail.reset rail
    let m : State := { s with power := { s.power with overhead := s.power.newMean } }
    (railOk rail = true → s.power.newRails = none →
      (s.pmbus rail = 0 → exec (.readPout rail reply) s = .next s) ∧
      (s.pmbus rail ≠ 0 →
        (∀ mw, readingOf (s.pmbus rail) reply = some mw →
          ∃ t, exec (.readPout rail reply) s = .next t ∧ t = { s with power := t.power } ∧
            mget t.power.rails Rail.reset rail = (if old.rawTicks * 1000 < old.rawSum
              then { old with pout := mw / 1000, k4096 := old.calibrate mw, fails := 0, rawSum := 0, rawTicks := 0 }
              else { old with pout := mw / 1000, rawSum := 0, rawTicks := 0 }) ∧
            t.power.measured = s.power.measured + mw / 1000 - old.pout ∧
            ∀ r, r ≠ rail → mget t.power.rails Rail.reset r = mget s.power.rails Rail.reset r) ∧
        (readingOf (s.pmbus rail) reply = none →
          ∃ t, exec (.readPout rail reply) s = .next t ∧
            mget t.power.rails Rail.reset rail = { old with fails := old.fails + 1, rawSum := 0, rawTicks := 0 } ∧
            t.power.readFails = satAdd 0xFFFFFFFF s.power.readFails 1 ∧ t.mem = s.mem ∧
            (old.fails = 2 → (mget t.hub.alarms Alarm.reset 3).raised = true ∧ (mget t.hub.alarms Alarm.reset 3).detail = rail) ∧
            (old.fails ≠ 2 → t.hub = s.hub)))) ∧
    (∀ ws, railOk rail = true → s.power.newRails = some ws → ws.length = 24 → (∀ w ∈ ws, w < 2 ^ 32) → ws.getD rail 0 / 2 ^ 16 % 128 = 0 →
      ∃ t, exec (.readPout rail reply) s = .next t ∧ t.power.newRails = none ∧ (∀ r, r < 24 → t.dval 0x3040 0 (r + 1) 0 = ws.getD r 0) ∧
        ∀ r, r < 24 → ws.getD r 0 / 2 ^ 16 % 128 = 0 → (mget t.power.rails Rail.reset r).k4096 = 4096) ∧
    (p ∈ s.partsHere →
      ∃ t, exec .shareRecomputation s = .next t ∧ (t.part p).share = m.shareInUse p ∧ (t.part p).estSum = 0 ∧ t.power.sumTicks = 0 ∧
        t.power.overhead = s.power.newMean ∧ t.mem = s.mem ∧ ((∀ q ∈ s.partsHere, m.lends q = false) → (t.part p).share = m.baseShare p))) ∧
  (∀ (s : State) (p : Nat),
    (41667 ≤ s.power.overTicks → s.budget < s.power.estimate →
      ∃ t, exec .budgetOverrun s = .next t ∧ t.mem = s.mem ∧ t.power = s.power ∧
        ∀ q ∈ s.partsHere, ∃ l, l ≤ (s.part q).level - 1 ∧
          (s.clampActive q = false → (t.part q).decided = some l) ∧ (s.clampActive q = true → (t.part q).deferred = some l)) ∧
    (s.power.overTicks < 41667 ∨ s.power.estimate ≤ s.budget → exec .budgetOverrun s = .next s) ∧
    (s.shortNow = false → exec .budgetShortfall s = .next s) ∧
    (s.shortNow = true → s.nextMarked = some p →
      (s.power.shortfall = false →
        ∃ t, exec .budgetShortfall s = .next t ∧ t.power = { s.power with shortfall := true, lastMark := s.hub.tick } ∧
          (mget t.hub.alarms Alarm.reset 4).raised = true ∧ t.part p = { s.part p with marked := true } ∧ (∀ q, q ≠ p → t.part q = s.part q) ∧
          t.mem = s.mem) ∧
      (s.power.shortfall = true → s.power.lastMark + Config.msTicks ≤ s.hub.tick →
        ∃ t, exec .budgetShortfall s = .next t ∧ t.power = { s.power with lastMark := s.hub.tick } ∧ t.hub = s.hub ∧
          t.part p = { s.part p with marked := true } ∧ ∀ q, q ≠ p → t.part q = s.part q) ∧
      (s.power.shortfall = true → s.hub.tick < s.power.lastMark + Config.msTicks → exec .budgetShortfall s = .next s)) ∧
    (s.power.underTicks < Config.msTicks → exec .unmark s = .next s) ∧
    (Config.msTicks ≤ s.power.underTicks → s.nextUnmarked = some p →
      ∃ t, exec .unmark s = .next t ∧ t.part p = { s.part p with marked := false, preempted := false } ∧ (∀ q, q ≠ p → t.part q = s.part q) ∧
        t.power.underTicks = 0 ∧ t.mem = s.mem))

/-- R395 to R397, R409, R410: in a partition of one or two dies a slack of 1 or less raises the die's trim by 5 mV up to 20, or, at 20, bounds
the level; 64 ticks of slack 4 or more lower it. In a larger one it stays. A core short of slack for 1 s has its ceiling lowered by one from the
next tick; at PP0 it waits to be retired. A droop clamps its quarter, is counted and raises alarm 1, and the clamp releases that quarter alone.
Where the spec leaves a point open, the reading is the model's, of log entry 88. -/
def Obligations.DieLimitsComplete : Prop :=
  ∀ (s : State) (d p c n : Nat) (slacks : List (Nat × Nat)),
    let x := s.die d
    let low := min 15 (lowestSlack slacks)
    let pace := pacePoint (s.part p).level
    let trimmed := fun (t : State) (trim : Int) (good clear : Nat) =>
      t.die d = { x with slack := low, trim := trim, goodTicks := good, clearTicks := clear, targetMv := ({ x with trim := trim } : PacedDie).volts pace } ∧
        (∀ e, e ≠ d → t.die e = s.die e) ∧ t.mem = s.mem ∧ t.hub = s.hub
    (arrayDieOk d = true → s.dieOwner d = some p →
      (s.byCeilings p = true →
        ∃ t, exec (.monitorTrim d slacks) s = .next t ∧ t.die d = { x with slack := low } ∧ (∀ e, e ≠ d → t.die e = s.die e) ∧ t.parts = s.parts ∧
          ∀ i v, slacks = [(i, v)] → Config.slackAt105 d (min 15 v) x.targetMv (s.power.temps.getD d 0) x.level (s.ceiling (d * 272 + i % 272)) < 2 →
            mget t.power.shortTicks 0 (d * 272 + i % 272) = mget s.power.shortTicks 0 (d * 272 + i % 272) + 1) ∧
      (s.byCeilings p = false → (s.part p).raise = none →
        (low ≤ 1 → x.trim < 20 → ∃ t, exec (.monitorTrim d slacks) s = .next t ∧ trimmed t (x.trim + 5) 0 0 ∧ t.parts = s.parts) ∧
        (low ≤ 1 → 20 ≤ x.trim →
          ∃ t, exec (.monitorTrim d slacks) s = .next t ∧ trimmed t x.trim 0 0 ∧
            t.part p = { s.part p with monitorCap := min (s.part p).monitorCap (belowPace (s.part p).level) }) ∧
        (low = 2 ∨ low = 3 → ∃ t, exec (.monitorTrim d slacks) s = .next t ∧ trimmed t x.trim 0 0 ∧ t.parts = s.parts) ∧
        (4 ≤ low →
          (x.goodTicks = 63 → ∃ t, exec (.monitorTrim d slacks) s = .next t ∧ trimmed t (max (-40) (x.trim - 5)) 0 (x.clearTicks + 1)) ∧
          (x.goodTicks ≠ 63 → ∃ t, exec (.monitorTrim d slacks) s = .next t ∧ trimmed t x.trim (x.goodTicks + 1) (x.clearTicks + 1))))) ∧
    (coreOk c = true →
      (c ∈ s.spares.cores ∨ mget s.power.shortTicks 0 c < 4166667 → exec (.ceilingLower c) s = .next s) ∧
      (c ∉ s.spares.cores → 4166667 ≤ mget s.power.shortTicks 0 c → mget s.power.ceilLast 0 c = 0 →
        (s.ceiling c ≠ 0 → s.ceiling c ≤ 7 →
          ∃ t, exec (.ceilingLower c) s = .next t ∧ t = { s with power := t.power } ∧ t.ceiling c = s.ceiling c ∧
            mget t.power.swapCeilings.ceilings 7 c = s.ceiling c - 1 ∧ mget t.power.shortTicks 0 c = 0) ∧
        (s.ceiling c = 0 → c ∉ s.spares.pendingCores →
          exec (.ceilingLower c) s = .next { s with spares := { s.spares with pendingCores := s.spares.pendingCores ++ [c] } }))) ∧
    (pacedOk d = true → n < 4 →
      (x.quarters.testBit n = false →
        ∃ t, exec (.droop d n) s = .next t ∧ t.die d = { x with quarters := x.quarters + 2 ^ n, clamps := satAdd 0xFFFF x.clamps 1, clamped := true } ∧
          (∀ e, e ≠ d → t.die e = s.die e) ∧ t.power.droops = satAdd 0xFFFFFFFF s.power.droops 1 ∧
          (mget t.hub.alarms Alarm.reset 1).raised = true ∧ (mget t.hub.alarms Alarm.reset 1).detail = n ∧ t.mem = s.mem) ∧
      (x.quarters.testBit n = true →
        exec (.droop d n) s = .next s ∧
        ∃ t, exec (.clampRelease d n) s = .next t ∧ t = { s with power := t.power } ∧ t.die d = { x with quarters := x.quarters - 2 ^ n } ∧
          ∀ e, e ≠ d → t.die e = s.die e))

/-- R411, R412, R487: an enabled wire that asserts puts every partition and engine die at level 0 in its tick, drops what was decided, and raises
alarm 0; one that is not enabled is only recorded, and without firmware a wire does nothing; the force ends 1 ms after the last enabled wire
deasserts. R60, R413, R414, R487, R496, Table 14.6: the readings of a tick are recorded; a die at 105 °C is hot and its partition is forced to
level 0; a tower at 85 °C is refreshed at twice the rate and one at 95 °C throttled; a die at 110 °C trips the device, which then issues nothing,
while `READY` holds. Without firmware only the trip acts, and under a power-on reset or after a trip nothing does. -/
def Obligations.AlertsComplete : Prop :=
  (∀ (s : State) (w : Nat), wireOk w = true →
    (s.hub.phase ≠ .running → s.power.wires.testBit w = false →
      exec (.alertWire w true) s = .next { s with power := { s.power with wires := s.power.wires + 2 ^ w } }) ∧
    (s.hub.phase = .running → s.power.wires.testBit w = false → s.alertMask.testBit w = true →
      ∃ t, exec (.alertWire w true) s = .next t ∧ t.power.wires = s.power.wires + 2 ^ w ∧ t.power.forceEnd = s.hub.tick + Config.msTicks ∧
        (mget t.hub.alarms Alarm.reset 0).raised = true ∧ (mget t.hub.alarms Alarm.reset 0).detail = w ∧ t.mem = s.mem ∧
        (∀ p ∈ s.partsHere, (t.part p).level = 0 ∧ (t.part p).decided = none ∧ (t.part p).raise = none ∧ ∀ d ∈ s.partDies p, (t.die d).level = 0) ∧
        (t.die 16).level = 0 ∧ (t.die 17).level = 0) ∧
    (s.hub.phase = .running → s.power.wires.testBit w = false → s.alertMask.testBit w = false →
      exec (.alertWire w true) s = .next { s with power := { s.power with
        wires := s.power.wires + 2 ^ w, latched := s.power.latched ||| 2 ^ w, asserts := satAdd 0xFFFFFFFF s.power.asserts 1 } }) ∧
    (s.power.wires.testBit w = true →
      exec (.alertWire w false) s = .next { s with power := { s.power with
        wires := s.power.wires - 2 ^ w,
        forceEnd := if s.power.forceEnd ≠ 0 ∧ s.alertMask.testBit w then s.hub.tick + Config.msTicks else s.power.forceEnd } }) ∧
    (s.forced = true → s.power.wires &&& s.alertMask = 0 → s.power.forceEnd ≤ s.hub.tick →
      exec .alertForceEnd s = .next { s with power := { s.power with forceEnd := 0 } }) ∧
    (s.power.wires &&& s.alertMask ≠ 0 ∨ s.hub.tick < s.power.forceEnd → exec .alertForceEnd s = .next s)) ∧
  (∀ (s : State) (dies towers : List Int), dies.length = 20 → towers.length = 8 →
    let ins := Instr.temperatureSample dies towers
    let powered := s.hub.phase ≠ .porst ∧ s.hub.phase ≠ .tripped
    (¬powered → exec ins s = .next s) ∧
    (powered → ∃ t, exec ins s = .next t ∧ t.power.temps = dies ∧ t.power.towerTemps = towers ∧ t.mem = s.mem ∧ t.hub.tick = s.hub.tick ∧
      t.hub.ready = s.hub.ready ∧
      (s.hub.phase = .running ∨ s.hub.phase = .recovery → t.hub.hot = dies.any (fun x => decide (s.thermalThreshold ≤ x))) ∧
      ((∃ x ∈ dies, 11000 ≤ x) → t.hub.thermtrip = true ∧ t.hub.phase = .tripped ∧ (∀ c, (t.core c).inJob = false) ∧
        ∀ k, (t.mac k).queue = [] ∧ (t.mac k).run = none) ∧
      ((∀ x ∈ dies, x < 11000) → t.hub.phase = s.hub.phase ∧ t.hub.thermtrip = s.hub.thermtrip ∧ t.macros = s.macros ∧ t.cores = s.cores) ∧
      (s.hub.phase ≠ .running → t.parts = s.parts ∧ t.spares = s.spares ∧ t.towers = s.towers) ∧
      (s.hub.phase = .running →
        (∀ d x, dies[d]? = some x →
          (10500 ≤ x → d ∈ t.power.hotDies) ∧ (d < 16 → 8500 < x → d ∈ t.spares.rate32) ∧
          (10500 ≤ x → ∀ p ∈ s.partsHere, d = 18 ∨ d = 19 ∨ d ∈ s.partDies p → (s.part p).level ≠ 0 → (t.part p).decided = some 0)) ∧
        ∀ k x, towers[k]? = some x →
          (8500 ≤ x → (t.tower k).refresh2x = true) ∧ (9500 ≤ x → (t.tower k).throttled = true) ∧ (x ≤ 9300 → (t.tower k).throttled = false))))

/-! ### Upkeep, resets, start-up and the boundary-scan port (R431 to R453, R472 to R494) -/

/-- R431, R432, R434, R435, R439, R472 to R475: a corrected codeword is written back; patrol passes a sound word, corrects and counts one wrong
bit, and marks a word that it cannot correct, but for one of a buffer (log entry 86), or that is marked already; the third distinct row that a
column corrects within 24 h records the column for repair; strikes past their time are forgotten; a pending loss is recorded in its ring; and in
the first tick of each millisecond every ring receives the time. Where the spec leaves a point open, the reading is the model's, of log entries
19, 77 and 86. -/
def Obligations.UpkeepCompletes : Prop :=
  ∀ (s : State) (a b b' ring : Nat),
    exec (.correctionWriteBack a) s = .next { s with mem := { s.mem with soft := s.mem.soft.filter fun x => x != a } } ∧
    exec .strikeExpiry s = .next { s with spares := { s.spares with strikes := s.spares.strikes.filter fun e => decide (s.hub.tick < e.2) } } ∧
    (sramWord a = true → s.works = true →
      (a ∉ s.mem.bad → exec (.sramPatrol a []) s = .next s) ∧
      (a ∈ s.mem.bad → ∃ t, exec (.sramPatrol a []) s = .next t ∧ t.mem.cells = s.mem.cells ∧
        t.spares.sramUncorr = satAdd 0xFFFFFFFF s.spares.sramUncorr 1 ∧ (mget t.hub.alarms Alarm.reset 6).raised = true) ∧
      (a ∉ s.mem.bad → ∃ t, exec (.sramPatrol a [b]) s = .next t ∧ t.mem = { s.mem with soft := t.mem.soft } ∧ a ∈ t.mem.soft ∧
        t.spares.sramCorrected = min (2 ^ 64 - 1) (s.spares.sramCorrected + 1) ∧ t.hub = s.hub ∧ t.parts = s.parts ∧ t.macros = s.macros) ∧
      (let p := sramPlace a
        let col := columnKey p b
        a ∉ s.mem.bad → col ∉ s.spares.columnsDue → col ∉ s.spares.repaired →
          2 ≤ ((mget s.spares.columns [] col).filter fun e => e.1 != p.row && decide (s.hub.tick < e.2 + ticks24h)).length →
          ∃ t, exec (.sramPatrol a [b]) s = .next t ∧ t.spares.columnsDue = s.spares.columnsDue ++ [col]) ∧
      (a < hubWords → ∃ t, exec (.sramPatrol a [b, b']) s = .next t ∧ (bufWord a = false → codeBase a ∈ t.mem.bad) ∧ t.mem.cells = s.mem.cells ∧
        t.spares.sramUncorr = satAdd 0xFFFFFFFF s.spares.sramUncorr 1 ∧ (mget t.hub.alarms Alarm.reset 6).raised = true ∧
        (t.part ring).faults = (s.part ring).faults)) ∧
    (ring < 16 → exec (.lossRecord ring) s = .next (s.setPart ring { s.part ring with log := (s.part ring).log.writeLoss 1024 ring })) ∧
    exec (.lossRecord 16) s = .next { s with hub := { s.hub with log := s.hub.log.writeLoss 4096 255 } } ∧
    (∀ q, q = (s.part ring).log → ring < 16 → q.lostCount ≠ 0 → q.recs.length < 1024 →
      ∃ t r, exec (.lossRecord ring) s = .next t ∧ (t.part ring).log.recs = q.recs ++ [r] ∧ r.cls = 1 ∧ r.code = q.lostMask ∧
        r.seq = q.next % 2 ^ 32 ∧ r.tick = q.lostLast ∧ (t.part ring).log.lostCount = 0 ∧ (t.part ring).log.losses = satAdd 0xFFFFFFFF q.losses 1) ∧
    (s.hub.tick % Config.msTicks = 0 → s.hub.phase ≠ .porst → ring < 16 →
      ∃ t r d, exec .timeRecord s = .next t ∧ (t.part ring).log.due = (s.part ring).log.due ++ [r] ∧ t.hub.log.due = s.hub.log.due ++ [d] ∧
        r.cls = 0 ∧ d.cls = 0 ∧ r.part = ring ∧ d.part = 255 ∧ r.tick = s.hub.tick ∧ r.data = d.data ∧
        r.data.take 8 = leBytes 8 (s.asTime s.hub.tick) ∧ t.mem = s.mem) ∧
    (s.hub.tick % Config.msTicks ≠ 0 → exec .timeRecord s = .next s)

/-- R109, R350, R370, R414, R436, R472, R481, R490, R491, Table 18.5: a warm reset, of any cause, keeps weight pages and shadow states, die
owners, tenants, ceilings, the tick, alarms and logs, and records its cause; what fails in the hub is an alarm too; a low `PORST_N` keeps the
tenants, and the pages while the array rail holds. Either leaves memory zero (what reset memory reads is the model's, log entry 6), and no
session, window, ring, job or dictionary value. A device that no reset of the warm kind finds working stays as it is. Where the spec leaves a
point open, the reading is the model's, of log entries 27 and 76. -/
def Obligations.ResetsComplete : Prop :=
  ∀ (s : State) (i : Instr) (cause : Nat) (lost : Bool) (p n k a b b' : Nat),
    let gone (t : State) : Prop := t.mem = Memory.reset ∧ t.slp.sessions = [] ∧ t.rings = [] ∧ t.dict = [] ∧ t.cores = [] ∧ t.hub.ready = false ∧
      (t.part p).windows = [] ∧ (t.part p).job = none ∧ (t.part p).state = 0 ∧ t.session n = none ∧ t.tenants = s.tenants ∧ t.pending = s.pending
    (s.works = true →
      (i, cause) ∈ [(Instr.warmN, 1), (.watchdog, 2), (.controlProcessorFault .memory, 3), (.controlProcessorFault .residue, 4), (.referenceLoss, 1)] →
        ∃ t, exec i s = .next t ∧ gone t ∧ t.hub.phase = .warmHeld ∧ t.hub.resetCause = cause ∧ t.hub.tick = s.hub.tick ∧
          (cause < 3 → t.hub.alarms = s.hub.alarms ∧ t.hub.log = s.hub.log) ∧ (cause = 3 → (mget t.hub.alarms Alarm.reset 6).raised = true) ∧
          (cause = 4 → (mget t.hub.alarms Alarm.reset 9).raised = true) ∧ (t.part p).log = (s.part p).log ∧ t.spares.owners = s.spares.owners ∧
          t.power.ceilings = s.power.swapCeilings.ceilings ∧ (t.mac k).pages = (s.mac k).pages ∧ (t.mac k).shadow = (s.mac k).shadow ∧
          (t.mac k).liveB = (s.mac k).liveB ∧ (t.mac k).armed = false ∧ t.hub.refLost = (s.hub.refLost || decide (i = .referenceLoss))) ∧
    (s.works = true → sramWord a = true → hubWords ≤ a → a ∉ s.mem.bad →
      ∃ t, exec (.sramPatrol a [b, b']) s = .next t ∧ gone t ∧ t.hub.phase = .warmHeld ∧ t.hub.resetCause = 3 ∧
        (mget t.hub.alarms Alarm.reset 6).raised = true ∧ (t.mac k).pages = (s.mac k).pages) ∧
    (s.works = false → i ∈ [Instr.warmN, .watchdog, .controlProcessorFault .memory, .controlProcessorFault .residue] → exec i s = .next s) ∧
    (∃ t, exec (.porstNLow lost) s = .next t ∧ gone t ∧ t.hub.phase = .porst ∧ t.hub.tick = 0 ∧ t.hub.alarms = [] ∧
      t.hub.log = LogRing.reset ∧ t.hub.flash = s.hub.flash ∧ t.hub.svnMin = s.hub.svnMin ∧ t.hub.rootUsed = s.hub.rootUsed ∧
      t.power.ceilings = s.power.swapCeilings.ceilings ∧ (t.mac k).pages = (if lost then [] else (s.mac k).pages) ∧ (t.mac k).armed = false ∧
      t.hub.thermtrip = (s.hub.thermtrip && !lost))

/-- R67, R448, R451, R453, R472, R481, R482, R484, R487 to R491: the release of `PORST_N` samples the straps and runs the firmware of a good
image, with the boot epoch advanced, a root leaf consumed, no owner recorded, the tick at 0, and every macro that is not retired enabled; without
a good image, or with `RECOVERY_N` low, the device comes up in recovery mode; a failed hub memory or `TEST_EN` halts it; a warm reset that comes
before the end is held. The release of a warm reset runs the firmware again, its tick going on and its owners kept, a log ring that fails its
checks empty but for a loss record, and an epoch tree that fails them gone. Where the spec leaves a point open, the reading is the model's, of
log entries 70, 72, 73 and 74. -/
def Obligations.StartUpCompletes : Prop :=
  ∀ (s : State) (b : Boot) (i : ImageRead),
    exec .referenceRestored s = .next { s with hub := { s.hub with refLost := false } } ∧
    (s.hub.phase = .porst →
      (b.testEn = true ∨ b.hubOk = false →
        ∃ t, exec (.powerOnReset b) s = .next t ∧ t.hub.phase = .halted ∧ t.hub.ready = false ∧ t.hub.straps = strapBits b) ∧
      (∀ c, b.testEn = false → b.hubOk = true → b.cut = some c →
        ∃ t, exec (.powerOnReset b) s = .next t ∧ t.hub.phase = .warmHeld ∧ t.hub.ready = false ∧ t.hub.warmCause = c.2 ∧ t.slp.sessions = []) ∧
      (b.testEn = false → b.hubOk = true → b.cut = none → b.image = none ∨ b.recoveryN = false →
        ∃ t, exec (.powerOnReset b) s = .next t ∧ t.hub.phase = .recovery ∧ t.hub.ready = true ∧ t.hub.lastStart = 2 ∧
          t.hub.bootEpoch = s.hub.bootEpoch ∧ t.hub.rootUsed = s.hub.rootUsed ∧ t.tenants = s.tenants ∧ (t.port 16).link = 1) ∧
      (b.testEn = false → b.hubOk = true → b.cut = none → b.recoveryN = true → b.image = some i → s.imageStatus i = 0 →
        ∃ t, exec (.powerOnReset b) s = .next t ∧ t.hub.phase = .running ∧ t.hub.ready = true ∧ t.hub.lastStart = 0 ∧ t.hub.startPhase = 11 ∧
          t.hub.tick = 0 ∧ t.hub.bootEpoch = (s.hub.bootEpoch + 1) % 2 ^ 32 ∧ t.hub.svn = hdrSvn s.imageHeader ∧ t.hub.fwHash = s.imageHash ∧
          (b.badLeaves + s.hub.rootUsed < 32767 →
            t.hub.rootLeaf = s.hub.rootUsed + b.badLeaves ∧ t.hub.rootUsed = s.hub.rootUsed + b.badLeaves + 1 ∧ t.hub.epochState = 1) ∧
          (32767 ≤ b.badLeaves + s.hub.rootUsed → t.hub.rootUsed = 32768 ∧ t.hub.epochState = 0 ∧ t.hub.replaceMe = true) ∧
          t.spares.owners = [] ∧ t.tenants = s.tenants ∧ t.mem = Memory.reset ∧ t.slp.sessions = [] ∧ (t.port 16).link = 1 ∧
          (∀ k page, ((t.mac k).page page).valid = false ∧ ((t.mac k).page page).cells = []) ∧
          (b.tests.macros = [] → b.tests.lanes = [] → b.tests.cores = [] →
            ∀ k, k < 78336 → (t.mac k).cfg.enable = decide (k ∉ t.spares.macros)))) ∧
    (∃ t, exec (.porstNLow true) s = .next t ∧ ∀ k page, ((t.mac k).page page).valid = false) ∧
    (s.hub.phase = .warmHeld → s.hub.refLost = false → b.hubOk = true → b.cut = none → s.hub.straps.testBit 3 = true → b.image = some i → s.imageStatus i = 0 →
      ∃ t, exec (.warmStartUp b) s = .next t ∧ t.hub.phase = .running ∧ t.hub.ready = true ∧ t.hub.lastStart = 1 ∧
        t.hub.tick = s.hub.tick ∧ t.hub.bootEpoch = (s.hub.bootEpoch + 1) % 2 ^ 32 ∧ t.hub.rootUsed = s.hub.rootUsed ∧
        t.hub.epochState = (if b.epochOk then s.hub.epochState else 0) ∧ t.hub.straps = s.hub.straps ∧ t.spares.owners = s.spares.owners ∧
        t.tenants = s.tenants ∧ (16 ∉ b.badRings → t.hub.log.recs = s.hub.log.recs) ∧
        (16 ∈ b.badRings → ∃ r, t.hub.log.recs = [r] ∧ r.cls = 1 ∧ r.seq = 0) ∧
        ∀ p, p < 16 → (p ∉ b.badRings → (t.part p).log.recs = (s.part p).log.recs) ∧
          (p ∈ b.badRings → ∃ r, (t.part p).log.recs = [r] ∧ r.cls = 1 ∧ r.seq = 0)) ∧
    (s.hub.phase = .warmHeld → s.hub.refLost = true → exec (.warmStartUp b) s = .next s)

/-- R452, R464, R493, R494: `IDCODE` puts 0x21620FCB in the data register and `BYPASS` 0 (what `BYPASS` leaves in the register is log entry 27,
PRESUMED); `EXTEST` and `SAMPLE/PRELOAD` act on the 34 signal pins while `PORST_N` is low, at any other time `BYPASS` stands in their place; the
epoch tree, once generated from its seed, is in force with no leaf used, for the image then running. Where the spec leaves a point open, the
reading is the model's, of log entry 27. -/
def Obligations.ScanAndEpochComplete : Prop :=
  ∀ (s : State) (pins : Nat) (seed ident : List Byte),
    let loaded (x : Tap) (v : Nat) : State := { s with hub := { s.hub with tap := x, tapReg := v } }
    exec .idcode s = .next (loaded .idcode 0x21620FCB) ∧ exec .bypass s = .next (loaded .bypass 0) ∧
    (s.hub.phase = .porst → exec (.extest pins) s = .next (loaded .extest (pins % 2 ^ 34)) ∧
      exec (.samplePreload pins) s = .next (loaded .samplePreload (pins % 2 ^ 34))) ∧
    (s.hub.phase ≠ .porst → exec (.extest pins) s = .next (loaded .bypass 0) ∧ exec (.samplePreload pins) s = .next (loaded .bypass 0)) ∧
    (s.hub.phase = .running → s.hub.epochState = 1 →
      exec (.epochTreeReady seed ident) s = .next { s with hub := { s.hub with
        epochState := 2, epochSeed := padTo 32 seed, epochIdent := padTo 16 ident, epochHash := s.hub.fwHash, epochUsed := 0 } })

/-! ### The machine as a whole -/

/-- R149, R216, R376, R431, R432: bytes written are read back and no other byte changes, whatever the memory lists; a code word written over
whole is sound, one written in part stays as it was; a clear leaves zeros. -/
def Obligations.MemoryReadsBack : Prop :=
  ∀ (m : Memory) (a n : Nat) (bs : List Byte),
    (m.write a bs).readN a bs.length = bs ∧ (∀ x, ¬(a ≤ x ∧ x < a + bs.length) → (m.write a bs).read x = m.read x) ∧
    (∀ x, (m.clear a n).read x = if a ≤ x ∧ x < a + n then 0 else m.read x) ∧
    (∀ b ∈ m.bad, b ∈ (m.write a bs).bad ↔ ¬(a ≤ b ∧ b + codeSize b ≤ a + bs.length)) ∧
    (∀ b ∈ (m.clear a n).bad, b ∈ m.bad ∧ ¬(b < a + n ∧ a < b + codeSize b))

/-- R10, R350, R370, R384, Table 18.5: at reset `PORST_N` holds the device: nothing is listed in any memory, every byte reads 0, no page is valid
and no owner recorded, the tick is 0, no partition, window, ring, session, tenant or alarm exists, and no command waits. Byte values before the
start-up's clears, and the temperatures and ceilings before the first readings, are the model's (log entries 6, 17). -/
def Obligations.ResetState : Prop :=
  QueueOk State.reset ∧ MemOk State.reset ∧ State.reset.pending = [] ∧ State.reset.hub.phase = .porst ∧ State.reset.hub.tick = 0 ∧
    State.reset.hub.ready = false ∧ State.reset.slp.sessions = [] ∧ State.reset.rings = [] ∧ State.reset.tenants = [] ∧ State.reset.dict = [] ∧
    State.reset.spares.owners = [] ∧ (∀ a, State.reset.mem.read a = 0) ∧
    (∀ k page, ((State.reset.mac k).page page).valid = false) ∧
    (∀ p, State.reset.exists_ p = false ∧ (State.reset.part p).windows = [] ∧ (State.reset.part p).job = none) ∧
    ∀ n, (mget State.reset.hub.alarms Alarm.reset n).raised = false

/-- The block's step: the command at the front of the queue runs on the state with the queue's rest. With nothing waiting a control tick ends
instead (the model's choice, log entry 3): the tick counter rises by 1, unless `PORST_N` holds the device or its reference is lost. -/
def Obligations.StepRunsFront : Prop :=
  ∀ (s : State) (c : Instr),
    step { s with pending := c :: s.pending } = exec c s ∧
    (s.pending = [] → ∃ t, step s = .next t ∧ t.pending = [] ∧
      t.hub.tick = if s.hub.phase = .porst ∨ s.hub.refLost = true then s.hub.tick else s.hub.tick + 1)

/-- No command stops the device by the rules of its row: every command that names units that exist answers a next state whose waiting commands
are those of the state it ran on. The model's choice, log entry 2: one that names a unit that does not exist stops with the fault `noSuchUnit`,
and only such do. From every state whose waiting commands name units that exist, a step answers a next state, whose waiting commands are those
behind the first. The same over any number of steps: such a device runs on. Where the spec leaves a point open, the reading is the model's, of
log entry 2. -/
def Obligations.DeviceRunsOn : Prop :=
  (∀ (i : Instr) (s : State),
    (i.wf = true → ∃ t, exec i s = .next t ∧ t.pending = s.pending ∧ t.harm = s.harm) ∧ (i.wf = false → exec i s = .fault .noSuchUnit)) ∧
  (∀ (s : State), QueueOk s → ∃ t, step s = .next t ∧ QueueOk t ∧ t.pending = s.pending.drop 1) ∧
  (∀ (s : State) (n : Nat), QueueOk s → ∃ t : State, Host.Core.run Sys2Proof.core n s = .next t ∧ t.pending = s.pending.drop n)

/-- Every step of every command, and every control tick, keeps memory in its canonical form: addresses strictly rising and no byte listed that
reads as an unlisted one does (the form is the model's, log entry 6). -/
def Obligations.MemoryStaysCanonical : Prop :=
  ∀ (s t : State), MemOk s → step s = .next t → MemOk t
end

