-- ==== Sys2Proof/Laws/Map.lean ====
section
/-! SUPPORT. The laws of sparse tables: what is read after an entry is set, in every table, and that setting keeps the canonical form. -/

namespace Sys2Proof.Laws

open Sys2Proof.Machine

variable {α : Type}

@[simp] theorem mget_nil (d : α) (k : Nat) : mget ([] : Map α) d k = d := rfl

theorem mget_append (a b : Map α) (d : α) (k : Nat) (h : ∀ e ∈ a, e.1 ≠ k) : mget (a ++ b) d k = mget b d k := by
  induction a with
  | nil => rfl
  | cons e rest ih =>
    have hk : e.1 ≠ k := h e (List.mem_cons_self ..)
    simp only [List.cons_append, mget, if_neg hk]
    exact ih fun x hx => h x (List.mem_cons_of_mem _ hx)

theorem mget_absent (a : Map α) (d : α) (k : Nat) (h : ∀ e ∈ a, e.1 ≠ k) : mget a d k = d := by
  simpa using mget_append a [] d k h

theorem mget_append_absent (a b : Map α) (d : α) (k : Nat) (h : ∀ e ∈ b, e.1 ≠ k) : mget (a ++ b) d k = mget a d k := by
  induction a with
  | nil => simpa using mget_absent b d k h
  | cons e rest ih =>
    simp only [List.cons_append, mget]
    split
    · rfl
    · exact ih

/-- A filter that keeps every entry of a key keeps what is read there. -/
theorem mget_filter (m : Map α) (d : α) (k : Nat) (f : Nat × α → Bool) (h : ∀ v, f (k, v) = true) : mget (m.filter f) d k = mget m d k := by
  induction m with
  | nil => rfl
  | cons e rest ih =>
    obtain ⟨j, v⟩ := e
    by_cases hj : j = k
    · subst hj; simp [h, mget]
    · by_cases hf : f (j, v) <;> simp [hf, mget, hj, ih]

/-- A filter that keeps no entry of a key leaves the default there. -/
theorem mget_filter_none (m : Map α) (d : α) (k : Nat) (f : Nat × α → Bool) (h : ∀ v, f (k, v) = false) : mget (m.filter f) d k = d := by
  apply mget_absent
  intro e he hk
  obtain ⟨j, v⟩ := e
  simp only [List.mem_filter] at he
  cases hk
  simp [h] at he

variable [DecidableEq α]

@[simp] theorem mget_mset_same (m : Map α) (d : α) (k : Nat) (v : α) : mget (mset m d k v) d k = v := by
  have hl : ∀ e ∈ m.filter (fun e => decide (e.1 < k)), e.1 ≠ k := by
    intro e he; simp only [List.mem_filter, decide_eq_true_eq] at he; omega
  have hr : mget (m.filter fun e => decide (k < e.1)) d k = d := mget_filter_none _ _ _ _ (by simp)
  unfold mset
  rw [List.append_assoc, mget_append _ _ _ _ hl]
  by_cases hv : v = d
  · simp [hv, hr]
  · simp [hv, mget]

theorem mget_mset_other (m : Map α) (d : α) {k j : Nat} (v : α) (h : j ≠ k) : mget (mset m d k v) d j = mget m d j := by
  unfold mset
  have hmid : ∀ e ∈ (if v = d then ([] : Map α) else [(k, v)]), e.1 ≠ j := by
    intro e he; split at he
    · simp at he
    · simp only [List.mem_singleton] at he; subst he; exact fun hc => h hc.symm
  by_cases hj : j < k
  · have hr : ∀ e ∈ m.filter (fun e => decide (k < e.1)), e.1 ≠ j := by
      intro e he; simp only [List.mem_filter, decide_eq_true_eq] at he; omega
    rw [mget_append_absent _ _ _ _ hr, mget_append_absent _ _ _ _ hmid]
    exact mget_filter _ _ _ _ (by simp [hj])
  · have hl : ∀ e ∈ m.filter (fun e => decide (e.1 < k)), e.1 ≠ j := by
      intro e he; simp only [List.mem_filter, decide_eq_true_eq] at he; omega
    rw [List.append_assoc, mget_append _ _ _ _ hl, mget_append _ _ _ _ hmid]
    exact mget_filter _ _ _ _ (by simp; omega)

theorem mget_mset (m : Map α) (d : α) (k j : Nat) (v : α) : mget (mset m d k v) d j = if j = k then v else mget m d j := by
  by_cases h : j = k
  · subst h; simp
  · simp [h, mget_mset_other]

/-- Only the last of two settings of a key counts. -/
@[simp] theorem mset_mset_same (m : Map α) (d : α) (k : Nat) (v v' : α) : mset (mset m d k v) d k v' = mset m d k v' := by
  have low : (mset m d k v).filter (fun e => decide (e.1 < k)) = m.filter fun e => decide (e.1 < k) := by
    unfold mset
    have hr : (m.filter fun e => decide (k < e.1)).filter (fun e => decide (e.1 < k)) = [] := by
      rw [List.filter_filter, List.filter_eq_nil_iff]; intro e _; simp; omega
    rw [List.filter_append, List.filter_append, hr]
    split <;> simp
  have high : (mset m d k v).filter (fun e => decide (k < e.1)) = m.filter fun e => decide (k < e.1) := by
    unfold mset
    have hl : (m.filter fun e => decide (e.1 < k)).filter (fun e => decide (k < e.1)) = [] := by
      rw [List.filter_filter, List.filter_eq_nil_iff]; intro e _; simp; omega
    rw [List.filter_append, List.filter_append, hl]
    split <;> simp
  change (mset m d k v).filter (fun e => decide (e.1 < k)) ++ (if v' = d then [] else [(k, v')]) ++
    (mset m d k v).filter (fun e => decide (k < e.1)) = mset m d k v'
  rw [low, high]; rfl

@[simp] theorem mget_mupd_same (m : Map α) (d : α) (k : Nat) (f : α → α) : mget (mupd m d k f) d k = f (mget m d k) := by simp [mupd]

theorem mget_mupd_other (m : Map α) (d : α) {k j : Nat} (f : α → α) (h : j ≠ k) : mget (mupd m d k f) d j = mget m d j := by
  simp [mupd, mget_mset_other _ _ _ h]

end Sys2Proof.Laws
end

