-- ==== Sys2Proof/Laws/State.lean ====
section
/-! SUPPORT. What each update of the state leaves as it was, field by field and unit by unit, and what is read of the unit it rewrites. -/

namespace Sys2Proof.Machine

open Sys2Proof.Laws

variable (s : State)

@[simp] theorem State.setCore_pending (c : Nat) (v : Core) : (s.setCore c v).pending = s.pending := rfl
@[simp] theorem State.setCore_mem (c : Nat) (v : Core) : (s.setCore c v).mem = s.mem := rfl
@[simp] theorem State.setCore_macros (c : Nat) (v : Core) : (s.setCore c v).macros = s.macros := rfl
@[simp] theorem State.setCore_skinks (c : Nat) (v : Core) : (s.setCore c v).skinks = s.skinks := rfl
@[simp] theorem State.setCore_engines (c : Nat) (v : Core) : (s.setCore c v).engines = s.engines := rfl
@[simp] theorem State.setCore_links (c : Nat) (v : Core) : (s.setCore c v).links = s.links := rfl
@[simp] theorem State.setCore_parts (c : Nat) (v : Core) : (s.setCore c v).parts = s.parts := rfl
@[simp] theorem State.setCore_rings (c : Nat) (v : Core) : (s.setCore c v).rings = s.rings := rfl
@[simp] theorem State.setCore_tenants (c : Nat) (v : Core) : (s.setCore c v).tenants = s.tenants := rfl
@[simp] theorem State.setCore_dict (c : Nat) (v : Core) : (s.setCore c v).dict = s.dict := rfl
@[simp] theorem State.setCore_slp (c : Nat) (v : Core) : (s.setCore c v).slp = s.slp := rfl
@[simp] theorem State.setCore_hub (c : Nat) (v : Core) : (s.setCore c v).hub = s.hub := rfl
@[simp] theorem State.setCore_power (c : Nat) (v : Core) : (s.setCore c v).power = s.power := rfl
@[simp] theorem State.setCore_spares (c : Nat) (v : Core) : (s.setCore c v).spares = s.spares := rfl
@[simp] theorem State.setCore_towers (c : Nat) (v : Core) : (s.setCore c v).towers = s.towers := rfl
@[simp] theorem State.setCore_fresh (c : Nat) (v : Core) : (s.setCore c v).fresh = s.fresh := rfl
@[simp] theorem State.setCore_harm (c : Nat) (v : Core) : (s.setCore c v).harm = s.harm := rfl
@[simp] theorem State.setCore_mac (c : Nat) (v : Core) (x : Nat) : (s.setCore c v).mac x = s.mac x := rfl
@[simp] theorem State.setCore_skink (c : Nat) (v : Core) (x : Nat) : (s.setCore c v).skink x = s.skink x := rfl
@[simp] theorem State.setCore_engine (c : Nat) (v : Core) (x : Nat) : (s.setCore c v).engine x = s.engine x := rfl
@[simp] theorem State.setCore_link (c : Nat) (v : Core) (x : Nat) : (s.setCore c v).link x = s.link x := rfl
@[simp] theorem State.setCore_part (c : Nat) (v : Core) (x : Nat) : (s.setCore c v).part x = s.part x := rfl
@[simp] theorem State.setCore_ring (c : Nat) (v : Core) (x : Nat) : (s.setCore c v).ring x = s.ring x := rfl
@[simp] theorem State.setCore_tower (c : Nat) (v : Core) (x : Nat) : (s.setCore c v).tower x = s.tower x := rfl
@[simp] theorem State.setCore_port (c : Nat) (v : Core) (x : Nat) : (s.setCore c v).port x = s.port x := rfl
@[simp] theorem State.setCore_session (c : Nat) (v : Core) (x : Nat) : (s.setCore c v).session x = s.session x := rfl

@[simp] theorem State.updCore_pending (c : Nat) (f : Core → Core) : (s.updCore c f).pending = s.pending := rfl
@[simp] theorem State.updCore_mem (c : Nat) (f : Core → Core) : (s.updCore c f).mem = s.mem := rfl
@[simp] theorem State.updCore_macros (c : Nat) (f : Core → Core) : (s.updCore c f).macros = s.macros := rfl
@[simp] theorem State.updCore_skinks (c : Nat) (f : Core → Core) : (s.updCore c f).skinks = s.skinks := rfl
@[simp] theorem State.updCore_engines (c : Nat) (f : Core → Core) : (s.updCore c f).engines = s.engines := rfl
@[simp] theorem State.updCore_links (c : Nat) (f : Core → Core) : (s.updCore c f).links = s.links := rfl
@[simp] theorem State.updCore_parts (c : Nat) (f : Core → Core) : (s.updCore c f).parts = s.parts := rfl
@[simp] theorem State.updCore_rings (c : Nat) (f : Core → Core) : (s.updCore c f).rings = s.rings := rfl
@[simp] theorem State.updCore_tenants (c : Nat) (f : Core → Core) : (s.updCore c f).tenants = s.tenants := rfl
@[simp] theorem State.updCore_dict (c : Nat) (f : Core → Core) : (s.updCore c f).dict = s.dict := rfl
@[simp] theorem State.updCore_slp (c : Nat) (f : Core → Core) : (s.updCore c f).slp = s.slp := rfl
@[simp] theorem State.updCore_hub (c : Nat) (f : Core → Core) : (s.updCore c f).hub = s.hub := rfl
@[simp] theorem State.updCore_power (c : Nat) (f : Core → Core) : (s.updCore c f).power = s.power := rfl
@[simp] theorem State.updCore_spares (c : Nat) (f : Core → Core) : (s.updCore c f).spares = s.spares := rfl
@[simp] theorem State.updCore_towers (c : Nat) (f : Core → Core) : (s.updCore c f).towers = s.towers := rfl
@[simp] theorem State.updCore_fresh (c : Nat) (f : Core → Core) : (s.updCore c f).fresh = s.fresh := rfl
@[simp] theorem State.updCore_harm (c : Nat) (f : Core → Core) : (s.updCore c f).harm = s.harm := rfl
@[simp] theorem State.updCore_mac (c : Nat) (f : Core → Core) (x : Nat) : (s.updCore c f).mac x = s.mac x := rfl
@[simp] theorem State.updCore_skink (c : Nat) (f : Core → Core) (x : Nat) : (s.updCore c f).skink x = s.skink x := rfl
@[simp] theorem State.updCore_engine (c : Nat) (f : Core → Core) (x : Nat) : (s.updCore c f).engine x = s.engine x := rfl
@[simp] theorem State.updCore_link (c : Nat) (f : Core → Core) (x : Nat) : (s.updCore c f).link x = s.link x := rfl
@[simp] theorem State.updCore_part (c : Nat) (f : Core → Core) (x : Nat) : (s.updCore c f).part x = s.part x := rfl
@[simp] theorem State.updCore_ring (c : Nat) (f : Core → Core) (x : Nat) : (s.updCore c f).ring x = s.ring x := rfl
@[simp] theorem State.updCore_tower (c : Nat) (f : Core → Core) (x : Nat) : (s.updCore c f).tower x = s.tower x := rfl
@[simp] theorem State.updCore_port (c : Nat) (f : Core → Core) (x : Nat) : (s.updCore c f).port x = s.port x := rfl
@[simp] theorem State.updCore_session (c : Nat) (f : Core → Core) (x : Nat) : (s.updCore c f).session x = s.session x := rfl

@[simp] theorem State.setMac_pending (k : Nat) (v : Macro) : (s.setMac k v).pending = s.pending := rfl
@[simp] theorem State.setMac_mem (k : Nat) (v : Macro) : (s.setMac k v).mem = s.mem := rfl
@[simp] theorem State.setMac_cores (k : Nat) (v : Macro) : (s.setMac k v).cores = s.cores := rfl
@[simp] theorem State.setMac_skinks (k : Nat) (v : Macro) : (s.setMac k v).skinks = s.skinks := rfl
@[simp] theorem State.setMac_engines (k : Nat) (v : Macro) : (s.setMac k v).engines = s.engines := rfl
@[simp] theorem State.setMac_links (k : Nat) (v : Macro) : (s.setMac k v).links = s.links := rfl
@[simp] theorem State.setMac_parts (k : Nat) (v : Macro) : (s.setMac k v).parts = s.parts := rfl
@[simp] theorem State.setMac_rings (k : Nat) (v : Macro) : (s.setMac k v).rings = s.rings := rfl
@[simp] theorem State.setMac_tenants (k : Nat) (v : Macro) : (s.setMac k v).tenants = s.tenants := rfl
@[simp] theorem State.setMac_dict (k : Nat) (v : Macro) : (s.setMac k v).dict = s.dict := rfl
@[simp] theorem State.setMac_slp (k : Nat) (v : Macro) : (s.setMac k v).slp = s.slp := rfl
@[simp] theorem State.setMac_hub (k : Nat) (v : Macro) : (s.setMac k v).hub = s.hub := rfl
@[simp] theorem State.setMac_power (k : Nat) (v : Macro) : (s.setMac k v).power = s.power := rfl
@[simp] theorem State.setMac_spares (k : Nat) (v : Macro) : (s.setMac k v).spares = s.spares := rfl
@[simp] theorem State.setMac_towers (k : Nat) (v : Macro) : (s.setMac k v).towers = s.towers := rfl
@[simp] theorem State.setMac_fresh (k : Nat) (v : Macro) : (s.setMac k v).fresh = s.fresh := rfl
@[simp] theorem State.setMac_harm (k : Nat) (v : Macro) : (s.setMac k v).harm = s.harm := rfl
@[simp] theorem State.setMac_core (k : Nat) (v : Macro) (x : Nat) : (s.setMac k v).core x = s.core x := rfl
@[simp] theorem State.setMac_skink (k : Nat) (v : Macro) (x : Nat) : (s.setMac k v).skink x = s.skink x := rfl
@[simp] theorem State.setMac_engine (k : Nat) (v : Macro) (x : Nat) : (s.setMac k v).engine x = s.engine x := rfl
@[simp] theorem State.setMac_link (k : Nat) (v : Macro) (x : Nat) : (s.setMac k v).link x = s.link x := rfl
@[simp] theorem State.setMac_part (k : Nat) (v : Macro) (x : Nat) : (s.setMac k v).part x = s.part x := rfl
@[simp] theorem State.setMac_ring (k : Nat) (v : Macro) (x : Nat) : (s.setMac k v).ring x = s.ring x := rfl
@[simp] theorem State.setMac_tower (k : Nat) (v : Macro) (x : Nat) : (s.setMac k v).tower x = s.tower x := rfl
@[simp] theorem State.setMac_port (k : Nat) (v : Macro) (x : Nat) : (s.setMac k v).port x = s.port x := rfl
@[simp] theorem State.setMac_session (k : Nat) (v : Macro) (x : Nat) : (s.setMac k v).session x = s.session x := rfl

@[simp] theorem State.updMac_pending (k : Nat) (f : Macro → Macro) : (s.updMac k f).pending = s.pending := rfl
@[simp] theorem State.updMac_mem (k : Nat) (f : Macro → Macro) : (s.updMac k f).mem = s.mem := rfl
@[simp] theorem State.updMac_cores (k : Nat) (f : Macro → Macro) : (s.updMac k f).cores = s.cores := rfl
@[simp] theorem State.updMac_skinks (k : Nat) (f : Macro → Macro) : (s.updMac k f).skinks = s.skinks := rfl
@[simp] theorem State.updMac_engines (k : Nat) (f : Macro → Macro) : (s.updMac k f).engines = s.engines := rfl
@[simp] theorem State.updMac_links (k : Nat) (f : Macro → Macro) : (s.updMac k f).links = s.links := rfl
@[simp] theorem State.updMac_parts (k : Nat) (f : Macro → Macro) : (s.updMac k f).parts = s.parts := rfl
@[simp] theorem State.updMac_rings (k : Nat) (f : Macro → Macro) : (s.updMac k f).rings = s.rings := rfl
@[simp] theorem State.updMac_tenants (k : Nat) (f : Macro → Macro) : (s.updMac k f).tenants = s.tenants := rfl
@[simp] theorem State.updMac_dict (k : Nat) (f : Macro → Macro) : (s.updMac k f).dict = s.dict := rfl
@[simp] theorem State.updMac_slp (k : Nat) (f : Macro → Macro) : (s.updMac k f).slp = s.slp := rfl
@[simp] theorem State.updMac_hub (k : Nat) (f : Macro → Macro) : (s.updMac k f).hub = s.hub := rfl
@[simp] theorem State.updMac_power (k : Nat) (f : Macro → Macro) : (s.updMac k f).power = s.power := rfl
@[simp] theorem State.updMac_spares (k : Nat) (f : Macro → Macro) : (s.updMac k f).spares = s.spares := rfl
@[simp] theorem State.updMac_towers (k : Nat) (f : Macro → Macro) : (s.updMac k f).towers = s.towers := rfl
@[simp] theorem State.updMac_fresh (k : Nat) (f : Macro → Macro) : (s.updMac k f).fresh = s.fresh := rfl
@[simp] theorem State.updMac_harm (k : Nat) (f : Macro → Macro) : (s.updMac k f).harm = s.harm := rfl
@[simp] theorem State.updMac_core (k : Nat) (f : Macro → Macro) (x : Nat) : (s.updMac k f).core x = s.core x := rfl
@[simp] theorem State.updMac_skink (k : Nat) (f : Macro → Macro) (x : Nat) : (s.updMac k f).skink x = s.skink x := rfl
@[simp] theorem State.updMac_engine (k : Nat) (f : Macro → Macro) (x : Nat) : (s.updMac k f).engine x = s.engine x := rfl
@[simp] theorem State.updMac_link (k : Nat) (f : Macro → Macro) (x : Nat) : (s.updMac k f).link x = s.link x := rfl
@[simp] theorem State.updMac_part (k : Nat) (f : Macro → Macro) (x : Nat) : (s.updMac k f).part x = s.part x := rfl
@[simp] theorem State.updMac_ring (k : Nat) (f : Macro → Macro) (x : Nat) : (s.updMac k f).ring x = s.ring x := rfl
@[simp] theorem State.updMac_tower (k : Nat) (f : Macro → Macro) (x : Nat) : (s.updMac k f).tower x = s.tower x := rfl
@[simp] theorem State.updMac_port (k : Nat) (f : Macro → Macro) (x : Nat) : (s.updMac k f).port x = s.port x := rfl
@[simp] theorem State.updMac_session (k : Nat) (f : Macro → Macro) (x : Nat) : (s.updMac k f).session x = s.session x := rfl

@[simp] theorem State.setSkink_pending (e : Nat) (v : Skink) : (s.setSkink e v).pending = s.pending := rfl
@[simp] theorem State.setSkink_mem (e : Nat) (v : Skink) : (s.setSkink e v).mem = s.mem := rfl
@[simp] theorem State.setSkink_cores (e : Nat) (v : Skink) : (s.setSkink e v).cores = s.cores := rfl
@[simp] theorem State.setSkink_macros (e : Nat) (v : Skink) : (s.setSkink e v).macros = s.macros := rfl
@[simp] theorem State.setSkink_engines (e : Nat) (v : Skink) : (s.setSkink e v).engines = s.engines := rfl
@[simp] theorem State.setSkink_links (e : Nat) (v : Skink) : (s.setSkink e v).links = s.links := rfl
@[simp] theorem State.setSkink_parts (e : Nat) (v : Skink) : (s.setSkink e v).parts = s.parts := rfl
@[simp] theorem State.setSkink_rings (e : Nat) (v : Skink) : (s.setSkink e v).rings = s.rings := rfl
@[simp] theorem State.setSkink_tenants (e : Nat) (v : Skink) : (s.setSkink e v).tenants = s.tenants := rfl
@[simp] theorem State.setSkink_dict (e : Nat) (v : Skink) : (s.setSkink e v).dict = s.dict := rfl
@[simp] theorem State.setSkink_slp (e : Nat) (v : Skink) : (s.setSkink e v).slp = s.slp := rfl
@[simp] theorem State.setSkink_hub (e : Nat) (v : Skink) : (s.setSkink e v).hub = s.hub := rfl
@[simp] theorem State.setSkink_power (e : Nat) (v : Skink) : (s.setSkink e v).power = s.power := rfl
@[simp] theorem State.setSkink_spares (e : Nat) (v : Skink) : (s.setSkink e v).spares = s.spares := rfl
@[simp] theorem State.setSkink_towers (e : Nat) (v : Skink) : (s.setSkink e v).towers = s.towers := rfl
@[simp] theorem State.setSkink_fresh (e : Nat) (v : Skink) : (s.setSkink e v).fresh = s.fresh := rfl
@[simp] theorem State.setSkink_harm (e : Nat) (v : Skink) : (s.setSkink e v).harm = s.harm := rfl
@[simp] theorem State.setSkink_core (e : Nat) (v : Skink) (x : Nat) : (s.setSkink e v).core x = s.core x := rfl
@[simp] theorem State.setSkink_mac (e : Nat) (v : Skink) (x : Nat) : (s.setSkink e v).mac x = s.mac x := rfl
@[simp] theorem State.setSkink_engine (e : Nat) (v : Skink) (x : Nat) : (s.setSkink e v).engine x = s.engine x := rfl
@[simp] theorem State.setSkink_link (e : Nat) (v : Skink) (x : Nat) : (s.setSkink e v).link x = s.link x := rfl
@[simp] theorem State.setSkink_part (e : Nat) (v : Skink) (x : Nat) : (s.setSkink e v).part x = s.part x := rfl
@[simp] theorem State.setSkink_ring (e : Nat) (v : Skink) (x : Nat) : (s.setSkink e v).ring x = s.ring x := rfl
@[simp] theorem State.setSkink_tower (e : Nat) (v : Skink) (x : Nat) : (s.setSkink e v).tower x = s.tower x := rfl
@[simp] theorem State.setSkink_port (e : Nat) (v : Skink) (x : Nat) : (s.setSkink e v).port x = s.port x := rfl
@[simp] theorem State.setSkink_session (e : Nat) (v : Skink) (x : Nat) : (s.setSkink e v).session x = s.session x := rfl

@[simp] theorem State.updSkink_pending (e : Nat) (f : Skink → Skink) : (s.updSkink e f).pending = s.pending := rfl
@[simp] theorem State.updSkink_mem (e : Nat) (f : Skink → Skink) : (s.updSkink e f).mem = s.mem := rfl
@[simp] theorem State.updSkink_cores (e : Nat) (f : Skink → Skink) : (s.updSkink e f).cores = s.cores := rfl
@[simp] theorem State.updSkink_macros (e : Nat) (f : Skink → Skink) : (s.updSkink e f).macros = s.macros := rfl
@[simp] theorem State.updSkink_engines (e : Nat) (f : Skink → Skink) : (s.updSkink e f).engines = s.engines := rfl
@[simp] theorem State.updSkink_links (e : Nat) (f : Skink → Skink) : (s.updSkink e f).links = s.links := rfl
@[simp] theorem State.updSkink_parts (e : Nat) (f : Skink → Skink) : (s.updSkink e f).parts = s.parts := rfl
@[simp] theorem State.updSkink_rings (e : Nat) (f : Skink → Skink) : (s.updSkink e f).rings = s.rings := rfl
@[simp] theorem State.updSkink_tenants (e : Nat) (f : Skink → Skink) : (s.updSkink e f).tenants = s.tenants := rfl
@[simp] theorem State.updSkink_dict (e : Nat) (f : Skink → Skink) : (s.updSkink e f).dict = s.dict := rfl
@[simp] theorem State.updSkink_slp (e : Nat) (f : Skink → Skink) : (s.updSkink e f).slp = s.slp := rfl
@[simp] theorem State.updSkink_hub (e : Nat) (f : Skink → Skink) : (s.updSkink e f).hub = s.hub := rfl
@[simp] theorem State.updSkink_power (e : Nat) (f : Skink → Skink) : (s.updSkink e f).power = s.power := rfl
@[simp] theorem State.updSkink_spares (e : Nat) (f : Skink → Skink) : (s.updSkink e f).spares = s.spares := rfl
@[simp] theorem State.updSkink_towers (e : Nat) (f : Skink → Skink) : (s.updSkink e f).towers = s.towers := rfl
@[simp] theorem State.updSkink_fresh (e : Nat) (f : Skink → Skink) : (s.updSkink e f).fresh = s.fresh := rfl
@[simp] theorem State.updSkink_harm (e : Nat) (f : Skink → Skink) : (s.updSkink e f).harm = s.harm := rfl
@[simp] theorem State.updSkink_core (e : Nat) (f : Skink → Skink) (x : Nat) : (s.updSkink e f).core x = s.core x := rfl
@[simp] theorem State.updSkink_mac (e : Nat) (f : Skink → Skink) (x : Nat) : (s.updSkink e f).mac x = s.mac x := rfl
@[simp] theorem State.updSkink_engine (e : Nat) (f : Skink → Skink) (x : Nat) : (s.updSkink e f).engine x = s.engine x := rfl
@[simp] theorem State.updSkink_link (e : Nat) (f : Skink → Skink) (x : Nat) : (s.updSkink e f).link x = s.link x := rfl
@[simp] theorem State.updSkink_part (e : Nat) (f : Skink → Skink) (x : Nat) : (s.updSkink e f).part x = s.part x := rfl
@[simp] theorem State.updSkink_ring (e : Nat) (f : Skink → Skink) (x : Nat) : (s.updSkink e f).ring x = s.ring x := rfl
@[simp] theorem State.updSkink_tower (e : Nat) (f : Skink → Skink) (x : Nat) : (s.updSkink e f).tower x = s.tower x := rfl
@[simp] theorem State.updSkink_port (e : Nat) (f : Skink → Skink) (x : Nat) : (s.updSkink e f).port x = s.port x := rfl
@[simp] theorem State.updSkink_session (e : Nat) (f : Skink → Skink) (x : Nat) : (s.updSkink e f).session x = s.session x := rfl

@[simp] theorem State.updEngine_pending (i : Nat) (f : Engine → Engine) : (s.updEngine i f).pending = s.pending := rfl
@[simp] theorem State.updEngine_mem (i : Nat) (f : Engine → Engine) : (s.updEngine i f).mem = s.mem := rfl
@[simp] theorem State.updEngine_cores (i : Nat) (f : Engine → Engine) : (s.updEngine i f).cores = s.cores := rfl
@[simp] theorem State.updEngine_macros (i : Nat) (f : Engine → Engine) : (s.updEngine i f).macros = s.macros := rfl
@[simp] theorem State.updEngine_skinks (i : Nat) (f : Engine → Engine) : (s.updEngine i f).skinks = s.skinks := rfl
@[simp] theorem State.updEngine_links (i : Nat) (f : Engine → Engine) : (s.updEngine i f).links = s.links := rfl
@[simp] theorem State.updEngine_parts (i : Nat) (f : Engine → Engine) : (s.updEngine i f).parts = s.parts := rfl
@[simp] theorem State.updEngine_rings (i : Nat) (f : Engine → Engine) : (s.updEngine i f).rings = s.rings := rfl
@[simp] theorem State.updEngine_tenants (i : Nat) (f : Engine → Engine) : (s.updEngine i f).tenants = s.tenants := rfl
@[simp] theorem State.updEngine_dict (i : Nat) (f : Engine → Engine) : (s.updEngine i f).dict = s.dict := rfl
@[simp] theorem State.updEngine_slp (i : Nat) (f : Engine → Engine) : (s.updEngine i f).slp = s.slp := rfl
@[simp] theorem State.updEngine_hub (i : Nat) (f : Engine → Engine) : (s.updEngine i f).hub = s.hub := rfl
@[simp] theorem State.updEngine_power (i : Nat) (f : Engine → Engine) : (s.updEngine i f).power = s.power := rfl
@[simp] theorem State.updEngine_spares (i : Nat) (f : Engine → Engine) : (s.updEngine i f).spares = s.spares := rfl
@[simp] theorem State.updEngine_towers (i : Nat) (f : Engine → Engine) : (s.updEngine i f).towers = s.towers := rfl
@[simp] theorem State.updEngine_fresh (i : Nat) (f : Engine → Engine) : (s.updEngine i f).fresh = s.fresh := rfl
@[simp] theorem State.updEngine_harm (i : Nat) (f : Engine → Engine) : (s.updEngine i f).harm = s.harm := rfl
@[simp] theorem State.updEngine_core (i : Nat) (f : Engine → Engine) (x : Nat) : (s.updEngine i f).core x = s.core x := rfl
@[simp] theorem State.updEngine_mac (i : Nat) (f : Engine → Engine) (x : Nat) : (s.updEngine i f).mac x = s.mac x := rfl
@[simp] theorem State.updEngine_skink (i : Nat) (f : Engine → Engine) (x : Nat) : (s.updEngine i f).skink x = s.skink x := rfl
@[simp] theorem State.updEngine_link (i : Nat) (f : Engine → Engine) (x : Nat) : (s.updEngine i f).link x = s.link x := rfl
@[simp] theorem State.updEngine_part (i : Nat) (f : Engine → Engine) (x : Nat) : (s.updEngine i f).part x = s.part x := rfl
@[simp] theorem State.updEngine_ring (i : Nat) (f : Engine → Engine) (x : Nat) : (s.updEngine i f).ring x = s.ring x := rfl
@[simp] theorem State.updEngine_tower (i : Nat) (f : Engine → Engine) (x : Nat) : (s.updEngine i f).tower x = s.tower x := rfl
@[simp] theorem State.updEngine_port (i : Nat) (f : Engine → Engine) (x : Nat) : (s.updEngine i f).port x = s.port x := rfl
@[simp] theorem State.updEngine_session (i : Nat) (f : Engine → Engine) (x : Nat) : (s.updEngine i f).session x = s.session x := rfl

@[simp] theorem State.updLink_pending (k : Nat) (f : LinkDir → LinkDir) : (s.updLink k f).pending = s.pending := rfl
@[simp] theorem State.updLink_mem (k : Nat) (f : LinkDir → LinkDir) : (s.updLink k f).mem = s.mem := rfl
@[simp] theorem State.updLink_cores (k : Nat) (f : LinkDir → LinkDir) : (s.updLink k f).cores = s.cores := rfl
@[simp] theorem State.updLink_macros (k : Nat) (f : LinkDir → LinkDir) : (s.updLink k f).macros = s.macros := rfl
@[simp] theorem State.updLink_skinks (k : Nat) (f : LinkDir → LinkDir) : (s.updLink k f).skinks = s.skinks := rfl
@[simp] theorem State.updLink_engines (k : Nat) (f : LinkDir → LinkDir) : (s.updLink k f).engines = s.engines := rfl
@[simp] theorem State.updLink_parts (k : Nat) (f : LinkDir → LinkDir) : (s.updLink k f).parts = s.parts := rfl
@[simp] theorem State.updLink_rings (k : Nat) (f : LinkDir → LinkDir) : (s.updLink k f).rings = s.rings := rfl
@[simp] theorem State.updLink_tenants (k : Nat) (f : LinkDir → LinkDir) : (s.updLink k f).tenants = s.tenants := rfl
@[simp] theorem State.updLink_dict (k : Nat) (f : LinkDir → LinkDir) : (s.updLink k f).dict = s.dict := rfl
@[simp] theorem State.updLink_slp (k : Nat) (f : LinkDir → LinkDir) : (s.updLink k f).slp = s.slp := rfl
@[simp] theorem State.updLink_hub (k : Nat) (f : LinkDir → LinkDir) : (s.updLink k f).hub = s.hub := rfl
@[simp] theorem State.updLink_power (k : Nat) (f : LinkDir → LinkDir) : (s.updLink k f).power = s.power := rfl
@[simp] theorem State.updLink_spares (k : Nat) (f : LinkDir → LinkDir) : (s.updLink k f).spares = s.spares := rfl
@[simp] theorem State.updLink_towers (k : Nat) (f : LinkDir → LinkDir) : (s.updLink k f).towers = s.towers := rfl
@[simp] theorem State.updLink_fresh (k : Nat) (f : LinkDir → LinkDir) : (s.updLink k f).fresh = s.fresh := rfl
@[simp] theorem State.updLink_harm (k : Nat) (f : LinkDir → LinkDir) : (s.updLink k f).harm = s.harm := rfl
@[simp] theorem State.updLink_core (k : Nat) (f : LinkDir → LinkDir) (x : Nat) : (s.updLink k f).core x = s.core x := rfl
@[simp] theorem State.updLink_mac (k : Nat) (f : LinkDir → LinkDir) (x : Nat) : (s.updLink k f).mac x = s.mac x := rfl
@[simp] theorem State.updLink_skink (k : Nat) (f : LinkDir → LinkDir) (x : Nat) : (s.updLink k f).skink x = s.skink x := rfl
@[simp] theorem State.updLink_engine (k : Nat) (f : LinkDir → LinkDir) (x : Nat) : (s.updLink k f).engine x = s.engine x := rfl
@[simp] theorem State.updLink_part (k : Nat) (f : LinkDir → LinkDir) (x : Nat) : (s.updLink k f).part x = s.part x := rfl
@[simp] theorem State.updLink_ring (k : Nat) (f : LinkDir → LinkDir) (x : Nat) : (s.updLink k f).ring x = s.ring x := rfl
@[simp] theorem State.updLink_tower (k : Nat) (f : LinkDir → LinkDir) (x : Nat) : (s.updLink k f).tower x = s.tower x := rfl
@[simp] theorem State.updLink_port (k : Nat) (f : LinkDir → LinkDir) (x : Nat) : (s.updLink k f).port x = s.port x := rfl
@[simp] theorem State.updLink_session (k : Nat) (f : LinkDir → LinkDir) (x : Nat) : (s.updLink k f).session x = s.session x := rfl

@[simp] theorem State.setPart_pending (p : Nat) (v : Partition) : (s.setPart p v).pending = s.pending := rfl
@[simp] theorem State.setPart_mem (p : Nat) (v : Partition) : (s.setPart p v).mem = s.mem := rfl
@[simp] theorem State.setPart_cores (p : Nat) (v : Partition) : (s.setPart p v).cores = s.cores := rfl
@[simp] theorem State.setPart_macros (p : Nat) (v : Partition) : (s.setPart p v).macros = s.macros := rfl
@[simp] theorem State.setPart_skinks (p : Nat) (v : Partition) : (s.setPart p v).skinks = s.skinks := rfl
@[simp] theorem State.setPart_engines (p : Nat) (v : Partition) : (s.setPart p v).engines = s.engines := rfl
@[simp] theorem State.setPart_links (p : Nat) (v : Partition) : (s.setPart p v).links = s.links := rfl
@[simp] theorem State.setPart_rings (p : Nat) (v : Partition) : (s.setPart p v).rings = s.rings := rfl
@[simp] theorem State.setPart_tenants (p : Nat) (v : Partition) : (s.setPart p v).tenants = s.tenants := rfl
@[simp] theorem State.setPart_dict (p : Nat) (v : Partition) : (s.setPart p v).dict = s.dict := rfl
@[simp] theorem State.setPart_slp (p : Nat) (v : Partition) : (s.setPart p v).slp = s.slp := rfl
@[simp] theorem State.setPart_hub (p : Nat) (v : Partition) : (s.setPart p v).hub = s.hub := rfl
@[simp] theorem State.setPart_power (p : Nat) (v : Partition) : (s.setPart p v).power = s.power := rfl
@[simp] theorem State.setPart_spares (p : Nat) (v : Partition) : (s.setPart p v).spares = s.spares := rfl
@[simp] theorem State.setPart_towers (p : Nat) (v : Partition) : (s.setPart p v).towers = s.towers := rfl
@[simp] theorem State.setPart_fresh (p : Nat) (v : Partition) : (s.setPart p v).fresh = s.fresh := rfl
@[simp] theorem State.setPart_harm (p : Nat) (v : Partition) : (s.setPart p v).harm = s.harm := rfl
@[simp] theorem State.setPart_core (p : Nat) (v : Partition) (x : Nat) : (s.setPart p v).core x = s.core x := rfl
@[simp] theorem State.setPart_mac (p : Nat) (v : Partition) (x : Nat) : (s.setPart p v).mac x = s.mac x := rfl
@[simp] theorem State.setPart_skink (p : Nat) (v : Partition) (x : Nat) : (s.setPart p v).skink x = s.skink x := rfl
@[simp] theorem State.setPart_engine (p : Nat) (v : Partition) (x : Nat) : (s.setPart p v).engine x = s.engine x := rfl
@[simp] theorem State.setPart_link (p : Nat) (v : Partition) (x : Nat) : (s.setPart p v).link x = s.link x := rfl
@[simp] theorem State.setPart_ring (p : Nat) (v : Partition) (x : Nat) : (s.setPart p v).ring x = s.ring x := rfl
@[simp] theorem State.setPart_tower (p : Nat) (v : Partition) (x : Nat) : (s.setPart p v).tower x = s.tower x := rfl
@[simp] theorem State.setPart_port (p : Nat) (v : Partition) (x : Nat) : (s.setPart p v).port x = s.port x := rfl
@[simp] theorem State.setPart_session (p : Nat) (v : Partition) (x : Nat) : (s.setPart p v).session x = s.session x := rfl

@[simp] theorem State.updPart_pending (p : Nat) (f : Partition → Partition) : (s.updPart p f).pending = s.pending := rfl
@[simp] theorem State.updPart_mem (p : Nat) (f : Partition → Partition) : (s.updPart p f).mem = s.mem := rfl
@[simp] theorem State.updPart_cores (p : Nat) (f : Partition → Partition) : (s.updPart p f).cores = s.cores := rfl
@[simp] theorem State.updPart_macros (p : Nat) (f : Partition → Partition) : (s.updPart p f).macros = s.macros := rfl
@[simp] theorem State.updPart_skinks (p : Nat) (f : Partition → Partition) : (s.updPart p f).skinks = s.skinks := rfl
@[simp] theorem State.updPart_engines (p : Nat) (f : Partition → Partition) : (s.updPart p f).engines = s.engines := rfl
@[simp] theorem State.updPart_links (p : Nat) (f : Partition → Partition) : (s.updPart p f).links = s.links := rfl
@[simp] theorem State.updPart_rings (p : Nat) (f : Partition → Partition) : (s.updPart p f).rings = s.rings := rfl
@[simp] theorem State.updPart_tenants (p : Nat) (f : Partition → Partition) : (s.updPart p f).tenants = s.tenants := rfl
@[simp] theorem State.updPart_dict (p : Nat) (f : Partition → Partition) : (s.updPart p f).dict = s.dict := rfl
@[simp] theorem State.updPart_slp (p : Nat) (f : Partition → Partition) : (s.updPart p f).slp = s.slp := rfl
@[simp] theorem State.updPart_hub (p : Nat) (f : Partition → Partition) : (s.updPart p f).hub = s.hub := rfl
@[simp] theorem State.updPart_power (p : Nat) (f : Partition → Partition) : (s.updPart p f).power = s.power := rfl
@[simp] theorem State.updPart_spares (p : Nat) (f : Partition → Partition) : (s.updPart p f).spares = s.spares := rfl
@[simp] theorem State.updPart_towers (p : Nat) (f : Partition → Partition) : (s.updPart p f).towers = s.towers := rfl
@[simp] theorem State.updPart_fresh (p : Nat) (f : Partition → Partition) : (s.updPart p f).fresh = s.fresh := rfl
@[simp] theorem State.updPart_harm (p : Nat) (f : Partition → Partition) : (s.updPart p f).harm = s.harm := rfl
@[simp] theorem State.updPart_core (p : Nat) (f : Partition → Partition) (x : Nat) : (s.updPart p f).core x = s.core x := rfl
@[simp] theorem State.updPart_mac (p : Nat) (f : Partition → Partition) (x : Nat) : (s.updPart p f).mac x = s.mac x := rfl
@[simp] theorem State.updPart_skink (p : Nat) (f : Partition → Partition) (x : Nat) : (s.updPart p f).skink x = s.skink x := rfl
@[simp] theorem State.updPart_engine (p : Nat) (f : Partition → Partition) (x : Nat) : (s.updPart p f).engine x = s.engine x := rfl
@[simp] theorem State.updPart_link (p : Nat) (f : Partition → Partition) (x : Nat) : (s.updPart p f).link x = s.link x := rfl
@[simp] theorem State.updPart_ring (p : Nat) (f : Partition → Partition) (x : Nat) : (s.updPart p f).ring x = s.ring x := rfl
@[simp] theorem State.updPart_tower (p : Nat) (f : Partition → Partition) (x : Nat) : (s.updPart p f).tower x = s.tower x := rfl
@[simp] theorem State.updPart_port (p : Nat) (f : Partition → Partition) (x : Nat) : (s.updPart p f).port x = s.port x := rfl
@[simp] theorem State.updPart_session (p : Nat) (f : Partition → Partition) (x : Nat) : (s.updPart p f).session x = s.session x := rfl

@[simp] theorem State.setRing_pending (r : Nat) (v : Ring) : (s.setRing r v).pending = s.pending := rfl
@[simp] theorem State.setRing_mem (r : Nat) (v : Ring) : (s.setRing r v).mem = s.mem := rfl
@[simp] theorem State.setRing_cores (r : Nat) (v : Ring) : (s.setRing r v).cores = s.cores := rfl
@[simp] theorem State.setRing_macros (r : Nat) (v : Ring) : (s.setRing r v).macros = s.macros := rfl
@[simp] theorem State.setRing_skinks (r : Nat) (v : Ring) : (s.setRing r v).skinks = s.skinks := rfl
@[simp] theorem State.setRing_engines (r : Nat) (v : Ring) : (s.setRing r v).engines = s.engines := rfl
@[simp] theorem State.setRing_links (r : Nat) (v : Ring) : (s.setRing r v).links = s.links := rfl
@[simp] theorem State.setRing_parts (r : Nat) (v : Ring) : (s.setRing r v).parts = s.parts := rfl
@[simp] theorem State.setRing_tenants (r : Nat) (v : Ring) : (s.setRing r v).tenants = s.tenants := rfl
@[simp] theorem State.setRing_dict (r : Nat) (v : Ring) : (s.setRing r v).dict = s.dict := rfl
@[simp] theorem State.setRing_slp (r : Nat) (v : Ring) : (s.setRing r v).slp = s.slp := rfl
@[simp] theorem State.setRing_hub (r : Nat) (v : Ring) : (s.setRing r v).hub = s.hub := rfl
@[simp] theorem State.setRing_power (r : Nat) (v : Ring) : (s.setRing r v).power = s.power := rfl
@[simp] theorem State.setRing_spares (r : Nat) (v : Ring) : (s.setRing r v).spares = s.spares := rfl
@[simp] theorem State.setRing_towers (r : Nat) (v : Ring) : (s.setRing r v).towers = s.towers := rfl
@[simp] theorem State.setRing_fresh (r : Nat) (v : Ring) : (s.setRing r v).fresh = s.fresh := rfl
@[simp] theorem State.setRing_harm (r : Nat) (v : Ring) : (s.setRing r v).harm = s.harm := rfl
@[simp] theorem State.setRing_core (r : Nat) (v : Ring) (x : Nat) : (s.setRing r v).core x = s.core x := rfl
@[simp] theorem State.setRing_mac (r : Nat) (v : Ring) (x : Nat) : (s.setRing r v).mac x = s.mac x := rfl
@[simp] theorem State.setRing_skink (r : Nat) (v : Ring) (x : Nat) : (s.setRing r v).skink x = s.skink x := rfl
@[simp] theorem State.setRing_engine (r : Nat) (v : Ring) (x : Nat) : (s.setRing r v).engine x = s.engine x := rfl
@[simp] theorem State.setRing_link (r : Nat) (v : Ring) (x : Nat) : (s.setRing r v).link x = s.link x := rfl
@[simp] theorem State.setRing_part (r : Nat) (v : Ring) (x : Nat) : (s.setRing r v).part x = s.part x := rfl
@[simp] theorem State.setRing_tower (r : Nat) (v : Ring) (x : Nat) : (s.setRing r v).tower x = s.tower x := rfl
@[simp] theorem State.setRing_port (r : Nat) (v : Ring) (x : Nat) : (s.setRing r v).port x = s.port x := rfl
@[simp] theorem State.setRing_session (r : Nat) (v : Ring) (x : Nat) : (s.setRing r v).session x = s.session x := rfl

@[simp] theorem State.updRing_pending (r : Nat) (f : Ring → Ring) : (s.updRing r f).pending = s.pending := rfl
@[simp] theorem State.updRing_mem (r : Nat) (f : Ring → Ring) : (s.updRing r f).mem = s.mem := rfl
@[simp] theorem State.updRing_cores (r : Nat) (f : Ring → Ring) : (s.updRing r f).cores = s.cores := rfl
@[simp] theorem State.updRing_macros (r : Nat) (f : Ring → Ring) : (s.updRing r f).macros = s.macros := rfl
@[simp] theorem State.updRing_skinks (r : Nat) (f : Ring → Ring) : (s.updRing r f).skinks = s.skinks := rfl
@[simp] theorem State.updRing_engines (r : Nat) (f : Ring → Ring) : (s.updRing r f).engines = s.engines := rfl
@[simp] theorem State.updRing_links (r : Nat) (f : Ring → Ring) : (s.updRing r f).links = s.links := rfl
@[simp] theorem State.updRing_parts (r : Nat) (f : Ring → Ring) : (s.updRing r f).parts = s.parts := rfl
@[simp] theorem State.updRing_tenants (r : Nat) (f : Ring → Ring) : (s.updRing r f).tenants = s.tenants := rfl
@[simp] theorem State.updRing_dict (r : Nat) (f : Ring → Ring) : (s.updRing r f).dict = s.dict := rfl
@[simp] theorem State.updRing_slp (r : Nat) (f : Ring → Ring) : (s.updRing r f).slp = s.slp := rfl
@[simp] theorem State.updRing_hub (r : Nat) (f : Ring → Ring) : (s.updRing r f).hub = s.hub := rfl
@[simp] theorem State.updRing_power (r : Nat) (f : Ring → Ring) : (s.updRing r f).power = s.power := rfl
@[simp] theorem State.updRing_spares (r : Nat) (f : Ring → Ring) : (s.updRing r f).spares = s.spares := rfl
@[simp] theorem State.updRing_towers (r : Nat) (f : Ring → Ring) : (s.updRing r f).towers = s.towers := rfl
@[simp] theorem State.updRing_fresh (r : Nat) (f : Ring → Ring) : (s.updRing r f).fresh = s.fresh := rfl
@[simp] theorem State.updRing_harm (r : Nat) (f : Ring → Ring) : (s.updRing r f).harm = s.harm := rfl
@[simp] theorem State.updRing_core (r : Nat) (f : Ring → Ring) (x : Nat) : (s.updRing r f).core x = s.core x := rfl
@[simp] theorem State.updRing_mac (r : Nat) (f : Ring → Ring) (x : Nat) : (s.updRing r f).mac x = s.mac x := rfl
@[simp] theorem State.updRing_skink (r : Nat) (f : Ring → Ring) (x : Nat) : (s.updRing r f).skink x = s.skink x := rfl
@[simp] theorem State.updRing_engine (r : Nat) (f : Ring → Ring) (x : Nat) : (s.updRing r f).engine x = s.engine x := rfl
@[simp] theorem State.updRing_link (r : Nat) (f : Ring → Ring) (x : Nat) : (s.updRing r f).link x = s.link x := rfl
@[simp] theorem State.updRing_part (r : Nat) (f : Ring → Ring) (x : Nat) : (s.updRing r f).part x = s.part x := rfl
@[simp] theorem State.updRing_tower (r : Nat) (f : Ring → Ring) (x : Nat) : (s.updRing r f).tower x = s.tower x := rfl
@[simp] theorem State.updRing_port (r : Nat) (f : Ring → Ring) (x : Nat) : (s.updRing r f).port x = s.port x := rfl
@[simp] theorem State.updRing_session (r : Nat) (f : Ring → Ring) (x : Nat) : (s.updRing r f).session x = s.session x := rfl

@[simp] theorem State.updTower_pending (t : Nat) (f : Tower → Tower) : (s.updTower t f).pending = s.pending := rfl
@[simp] theorem State.updTower_mem (t : Nat) (f : Tower → Tower) : (s.updTower t f).mem = s.mem := rfl
@[simp] theorem State.updTower_cores (t : Nat) (f : Tower → Tower) : (s.updTower t f).cores = s.cores := rfl
@[simp] theorem State.updTower_macros (t : Nat) (f : Tower → Tower) : (s.updTower t f).macros = s.macros := rfl
@[simp] theorem State.updTower_skinks (t : Nat) (f : Tower → Tower) : (s.updTower t f).skinks = s.skinks := rfl
@[simp] theorem State.updTower_engines (t : Nat) (f : Tower → Tower) : (s.updTower t f).engines = s.engines := rfl
@[simp] theorem State.updTower_links (t : Nat) (f : Tower → Tower) : (s.updTower t f).links = s.links := rfl
@[simp] theorem State.updTower_parts (t : Nat) (f : Tower → Tower) : (s.updTower t f).parts = s.parts := rfl
@[simp] theorem State.updTower_rings (t : Nat) (f : Tower → Tower) : (s.updTower t f).rings = s.rings := rfl
@[simp] theorem State.updTower_tenants (t : Nat) (f : Tower → Tower) : (s.updTower t f).tenants = s.tenants := rfl
@[simp] theorem State.updTower_dict (t : Nat) (f : Tower → Tower) : (s.updTower t f).dict = s.dict := rfl
@[simp] theorem State.updTower_slp (t : Nat) (f : Tower → Tower) : (s.updTower t f).slp = s.slp := rfl
@[simp] theorem State.updTower_hub (t : Nat) (f : Tower → Tower) : (s.updTower t f).hub = s.hub := rfl
@[simp] theorem State.updTower_power (t : Nat) (f : Tower → Tower) : (s.updTower t f).power = s.power := rfl
@[simp] theorem State.updTower_spares (t : Nat) (f : Tower → Tower) : (s.updTower t f).spares = s.spares := rfl
@[simp] theorem State.updTower_fresh (t : Nat) (f : Tower → Tower) : (s.updTower t f).fresh = s.fresh := rfl
@[simp] theorem State.updTower_harm (t : Nat) (f : Tower → Tower) : (s.updTower t f).harm = s.harm := rfl
@[simp] theorem State.updTower_core (t : Nat) (f : Tower → Tower) (x : Nat) : (s.updTower t f).core x = s.core x := rfl
@[simp] theorem State.updTower_mac (t : Nat) (f : Tower → Tower) (x : Nat) : (s.updTower t f).mac x = s.mac x := rfl
@[simp] theorem State.updTower_skink (t : Nat) (f : Tower → Tower) (x : Nat) : (s.updTower t f).skink x = s.skink x := rfl
@[simp] theorem State.updTower_engine (t : Nat) (f : Tower → Tower) (x : Nat) : (s.updTower t f).engine x = s.engine x := rfl
@[simp] theorem State.updTower_link (t : Nat) (f : Tower → Tower) (x : Nat) : (s.updTower t f).link x = s.link x := rfl
@[simp] theorem State.updTower_part (t : Nat) (f : Tower → Tower) (x : Nat) : (s.updTower t f).part x = s.part x := rfl
@[simp] theorem State.updTower_ring (t : Nat) (f : Tower → Tower) (x : Nat) : (s.updTower t f).ring x = s.ring x := rfl
@[simp] theorem State.updTower_port (t : Nat) (f : Tower → Tower) (x : Nat) : (s.updTower t f).port x = s.port x := rfl
@[simp] theorem State.updTower_session (t : Nat) (f : Tower → Tower) (x : Nat) : (s.updTower t f).session x = s.session x := rfl

@[simp] theorem State.updPort_pending (p : Nat) (f : Port → Port) : (s.updPort p f).pending = s.pending := rfl
@[simp] theorem State.updPort_mem (p : Nat) (f : Port → Port) : (s.updPort p f).mem = s.mem := rfl
@[simp] theorem State.updPort_cores (p : Nat) (f : Port → Port) : (s.updPort p f).cores = s.cores := rfl
@[simp] theorem State.updPort_macros (p : Nat) (f : Port → Port) : (s.updPort p f).macros = s.macros := rfl
@[simp] theorem State.updPort_skinks (p : Nat) (f : Port → Port) : (s.updPort p f).skinks = s.skinks := rfl
@[simp] theorem State.updPort_engines (p : Nat) (f : Port → Port) : (s.updPort p f).engines = s.engines := rfl
@[simp] theorem State.updPort_links (p : Nat) (f : Port → Port) : (s.updPort p f).links = s.links := rfl
@[simp] theorem State.updPort_parts (p : Nat) (f : Port → Port) : (s.updPort p f).parts = s.parts := rfl
@[simp] theorem State.updPort_rings (p : Nat) (f : Port → Port) : (s.updPort p f).rings = s.rings := rfl
@[simp] theorem State.updPort_tenants (p : Nat) (f : Port → Port) : (s.updPort p f).tenants = s.tenants := rfl
@[simp] theorem State.updPort_dict (p : Nat) (f : Port → Port) : (s.updPort p f).dict = s.dict := rfl
@[simp] theorem State.updPort_hub (p : Nat) (f : Port → Port) : (s.updPort p f).hub = s.hub := rfl
@[simp] theorem State.updPort_power (p : Nat) (f : Port → Port) : (s.updPort p f).power = s.power := rfl
@[simp] theorem State.updPort_spares (p : Nat) (f : Port → Port) : (s.updPort p f).spares = s.spares := rfl
@[simp] theorem State.updPort_towers (p : Nat) (f : Port → Port) : (s.updPort p f).towers = s.towers := rfl
@[simp] theorem State.updPort_fresh (p : Nat) (f : Port → Port) : (s.updPort p f).fresh = s.fresh := rfl
@[simp] theorem State.updPort_harm (p : Nat) (f : Port → Port) : (s.updPort p f).harm = s.harm := rfl
@[simp] theorem State.updPort_core (p : Nat) (f : Port → Port) (x : Nat) : (s.updPort p f).core x = s.core x := rfl
@[simp] theorem State.updPort_mac (p : Nat) (f : Port → Port) (x : Nat) : (s.updPort p f).mac x = s.mac x := rfl
@[simp] theorem State.updPort_skink (p : Nat) (f : Port → Port) (x : Nat) : (s.updPort p f).skink x = s.skink x := rfl
@[simp] theorem State.updPort_engine (p : Nat) (f : Port → Port) (x : Nat) : (s.updPort p f).engine x = s.engine x := rfl
@[simp] theorem State.updPort_link (p : Nat) (f : Port → Port) (x : Nat) : (s.updPort p f).link x = s.link x := rfl
@[simp] theorem State.updPort_part (p : Nat) (f : Port → Port) (x : Nat) : (s.updPort p f).part x = s.part x := rfl
@[simp] theorem State.updPort_ring (p : Nat) (f : Port → Port) (x : Nat) : (s.updPort p f).ring x = s.ring x := rfl
@[simp] theorem State.updPort_tower (p : Nat) (f : Port → Port) (x : Nat) : (s.updPort p f).tower x = s.tower x := rfl

@[simp] theorem State.updHub_pending (f : Hub → Hub) : (s.updHub f).pending = s.pending := rfl
@[simp] theorem State.updHub_mem (f : Hub → Hub) : (s.updHub f).mem = s.mem := rfl
@[simp] theorem State.updHub_cores (f : Hub → Hub) : (s.updHub f).cores = s.cores := rfl
@[simp] theorem State.updHub_macros (f : Hub → Hub) : (s.updHub f).macros = s.macros := rfl
@[simp] theorem State.updHub_skinks (f : Hub → Hub) : (s.updHub f).skinks = s.skinks := rfl
@[simp] theorem State.updHub_engines (f : Hub → Hub) : (s.updHub f).engines = s.engines := rfl
@[simp] theorem State.updHub_links (f : Hub → Hub) : (s.updHub f).links = s.links := rfl
@[simp] theorem State.updHub_parts (f : Hub → Hub) : (s.updHub f).parts = s.parts := rfl
@[simp] theorem State.updHub_rings (f : Hub → Hub) : (s.updHub f).rings = s.rings := rfl
@[simp] theorem State.updHub_tenants (f : Hub → Hub) : (s.updHub f).tenants = s.tenants := rfl
@[simp] theorem State.updHub_dict (f : Hub → Hub) : (s.updHub f).dict = s.dict := rfl
@[simp] theorem State.updHub_slp (f : Hub → Hub) : (s.updHub f).slp = s.slp := rfl
@[simp] theorem State.updHub_power (f : Hub → Hub) : (s.updHub f).power = s.power := rfl
@[simp] theorem State.updHub_spares (f : Hub → Hub) : (s.updHub f).spares = s.spares := rfl
@[simp] theorem State.updHub_towers (f : Hub → Hub) : (s.updHub f).towers = s.towers := rfl
@[simp] theorem State.updHub_fresh (f : Hub → Hub) : (s.updHub f).fresh = s.fresh := rfl
@[simp] theorem State.updHub_harm (f : Hub → Hub) : (s.updHub f).harm = s.harm := rfl
@[simp] theorem State.updHub_core (f : Hub → Hub) (x : Nat) : (s.updHub f).core x = s.core x := rfl
@[simp] theorem State.updHub_mac (f : Hub → Hub) (x : Nat) : (s.updHub f).mac x = s.mac x := rfl
@[simp] theorem State.updHub_skink (f : Hub → Hub) (x : Nat) : (s.updHub f).skink x = s.skink x := rfl
@[simp] theorem State.updHub_engine (f : Hub → Hub) (x : Nat) : (s.updHub f).engine x = s.engine x := rfl
@[simp] theorem State.updHub_link (f : Hub → Hub) (x : Nat) : (s.updHub f).link x = s.link x := rfl
@[simp] theorem State.updHub_part (f : Hub → Hub) (x : Nat) : (s.updHub f).part x = s.part x := rfl
@[simp] theorem State.updHub_ring (f : Hub → Hub) (x : Nat) : (s.updHub f).ring x = s.ring x := rfl
@[simp] theorem State.updHub_tower (f : Hub → Hub) (x : Nat) : (s.updHub f).tower x = s.tower x := rfl
@[simp] theorem State.updHub_port (f : Hub → Hub) (x : Nat) : (s.updHub f).port x = s.port x := rfl
@[simp] theorem State.updHub_session (f : Hub → Hub) (x : Nat) : (s.updHub f).session x = s.session x := rfl

@[simp] theorem State.updPower_pending (f : Power → Power) : (s.updPower f).pending = s.pending := rfl
@[simp] theorem State.updPower_mem (f : Power → Power) : (s.updPower f).mem = s.mem := rfl
@[simp] theorem State.updPower_cores (f : Power → Power) : (s.updPower f).cores = s.cores := rfl
@[simp] theorem State.updPower_macros (f : Power → Power) : (s.updPower f).macros = s.macros := rfl
@[simp] theorem State.updPower_skinks (f : Power → Power) : (s.updPower f).skinks = s.skinks := rfl
@[simp] theorem State.updPower_engines (f : Power → Power) : (s.updPower f).engines = s.engines := rfl
@[simp] theorem State.updPower_links (f : Power → Power) : (s.updPower f).links = s.links := rfl
@[simp] theorem State.updPower_parts (f : Power → Power) : (s.updPower f).parts = s.parts := rfl
@[simp] theorem State.updPower_rings (f : Power → Power) : (s.updPower f).rings = s.rings := rfl
@[simp] theorem State.updPower_tenants (f : Power → Power) : (s.updPower f).tenants = s.tenants := rfl
@[simp] theorem State.updPower_dict (f : Power → Power) : (s.updPower f).dict = s.dict := rfl
@[simp] theorem State.updPower_slp (f : Power → Power) : (s.updPower f).slp = s.slp := rfl
@[simp] theorem State.updPower_hub (f : Power → Power) : (s.updPower f).hub = s.hub := rfl
@[simp] theorem State.updPower_spares (f : Power → Power) : (s.updPower f).spares = s.spares := rfl
@[simp] theorem State.updPower_towers (f : Power → Power) : (s.updPower f).towers = s.towers := rfl
@[simp] theorem State.updPower_fresh (f : Power → Power) : (s.updPower f).fresh = s.fresh := rfl
@[simp] theorem State.updPower_harm (f : Power → Power) : (s.updPower f).harm = s.harm := rfl
@[simp] theorem State.updPower_core (f : Power → Power) (x : Nat) : (s.updPower f).core x = s.core x := rfl
@[simp] theorem State.updPower_mac (f : Power → Power) (x : Nat) : (s.updPower f).mac x = s.mac x := rfl
@[simp] theorem State.updPower_skink (f : Power → Power) (x : Nat) : (s.updPower f).skink x = s.skink x := rfl
@[simp] theorem State.updPower_engine (f : Power → Power) (x : Nat) : (s.updPower f).engine x = s.engine x := rfl
@[simp] theorem State.updPower_link (f : Power → Power) (x : Nat) : (s.updPower f).link x = s.link x := rfl
@[simp] theorem State.updPower_part (f : Power → Power) (x : Nat) : (s.updPower f).part x = s.part x := rfl
@[simp] theorem State.updPower_ring (f : Power → Power) (x : Nat) : (s.updPower f).ring x = s.ring x := rfl
@[simp] theorem State.updPower_tower (f : Power → Power) (x : Nat) : (s.updPower f).tower x = s.tower x := rfl
@[simp] theorem State.updPower_port (f : Power → Power) (x : Nat) : (s.updPower f).port x = s.port x := rfl
@[simp] theorem State.updPower_session (f : Power → Power) (x : Nat) : (s.updPower f).session x = s.session x := rfl

@[simp] theorem State.updSpares_pending (f : Spares → Spares) : (s.updSpares f).pending = s.pending := rfl
@[simp] theorem State.updSpares_mem (f : Spares → Spares) : (s.updSpares f).mem = s.mem := rfl
@[simp] theorem State.updSpares_cores (f : Spares → Spares) : (s.updSpares f).cores = s.cores := rfl
@[simp] theorem State.updSpares_macros (f : Spares → Spares) : (s.updSpares f).macros = s.macros := rfl
@[simp] theorem State.updSpares_skinks (f : Spares → Spares) : (s.updSpares f).skinks = s.skinks := rfl
@[simp] theorem State.updSpares_engines (f : Spares → Spares) : (s.updSpares f).engines = s.engines := rfl
@[simp] theorem State.updSpares_links (f : Spares → Spares) : (s.updSpares f).links = s.links := rfl
@[simp] theorem State.updSpares_parts (f : Spares → Spares) : (s.updSpares f).parts = s.parts := rfl
@[simp] theorem State.updSpares_rings (f : Spares → Spares) : (s.updSpares f).rings = s.rings := rfl
@[simp] theorem State.updSpares_tenants (f : Spares → Spares) : (s.updSpares f).tenants = s.tenants := rfl
@[simp] theorem State.updSpares_dict (f : Spares → Spares) : (s.updSpares f).dict = s.dict := rfl
@[simp] theorem State.updSpares_slp (f : Spares → Spares) : (s.updSpares f).slp = s.slp := rfl
@[simp] theorem State.updSpares_hub (f : Spares → Spares) : (s.updSpares f).hub = s.hub := rfl
@[simp] theorem State.updSpares_power (f : Spares → Spares) : (s.updSpares f).power = s.power := rfl
@[simp] theorem State.updSpares_towers (f : Spares → Spares) : (s.updSpares f).towers = s.towers := rfl
@[simp] theorem State.updSpares_fresh (f : Spares → Spares) : (s.updSpares f).fresh = s.fresh := rfl
@[simp] theorem State.updSpares_harm (f : Spares → Spares) : (s.updSpares f).harm = s.harm := rfl
@[simp] theorem State.updSpares_core (f : Spares → Spares) (x : Nat) : (s.updSpares f).core x = s.core x := rfl
@[simp] theorem State.updSpares_mac (f : Spares → Spares) (x : Nat) : (s.updSpares f).mac x = s.mac x := rfl
@[simp] theorem State.updSpares_skink (f : Spares → Spares) (x : Nat) : (s.updSpares f).skink x = s.skink x := rfl
@[simp] theorem State.updSpares_engine (f : Spares → Spares) (x : Nat) : (s.updSpares f).engine x = s.engine x := rfl
@[simp] theorem State.updSpares_link (f : Spares → Spares) (x : Nat) : (s.updSpares f).link x = s.link x := rfl
@[simp] theorem State.updSpares_part (f : Spares → Spares) (x : Nat) : (s.updSpares f).part x = s.part x := rfl
@[simp] theorem State.updSpares_ring (f : Spares → Spares) (x : Nat) : (s.updSpares f).ring x = s.ring x := rfl
@[simp] theorem State.updSpares_tower (f : Spares → Spares) (x : Nat) : (s.updSpares f).tower x = s.tower x := rfl
@[simp] theorem State.updSpares_port (f : Spares → Spares) (x : Nat) : (s.updSpares f).port x = s.port x := rfl
@[simp] theorem State.updSpares_session (f : Spares → Spares) (x : Nat) : (s.updSpares f).session x = s.session x := rfl

@[simp] theorem State.setMem_pending (m : Memory) : (s.setMem m).pending = s.pending := rfl
@[simp] theorem State.setMem_cores (m : Memory) : (s.setMem m).cores = s.cores := rfl
@[simp] theorem State.setMem_macros (m : Memory) : (s.setMem m).macros = s.macros := rfl
@[simp] theorem State.setMem_skinks (m : Memory) : (s.setMem m).skinks = s.skinks := rfl
@[simp] theorem State.setMem_engines (m : Memory) : (s.setMem m).engines = s.engines := rfl
@[simp] theorem State.setMem_links (m : Memory) : (s.setMem m).links = s.links := rfl
@[simp] theorem State.setMem_parts (m : Memory) : (s.setMem m).parts = s.parts := rfl
@[simp] theorem State.setMem_rings (m : Memory) : (s.setMem m).rings = s.rings := rfl
@[simp] theorem State.setMem_tenants (m : Memory) : (s.setMem m).tenants = s.tenants := rfl
@[simp] theorem State.setMem_dict (m : Memory) : (s.setMem m).dict = s.dict := rfl
@[simp] theorem State.setMem_slp (m : Memory) : (s.setMem m).slp = s.slp := rfl
@[simp] theorem State.setMem_hub (m : Memory) : (s.setMem m).hub = s.hub := rfl
@[simp] theorem State.setMem_power (m : Memory) : (s.setMem m).power = s.power := rfl
@[simp] theorem State.setMem_spares (m : Memory) : (s.setMem m).spares = s.spares := rfl
@[simp] theorem State.setMem_towers (m : Memory) : (s.setMem m).towers = s.towers := rfl
@[simp] theorem State.setMem_fresh (m : Memory) : (s.setMem m).fresh = s.fresh := rfl
@[simp] theorem State.setMem_harm (m : Memory) : (s.setMem m).harm = s.harm := rfl
@[simp] theorem State.setMem_core (m : Memory) (x : Nat) : (s.setMem m).core x = s.core x := rfl
@[simp] theorem State.setMem_mac (m : Memory) (x : Nat) : (s.setMem m).mac x = s.mac x := rfl
@[simp] theorem State.setMem_skink (m : Memory) (x : Nat) : (s.setMem m).skink x = s.skink x := rfl
@[simp] theorem State.setMem_engine (m : Memory) (x : Nat) : (s.setMem m).engine x = s.engine x := rfl
@[simp] theorem State.setMem_link (m : Memory) (x : Nat) : (s.setMem m).link x = s.link x := rfl
@[simp] theorem State.setMem_part (m : Memory) (x : Nat) : (s.setMem m).part x = s.part x := rfl
@[simp] theorem State.setMem_ring (m : Memory) (x : Nat) : (s.setMem m).ring x = s.ring x := rfl
@[simp] theorem State.setMem_tower (m : Memory) (x : Nat) : (s.setMem m).tower x = s.tower x := rfl
@[simp] theorem State.setMem_port (m : Memory) (x : Nat) : (s.setMem m).port x = s.port x := rfl
@[simp] theorem State.setMem_session (m : Memory) (x : Nat) : (s.setMem m).session x = s.session x := rfl

@[simp] theorem State.updJob_pending (p : Nat) (f : Job → Job) : (s.updJob p f).pending = s.pending := rfl
@[simp] theorem State.updJob_mem (p : Nat) (f : Job → Job) : (s.updJob p f).mem = s.mem := rfl
@[simp] theorem State.updJob_cores (p : Nat) (f : Job → Job) : (s.updJob p f).cores = s.cores := rfl
@[simp] theorem State.updJob_macros (p : Nat) (f : Job → Job) : (s.updJob p f).macros = s.macros := rfl
@[simp] theorem State.updJob_skinks (p : Nat) (f : Job → Job) : (s.updJob p f).skinks = s.skinks := rfl
@[simp] theorem State.updJob_engines (p : Nat) (f : Job → Job) : (s.updJob p f).engines = s.engines := rfl
@[simp] theorem State.updJob_links (p : Nat) (f : Job → Job) : (s.updJob p f).links = s.links := rfl
@[simp] theorem State.updJob_rings (p : Nat) (f : Job → Job) : (s.updJob p f).rings = s.rings := rfl
@[simp] theorem State.updJob_tenants (p : Nat) (f : Job → Job) : (s.updJob p f).tenants = s.tenants := rfl
@[simp] theorem State.updJob_dict (p : Nat) (f : Job → Job) : (s.updJob p f).dict = s.dict := rfl
@[simp] theorem State.updJob_slp (p : Nat) (f : Job → Job) : (s.updJob p f).slp = s.slp := rfl
@[simp] theorem State.updJob_hub (p : Nat) (f : Job → Job) : (s.updJob p f).hub = s.hub := rfl
@[simp] theorem State.updJob_power (p : Nat) (f : Job → Job) : (s.updJob p f).power = s.power := rfl
@[simp] theorem State.updJob_spares (p : Nat) (f : Job → Job) : (s.updJob p f).spares = s.spares := rfl
@[simp] theorem State.updJob_towers (p : Nat) (f : Job → Job) : (s.updJob p f).towers = s.towers := rfl
@[simp] theorem State.updJob_fresh (p : Nat) (f : Job → Job) : (s.updJob p f).fresh = s.fresh := rfl
@[simp] theorem State.updJob_harm (p : Nat) (f : Job → Job) : (s.updJob p f).harm = s.harm := rfl
@[simp] theorem State.updJob_core (p : Nat) (f : Job → Job) (x : Nat) : (s.updJob p f).core x = s.core x := rfl
@[simp] theorem State.updJob_mac (p : Nat) (f : Job → Job) (x : Nat) : (s.updJob p f).mac x = s.mac x := rfl
@[simp] theorem State.updJob_skink (p : Nat) (f : Job → Job) (x : Nat) : (s.updJob p f).skink x = s.skink x := rfl
@[simp] theorem State.updJob_engine (p : Nat) (f : Job → Job) (x : Nat) : (s.updJob p f).engine x = s.engine x := rfl
@[simp] theorem State.updJob_link (p : Nat) (f : Job → Job) (x : Nat) : (s.updJob p f).link x = s.link x := rfl
@[simp] theorem State.updJob_ring (p : Nat) (f : Job → Job) (x : Nat) : (s.updJob p f).ring x = s.ring x := rfl
@[simp] theorem State.updJob_tower (p : Nat) (f : Job → Job) (x : Nat) : (s.updJob p f).tower x = s.tower x := rfl
@[simp] theorem State.updJob_port (p : Nat) (f : Job → Job) (x : Nat) : (s.updJob p f).port x = s.port x := rfl
@[simp] theorem State.updJob_session (p : Nat) (f : Job → Job) (x : Nat) : (s.updJob p f).session x = s.session x := rfl

@[simp] theorem State.setCore_core (c : Nat) (v : Core) : (s.setCore c v).core c = v := by simp [State.setCore, State.core]
theorem State.setCore_core_other (c : Nat) (v : Core) {j : Nat} (h : j ≠ c) : (s.setCore c v).core j = s.core j := by
  simp [State.setCore, State.core, mget_mset_other _ _ _ h]
@[simp] theorem State.updCore_core (c : Nat) (f : Core → Core) : (s.updCore c f).core c = f (s.core c) := by simp [State.updCore, State.core, State.setCore]
theorem State.updCore_core_other (c : Nat) (f : Core → Core) {j : Nat} (h : j ≠ c) : (s.updCore c f).core j = s.core j := by
  simp [State.updCore, State.core, State.setCore, mget_mset_other _ _ _ h]
@[simp] theorem State.setMac_mac (k : Nat) (v : Macro) : (s.setMac k v).mac k = v := by simp [State.setMac, State.mac]
theorem State.setMac_mac_other (k : Nat) (v : Macro) {j : Nat} (h : j ≠ k) : (s.setMac k v).mac j = s.mac j := by
  simp [State.setMac, State.mac, mget_mset_other _ _ _ h]
@[simp] theorem State.updMac_mac (k : Nat) (f : Macro → Macro) : (s.updMac k f).mac k = f (s.mac k) := by simp [State.updMac, State.mac, State.setMac]
theorem State.updMac_mac_other (k : Nat) (f : Macro → Macro) {j : Nat} (h : j ≠ k) : (s.updMac k f).mac j = s.mac j := by
  simp [State.updMac, State.mac, State.setMac, mget_mset_other _ _ _ h]
@[simp] theorem State.setSkink_skink (e : Nat) (v : Skink) : (s.setSkink e v).skink e = v := by simp [State.setSkink, State.skink]
theorem State.setSkink_skink_other (e : Nat) (v : Skink) {j : Nat} (h : j ≠ e) : (s.setSkink e v).skink j = s.skink j := by
  simp [State.setSkink, State.skink, mget_mset_other _ _ _ h]
@[simp] theorem State.updSkink_skink (e : Nat) (f : Skink → Skink) : (s.updSkink e f).skink e = f (s.skink e) := by simp [State.updSkink, State.skink, State.setSkink]
theorem State.updSkink_skink_other (e : Nat) (f : Skink → Skink) {j : Nat} (h : j ≠ e) : (s.updSkink e f).skink j = s.skink j := by
  simp [State.updSkink, State.skink, State.setSkink, mget_mset_other _ _ _ h]
@[simp] theorem State.updEngine_engine (i : Nat) (f : Engine → Engine) : (s.updEngine i f).engine i = f (s.engine i) := by simp [State.updEngine, State.engine]
theorem State.updEngine_engine_other (i : Nat) (f : Engine → Engine) {j : Nat} (h : j ≠ i) : (s.updEngine i f).engine j = s.engine j := by
  simp [State.updEngine, State.engine, mget_mupd_other _ _ _ h]
@[simp] theorem State.updLink_link (k : Nat) (f : LinkDir → LinkDir) : (s.updLink k f).link k = f (s.link k) := by simp [State.updLink, State.link]
theorem State.updLink_link_other (k : Nat) (f : LinkDir → LinkDir) {j : Nat} (h : j ≠ k) : (s.updLink k f).link j = s.link j := by
  simp [State.updLink, State.link, mget_mupd_other _ _ _ h]
@[simp] theorem State.setPart_part (p : Nat) (v : Partition) : (s.setPart p v).part p = v := by simp [State.setPart, State.part]
theorem State.setPart_part_other (p : Nat) (v : Partition) {j : Nat} (h : j ≠ p) : (s.setPart p v).part j = s.part j := by
  simp [State.setPart, State.part, mget_mset_other _ _ _ h]
@[simp] theorem State.updPart_part (p : Nat) (f : Partition → Partition) : (s.updPart p f).part p = f (s.part p) := by simp [State.updPart, State.part, State.setPart]
theorem State.updPart_part_other (p : Nat) (f : Partition → Partition) {j : Nat} (h : j ≠ p) : (s.updPart p f).part j = s.part j := by
  simp [State.updPart, State.part, State.setPart, mget_mset_other _ _ _ h]
@[simp] theorem State.setRing_ring (r : Nat) (v : Ring) : (s.setRing r v).ring r = v := by simp [State.setRing, State.ring]
theorem State.setRing_ring_other (r : Nat) (v : Ring) {j : Nat} (h : j ≠ r) : (s.setRing r v).ring j = s.ring j := by
  simp [State.setRing, State.ring, mget_mset_other _ _ _ h]
@[simp] theorem State.updRing_ring (r : Nat) (f : Ring → Ring) : (s.updRing r f).ring r = f (s.ring r) := by simp [State.updRing, State.ring, State.setRing]
theorem State.updRing_ring_other (r : Nat) (f : Ring → Ring) {j : Nat} (h : j ≠ r) : (s.updRing r f).ring j = s.ring j := by
  simp [State.updRing, State.ring, State.setRing, mget_mset_other _ _ _ h]
@[simp] theorem State.updTower_tower (t : Nat) (f : Tower → Tower) : (s.updTower t f).tower t = f (s.tower t) := by simp [State.updTower, State.tower]
theorem State.updTower_tower_other (t : Nat) (f : Tower → Tower) {j : Nat} (h : j ≠ t) : (s.updTower t f).tower j = s.tower j := by
  simp [State.updTower, State.tower, mget_mupd_other _ _ _ h]
@[simp] theorem State.updPort_port (p : Nat) (f : Port → Port) : (s.updPort p f).port p = f (s.port p) := by simp [State.updPort, State.port]
theorem State.updPort_port_other (p : Nat) (f : Port → Port) {j : Nat} (h : j ≠ p) : (s.updPort p f).port j = s.port j := by
  simp [State.updPort, State.port, mget_mupd_other _ _ _ h]

@[simp] theorem State.updJob_part (p : Nat) (f : Job → Job) :
    (s.updJob p f).part p = { s.part p with job := (s.part p).job.map f } := by simp [State.updJob]

theorem State.updJob_part_other (p : Nat) (f : Job → Job) {j : Nat} (h : j ≠ p) : (s.updJob p f).part j = s.part j := by
  simp [State.updJob, State.updPart_part_other _ _ _ h]
@[simp] theorem State.setCore_setCore (k : Nat) (v v' : Core) : (s.setCore k v).setCore k v' = s.setCore k v' := by simp [State.setCore]
@[simp] theorem State.setMac_setMac (k : Nat) (v v' : Macro) : (s.setMac k v).setMac k v' = s.setMac k v' := by simp [State.setMac]
@[simp] theorem State.setSkink_setSkink (k : Nat) (v v' : Skink) : (s.setSkink k v).setSkink k v' = s.setSkink k v' := by simp [State.setSkink]
@[simp] theorem State.setPart_setPart (k : Nat) (v v' : Partition) : (s.setPart k v).setPart k v' = s.setPart k v' := by simp [State.setPart]
@[simp] theorem State.setRing_setRing (k : Nat) (v v' : Ring) : (s.setRing k v).setRing k v' = s.setRing k v' := by simp [State.setRing]

/-! ### What befalls a command's data, and the activity counters -/

@[simp] theorem State.tally_pending (rail : Nat) (part : Option Nat) (kind n : Nat) : (s.tally rail part kind n).pending = s.pending := rfl
@[simp] theorem State.tally_mem (rail : Nat) (part : Option Nat) (kind n : Nat) : (s.tally rail part kind n).mem = s.mem := rfl
@[simp] theorem State.tally_cores (rail : Nat) (part : Option Nat) (kind n : Nat) : (s.tally rail part kind n).cores = s.cores := rfl
@[simp] theorem State.tally_macros (rail : Nat) (part : Option Nat) (kind n : Nat) : (s.tally rail part kind n).macros = s.macros := rfl
@[simp] theorem State.tally_skinks (rail : Nat) (part : Option Nat) (kind n : Nat) : (s.tally rail part kind n).skinks = s.skinks := rfl
@[simp] theorem State.tally_engines (rail : Nat) (part : Option Nat) (kind n : Nat) : (s.tally rail part kind n).engines = s.engines := rfl
@[simp] theorem State.tally_links (rail : Nat) (part : Option Nat) (kind n : Nat) : (s.tally rail part kind n).links = s.links := rfl
@[simp] theorem State.tally_parts (rail : Nat) (part : Option Nat) (kind n : Nat) : (s.tally rail part kind n).parts = s.parts := rfl
@[simp] theorem State.tally_rings (rail : Nat) (part : Option Nat) (kind n : Nat) : (s.tally rail part kind n).rings = s.rings := rfl
@[simp] theorem State.tally_tenants (rail : Nat) (part : Option Nat) (kind n : Nat) : (s.tally rail part kind n).tenants = s.tenants := rfl
@[simp] theorem State.tally_dict (rail : Nat) (part : Option Nat) (kind n : Nat) : (s.tally rail part kind n).dict = s.dict := rfl
@[simp] theorem State.tally_slp (rail : Nat) (part : Option Nat) (kind n : Nat) : (s.tally rail part kind n).slp = s.slp := rfl
@[simp] theorem State.tally_hub (rail : Nat) (part : Option Nat) (kind n : Nat) : (s.tally rail part kind n).hub = s.hub := rfl
@[simp] theorem State.tally_spares (rail : Nat) (part : Option Nat) (kind n : Nat) : (s.tally rail part kind n).spares = s.spares := rfl
@[simp] theorem State.tally_towers (rail : Nat) (part : Option Nat) (kind n : Nat) : (s.tally rail part kind n).towers = s.towers := rfl
@[simp] theorem State.tally_fresh (rail : Nat) (part : Option Nat) (kind n : Nat) : (s.tally rail part kind n).fresh = s.fresh := rfl
@[simp] theorem State.tally_harm (rail : Nat) (part : Option Nat) (kind n : Nat) : (s.tally rail part kind n).harm = s.harm := rfl
@[simp] theorem State.tally_core (rail : Nat) (part : Option Nat) (kind n : Nat) (x : Nat) : (s.tally rail part kind n).core x = s.core x := rfl
@[simp] theorem State.tally_mac (rail : Nat) (part : Option Nat) (kind n : Nat) (x : Nat) : (s.tally rail part kind n).mac x = s.mac x := rfl
@[simp] theorem State.tally_skink (rail : Nat) (part : Option Nat) (kind n : Nat) (x : Nat) : (s.tally rail part kind n).skink x = s.skink x := rfl
@[simp] theorem State.tally_engine (rail : Nat) (part : Option Nat) (kind n : Nat) (x : Nat) : (s.tally rail part kind n).engine x = s.engine x := rfl
@[simp] theorem State.tally_link (rail : Nat) (part : Option Nat) (kind n : Nat) (x : Nat) : (s.tally rail part kind n).link x = s.link x := rfl
@[simp] theorem State.tally_part (rail : Nat) (part : Option Nat) (kind n : Nat) (x : Nat) : (s.tally rail part kind n).part x = s.part x := rfl
@[simp] theorem State.tally_ring (rail : Nat) (part : Option Nat) (kind n : Nat) (x : Nat) : (s.tally rail part kind n).ring x = s.ring x := rfl
@[simp] theorem State.tally_tower (rail : Nat) (part : Option Nat) (kind n : Nat) (x : Nat) : (s.tally rail part kind n).tower x = s.tower x := rfl
@[simp] theorem State.tally_port (rail : Nat) (part : Option Nat) (kind n : Nat) (x : Nat) : (s.tally rail part kind n).port x = s.port x := rfl
@[simp] theorem State.tally_session (rail : Nat) (part : Option Nat) (kind n : Nat) (x : Nat) : (s.tally rail part kind n).session x = s.session x := rfl
@[simp] theorem State.tallyCore_pending (c kind n : Nat) : (s.tallyCore c kind n).pending = s.pending := rfl
@[simp] theorem State.tallyCore_mem (c kind n : Nat) : (s.tallyCore c kind n).mem = s.mem := rfl
@[simp] theorem State.tallyCore_cores (c kind n : Nat) : (s.tallyCore c kind n).cores = s.cores := rfl
@[simp] theorem State.tallyCore_macros (c kind n : Nat) : (s.tallyCore c kind n).macros = s.macros := rfl
@[simp] theorem State.tallyCore_skinks (c kind n : Nat) : (s.tallyCore c kind n).skinks = s.skinks := rfl
@[simp] theorem State.tallyCore_engines (c kind n : Nat) : (s.tallyCore c kind n).engines = s.engines := rfl
@[simp] theorem State.tallyCore_links (c kind n : Nat) : (s.tallyCore c kind n).links = s.links := rfl
@[simp] theorem State.tallyCore_parts (c kind n : Nat) : (s.tallyCore c kind n).parts = s.parts := rfl
@[simp] theorem State.tallyCore_rings (c kind n : Nat) : (s.tallyCore c kind n).rings = s.rings := rfl
@[simp] theorem State.tallyCore_tenants (c kind n : Nat) : (s.tallyCore c kind n).tenants = s.tenants := rfl
@[simp] theorem State.tallyCore_dict (c kind n : Nat) : (s.tallyCore c kind n).dict = s.dict := rfl
@[simp] theorem State.tallyCore_slp (c kind n : Nat) : (s.tallyCore c kind n).slp = s.slp := rfl
@[simp] theorem State.tallyCore_hub (c kind n : Nat) : (s.tallyCore c kind n).hub = s.hub := rfl
@[simp] theorem State.tallyCore_spares (c kind n : Nat) : (s.tallyCore c kind n).spares = s.spares := rfl
@[simp] theorem State.tallyCore_towers (c kind n : Nat) : (s.tallyCore c kind n).towers = s.towers := rfl
@[simp] theorem State.tallyCore_fresh (c kind n : Nat) : (s.tallyCore c kind n).fresh = s.fresh := rfl
@[simp] theorem State.tallyCore_harm (c kind n : Nat) : (s.tallyCore c kind n).harm = s.harm := rfl
@[simp] theorem State.tallyCore_core (c kind n : Nat) (x : Nat) : (s.tallyCore c kind n).core x = s.core x := rfl
@[simp] theorem State.tallyCore_mac (c kind n : Nat) (x : Nat) : (s.tallyCore c kind n).mac x = s.mac x := rfl
@[simp] theorem State.tallyCore_skink (c kind n : Nat) (x : Nat) : (s.tallyCore c kind n).skink x = s.skink x := rfl
@[simp] theorem State.tallyCore_engine (c kind n : Nat) (x : Nat) : (s.tallyCore c kind n).engine x = s.engine x := rfl
@[simp] theorem State.tallyCore_link (c kind n : Nat) (x : Nat) : (s.tallyCore c kind n).link x = s.link x := rfl
@[simp] theorem State.tallyCore_part (c kind n : Nat) (x : Nat) : (s.tallyCore c kind n).part x = s.part x := rfl
@[simp] theorem State.tallyCore_ring (c kind n : Nat) (x : Nat) : (s.tallyCore c kind n).ring x = s.ring x := rfl
@[simp] theorem State.tallyCore_tower (c kind n : Nat) (x : Nat) : (s.tallyCore c kind n).tower x = s.tower x := rfl
@[simp] theorem State.tallyCore_port (c kind n : Nat) (x : Nat) : (s.tallyCore c kind n).port x = s.port x := rfl
@[simp] theorem State.tallyCore_session (c kind n : Nat) (x : Nat) : (s.tallyCore c kind n).session x = s.session x := rfl


/-! ### Activity counters: nothing but them changes -/

@[simp] theorem State.tally_eta (rail : Nat) (part : Option Nat) (kind n : Nat) : { s.tally rail part kind n with power := s.power } = s := rfl
@[simp] theorem State.tallyCore_eta (c kind n : Nat) : { s.tallyCore c kind n with power := s.power } = s := rfl

/-! ### The queue is the step's own -/

@[simp] theorem done_next (s s' : State) : done s s' = .next { s' with pending := s.pending, harm := s.harm } := rfl

@[simp] theorem act_true (s s' : State) : act true s s' = done s s' := rfl

@[simp] theorem act_false (s s' : State) : act false s s' = .fault .noSuchUnit := rfl

theorem act_next {ok : Bool} {s s' t : State} (h : act ok s s' = .next t) : ok = true ∧ t = { s' with pending := s.pending, harm := s.harm } := by
  cases ok
  · simp at h
  · simp only [act_true, done_next, Host.Outcome.next.injEq] at h; exact ⟨rfl, h.symm⟩

end Sys2Proof.Machine
end

