-- ==== Sys2Proof/Laws/Report.lean ====
section
/-! SUPPORT. What a report leaves as it was: a log record, an alarm, a fault, a refusal, a signal, a count; and what a fault and a refusal
write. -/

namespace Sys2Proof.Machine

open Sys2Proof.Laws

variable (s : State)

@[simp] theorem State.log_pending (ring : Option Nat) (cls code : Nat) (data : List Byte) : (s.log ring cls code data).pending = s.pending := by cases ring <;> rfl
@[simp] theorem State.log_mem (ring : Option Nat) (cls code : Nat) (data : List Byte) : (s.log ring cls code data).mem = s.mem := by cases ring <;> rfl
@[simp] theorem State.log_cores (ring : Option Nat) (cls code : Nat) (data : List Byte) : (s.log ring cls code data).cores = s.cores := by cases ring <;> rfl
@[simp] theorem State.log_macros (ring : Option Nat) (cls code : Nat) (data : List Byte) : (s.log ring cls code data).macros = s.macros := by cases ring <;> rfl
@[simp] theorem State.log_skinks (ring : Option Nat) (cls code : Nat) (data : List Byte) : (s.log ring cls code data).skinks = s.skinks := by cases ring <;> rfl
@[simp] theorem State.log_engines (ring : Option Nat) (cls code : Nat) (data : List Byte) : (s.log ring cls code data).engines = s.engines := by cases ring <;> rfl
@[simp] theorem State.log_links (ring : Option Nat) (cls code : Nat) (data : List Byte) : (s.log ring cls code data).links = s.links := by cases ring <;> rfl
@[simp] theorem State.log_rings (ring : Option Nat) (cls code : Nat) (data : List Byte) : (s.log ring cls code data).rings = s.rings := by cases ring <;> rfl
@[simp] theorem State.log_tenants (ring : Option Nat) (cls code : Nat) (data : List Byte) : (s.log ring cls code data).tenants = s.tenants := by cases ring <;> rfl
@[simp] theorem State.log_dict (ring : Option Nat) (cls code : Nat) (data : List Byte) : (s.log ring cls code data).dict = s.dict := by cases ring <;> rfl
@[simp] theorem State.log_slp (ring : Option Nat) (cls code : Nat) (data : List Byte) : (s.log ring cls code data).slp = s.slp := by cases ring <;> rfl
@[simp] theorem State.log_power (ring : Option Nat) (cls code : Nat) (data : List Byte) : (s.log ring cls code data).power = s.power := by cases ring <;> rfl
@[simp] theorem State.log_spares (ring : Option Nat) (cls code : Nat) (data : List Byte) : (s.log ring cls code data).spares = s.spares := by cases ring <;> rfl
@[simp] theorem State.log_towers (ring : Option Nat) (cls code : Nat) (data : List Byte) : (s.log ring cls code data).towers = s.towers := by cases ring <;> rfl
@[simp] theorem State.log_fresh (ring : Option Nat) (cls code : Nat) (data : List Byte) : (s.log ring cls code data).fresh = s.fresh := by cases ring <;> rfl
@[simp] theorem State.log_harm (ring : Option Nat) (cls code : Nat) (data : List Byte) : (s.log ring cls code data).harm = s.harm := by cases ring <;> rfl
@[simp] theorem State.log_core (ring : Option Nat) (cls code : Nat) (data : List Byte) (x : Nat) : (s.log ring cls code data).core x = s.core x := by simp only [State.core, State.log_cores]
@[simp] theorem State.log_mac (ring : Option Nat) (cls code : Nat) (data : List Byte) (x : Nat) : (s.log ring cls code data).mac x = s.mac x := by simp only [State.mac, State.log_macros]
@[simp] theorem State.log_skink (ring : Option Nat) (cls code : Nat) (data : List Byte) (x : Nat) : (s.log ring cls code data).skink x = s.skink x := by simp only [State.skink, State.log_skinks]
@[simp] theorem State.log_engine (ring : Option Nat) (cls code : Nat) (data : List Byte) (x : Nat) : (s.log ring cls code data).engine x = s.engine x := by simp only [State.engine, State.log_engines]
@[simp] theorem State.log_link (ring : Option Nat) (cls code : Nat) (data : List Byte) (x : Nat) : (s.log ring cls code data).link x = s.link x := by simp only [State.link, State.log_links]
@[simp] theorem State.log_ring (ring : Option Nat) (cls code : Nat) (data : List Byte) (x : Nat) : (s.log ring cls code data).ring x = s.ring x := by simp only [State.ring, State.log_rings]
@[simp] theorem State.log_tower (ring : Option Nat) (cls code : Nat) (data : List Byte) (x : Nat) : (s.log ring cls code data).tower x = s.tower x := by simp only [State.tower, State.log_towers]
@[simp] theorem State.log_session (ring : Option Nat) (cls code : Nat) (data : List Byte) (x : Nat) : (s.log ring cls code data).session x = s.session x := by simp only [State.session, State.log_slp]

@[simp] theorem State.alarm_pending (n detail source : Nat) : (s.alarm n detail source).pending = s.pending := rfl
@[simp] theorem State.alarm_mem (n detail source : Nat) : (s.alarm n detail source).mem = s.mem := rfl
@[simp] theorem State.alarm_cores (n detail source : Nat) : (s.alarm n detail source).cores = s.cores := rfl
@[simp] theorem State.alarm_macros (n detail source : Nat) : (s.alarm n detail source).macros = s.macros := rfl
@[simp] theorem State.alarm_skinks (n detail source : Nat) : (s.alarm n detail source).skinks = s.skinks := rfl
@[simp] theorem State.alarm_engines (n detail source : Nat) : (s.alarm n detail source).engines = s.engines := rfl
@[simp] theorem State.alarm_links (n detail source : Nat) : (s.alarm n detail source).links = s.links := rfl
@[simp] theorem State.alarm_parts (n detail source : Nat) : (s.alarm n detail source).parts = s.parts := rfl
@[simp] theorem State.alarm_rings (n detail source : Nat) : (s.alarm n detail source).rings = s.rings := rfl
@[simp] theorem State.alarm_tenants (n detail source : Nat) : (s.alarm n detail source).tenants = s.tenants := rfl
@[simp] theorem State.alarm_dict (n detail source : Nat) : (s.alarm n detail source).dict = s.dict := rfl
@[simp] theorem State.alarm_slp (n detail source : Nat) : (s.alarm n detail source).slp = s.slp := rfl
@[simp] theorem State.alarm_power (n detail source : Nat) : (s.alarm n detail source).power = s.power := rfl
@[simp] theorem State.alarm_spares (n detail source : Nat) : (s.alarm n detail source).spares = s.spares := rfl
@[simp] theorem State.alarm_towers (n detail source : Nat) : (s.alarm n detail source).towers = s.towers := rfl
@[simp] theorem State.alarm_fresh (n detail source : Nat) : (s.alarm n detail source).fresh = s.fresh := rfl
@[simp] theorem State.alarm_harm (n detail source : Nat) : (s.alarm n detail source).harm = s.harm := rfl
@[simp] theorem State.alarm_core (n detail source : Nat) (x : Nat) : (s.alarm n detail source).core x = s.core x := rfl
@[simp] theorem State.alarm_mac (n detail source : Nat) (x : Nat) : (s.alarm n detail source).mac x = s.mac x := rfl
@[simp] theorem State.alarm_skink (n detail source : Nat) (x : Nat) : (s.alarm n detail source).skink x = s.skink x := rfl
@[simp] theorem State.alarm_engine (n detail source : Nat) (x : Nat) : (s.alarm n detail source).engine x = s.engine x := rfl
@[simp] theorem State.alarm_link (n detail source : Nat) (x : Nat) : (s.alarm n detail source).link x = s.link x := rfl
@[simp] theorem State.alarm_part (n detail source : Nat) (x : Nat) : (s.alarm n detail source).part x = s.part x := rfl
@[simp] theorem State.alarm_ring (n detail source : Nat) (x : Nat) : (s.alarm n detail source).ring x = s.ring x := rfl
@[simp] theorem State.alarm_tower (n detail source : Nat) (x : Nat) : (s.alarm n detail source).tower x = s.tower x := rfl
@[simp] theorem State.alarm_session (n detail source : Nat) (x : Nat) : (s.alarm n detail source).session x = s.session x := rfl

@[simp] theorem State.trace_pending (p kind : Nat) (data : List Byte) : (s.trace p kind data).pending = s.pending := by unfold State.trace; split <;> rfl
@[simp] theorem State.trace_mem (p kind : Nat) (data : List Byte) : (s.trace p kind data).mem = s.mem := by unfold State.trace; split <;> rfl
@[simp] theorem State.trace_cores (p kind : Nat) (data : List Byte) : (s.trace p kind data).cores = s.cores := by unfold State.trace; split <;> rfl
@[simp] theorem State.trace_macros (p kind : Nat) (data : List Byte) : (s.trace p kind data).macros = s.macros := by unfold State.trace; split <;> rfl
@[simp] theorem State.trace_skinks (p kind : Nat) (data : List Byte) : (s.trace p kind data).skinks = s.skinks := by unfold State.trace; split <;> rfl
@[simp] theorem State.trace_engines (p kind : Nat) (data : List Byte) : (s.trace p kind data).engines = s.engines := by unfold State.trace; split <;> rfl
@[simp] theorem State.trace_links (p kind : Nat) (data : List Byte) : (s.trace p kind data).links = s.links := by unfold State.trace; split <;> rfl
@[simp] theorem State.trace_rings (p kind : Nat) (data : List Byte) : (s.trace p kind data).rings = s.rings := by unfold State.trace; split <;> rfl
@[simp] theorem State.trace_tenants (p kind : Nat) (data : List Byte) : (s.trace p kind data).tenants = s.tenants := by unfold State.trace; split <;> rfl
@[simp] theorem State.trace_dict (p kind : Nat) (data : List Byte) : (s.trace p kind data).dict = s.dict := by unfold State.trace; split <;> rfl
@[simp] theorem State.trace_slp (p kind : Nat) (data : List Byte) : (s.trace p kind data).slp = s.slp := by unfold State.trace; split <;> rfl
@[simp] theorem State.trace_hub (p kind : Nat) (data : List Byte) : (s.trace p kind data).hub = s.hub := by unfold State.trace; split <;> rfl
@[simp] theorem State.trace_power (p kind : Nat) (data : List Byte) : (s.trace p kind data).power = s.power := by unfold State.trace; split <;> rfl
@[simp] theorem State.trace_spares (p kind : Nat) (data : List Byte) : (s.trace p kind data).spares = s.spares := by unfold State.trace; split <;> rfl
@[simp] theorem State.trace_towers (p kind : Nat) (data : List Byte) : (s.trace p kind data).towers = s.towers := by unfold State.trace; split <;> rfl
@[simp] theorem State.trace_fresh (p kind : Nat) (data : List Byte) : (s.trace p kind data).fresh = s.fresh := by unfold State.trace; split <;> rfl
@[simp] theorem State.trace_harm (p kind : Nat) (data : List Byte) : (s.trace p kind data).harm = s.harm := by unfold State.trace; split <;> rfl
@[simp] theorem State.trace_core (p kind : Nat) (data : List Byte) (x : Nat) : (s.trace p kind data).core x = s.core x := by simp only [State.core, State.trace_cores]
@[simp] theorem State.trace_mac (p kind : Nat) (data : List Byte) (x : Nat) : (s.trace p kind data).mac x = s.mac x := by simp only [State.mac, State.trace_macros]
@[simp] theorem State.trace_skink (p kind : Nat) (data : List Byte) (x : Nat) : (s.trace p kind data).skink x = s.skink x := by simp only [State.skink, State.trace_skinks]
@[simp] theorem State.trace_engine (p kind : Nat) (data : List Byte) (x : Nat) : (s.trace p kind data).engine x = s.engine x := by simp only [State.engine, State.trace_engines]
@[simp] theorem State.trace_link (p kind : Nat) (data : List Byte) (x : Nat) : (s.trace p kind data).link x = s.link x := by simp only [State.link, State.trace_links]
@[simp] theorem State.trace_ring (p kind : Nat) (data : List Byte) (x : Nat) : (s.trace p kind data).ring x = s.ring x := by simp only [State.ring, State.trace_rings]
@[simp] theorem State.trace_tower (p kind : Nat) (data : List Byte) (x : Nat) : (s.trace p kind data).tower x = s.tower x := by simp only [State.tower, State.trace_towers]
@[simp] theorem State.trace_session (p kind : Nat) (data : List Byte) (x : Nat) : (s.trace p kind data).session x = s.session x := by simp only [State.session, State.trace_slp]

@[simp] theorem State.replaceMe_pending : (s.replaceMe).pending = s.pending := by unfold State.replaceMe; split <;> rfl
@[simp] theorem State.replaceMe_mem : (s.replaceMe).mem = s.mem := by unfold State.replaceMe; split <;> rfl
@[simp] theorem State.replaceMe_cores : (s.replaceMe).cores = s.cores := by unfold State.replaceMe; split <;> rfl
@[simp] theorem State.replaceMe_macros : (s.replaceMe).macros = s.macros := by unfold State.replaceMe; split <;> rfl
@[simp] theorem State.replaceMe_skinks : (s.replaceMe).skinks = s.skinks := by unfold State.replaceMe; split <;> rfl
@[simp] theorem State.replaceMe_engines : (s.replaceMe).engines = s.engines := by unfold State.replaceMe; split <;> rfl
@[simp] theorem State.replaceMe_links : (s.replaceMe).links = s.links := by unfold State.replaceMe; split <;> rfl
@[simp] theorem State.replaceMe_parts : (s.replaceMe).parts = s.parts := by unfold State.replaceMe; split <;> rfl
@[simp] theorem State.replaceMe_rings : (s.replaceMe).rings = s.rings := by unfold State.replaceMe; split <;> rfl
@[simp] theorem State.replaceMe_tenants : (s.replaceMe).tenants = s.tenants := by unfold State.replaceMe; split <;> rfl
@[simp] theorem State.replaceMe_dict : (s.replaceMe).dict = s.dict := by unfold State.replaceMe; split <;> rfl
@[simp] theorem State.replaceMe_slp : (s.replaceMe).slp = s.slp := by unfold State.replaceMe; split <;> rfl
@[simp] theorem State.replaceMe_power : (s.replaceMe).power = s.power := by unfold State.replaceMe; split <;> rfl
@[simp] theorem State.replaceMe_spares : (s.replaceMe).spares = s.spares := by unfold State.replaceMe; split <;> rfl
@[simp] theorem State.replaceMe_towers : (s.replaceMe).towers = s.towers := by unfold State.replaceMe; split <;> rfl
@[simp] theorem State.replaceMe_fresh : (s.replaceMe).fresh = s.fresh := by unfold State.replaceMe; split <;> rfl
@[simp] theorem State.replaceMe_harm : (s.replaceMe).harm = s.harm := by unfold State.replaceMe; split <;> rfl
@[simp] theorem State.replaceMe_core (x : Nat) : (s.replaceMe).core x = s.core x := by simp only [State.core, State.replaceMe_cores]
@[simp] theorem State.replaceMe_mac (x : Nat) : (s.replaceMe).mac x = s.mac x := by simp only [State.mac, State.replaceMe_macros]
@[simp] theorem State.replaceMe_skink (x : Nat) : (s.replaceMe).skink x = s.skink x := by simp only [State.skink, State.replaceMe_skinks]
@[simp] theorem State.replaceMe_engine (x : Nat) : (s.replaceMe).engine x = s.engine x := by simp only [State.engine, State.replaceMe_engines]
@[simp] theorem State.replaceMe_link (x : Nat) : (s.replaceMe).link x = s.link x := by simp only [State.link, State.replaceMe_links]
@[simp] theorem State.replaceMe_part (x : Nat) : (s.replaceMe).part x = s.part x := by simp only [State.part, State.replaceMe_parts]
@[simp] theorem State.replaceMe_ring (x : Nat) : (s.replaceMe).ring x = s.ring x := by simp only [State.ring, State.replaceMe_rings]
@[simp] theorem State.replaceMe_tower (x : Nat) : (s.replaceMe).tower x = s.tower x := by simp only [State.tower, State.replaceMe_towers]
@[simp] theorem State.replaceMe_session (x : Nat) : (s.replaceMe).session x = s.session x := by simp only [State.session, State.replaceMe_slp]

@[simp] theorem State.countIntegrity_pending (status : Nat) : (s.countIntegrity status).pending = s.pending := by
  unfold State.countIntegrity; repeat' split
  all_goals rfl
@[simp] theorem State.countIntegrity_mem (status : Nat) : (s.countIntegrity status).mem = s.mem := by
  unfold State.countIntegrity; repeat' split
  all_goals rfl
@[simp] theorem State.countIntegrity_cores (status : Nat) : (s.countIntegrity status).cores = s.cores := by
  unfold State.countIntegrity; repeat' split
  all_goals rfl
@[simp] theorem State.countIntegrity_macros (status : Nat) : (s.countIntegrity status).macros = s.macros := by
  unfold State.countIntegrity; repeat' split
  all_goals rfl
@[simp] theorem State.countIntegrity_skinks (status : Nat) : (s.countIntegrity status).skinks = s.skinks := by
  unfold State.countIntegrity; repeat' split
  all_goals rfl
@[simp] theorem State.countIntegrity_engines (status : Nat) : (s.countIntegrity status).engines = s.engines := by
  unfold State.countIntegrity; repeat' split
  all_goals rfl
@[simp] theorem State.countIntegrity_links (status : Nat) : (s.countIntegrity status).links = s.links := by
  unfold State.countIntegrity; repeat' split
  all_goals rfl
@[simp] theorem State.countIntegrity_parts (status : Nat) : (s.countIntegrity status).parts = s.parts := by
  unfold State.countIntegrity; repeat' split
  all_goals rfl
@[simp] theorem State.countIntegrity_rings (status : Nat) : (s.countIntegrity status).rings = s.rings := by
  unfold State.countIntegrity; repeat' split
  all_goals rfl
@[simp] theorem State.countIntegrity_tenants (status : Nat) : (s.countIntegrity status).tenants = s.tenants := by
  unfold State.countIntegrity; repeat' split
  all_goals rfl
@[simp] theorem State.countIntegrity_dict (status : Nat) : (s.countIntegrity status).dict = s.dict := by
  unfold State.countIntegrity; repeat' split
  all_goals rfl
@[simp] theorem State.countIntegrity_slp (status : Nat) : (s.countIntegrity status).slp = s.slp := by
  unfold State.countIntegrity; repeat' split
  all_goals rfl
@[simp] theorem State.countIntegrity_hub (status : Nat) : (s.countIntegrity status).hub = s.hub := by
  unfold State.countIntegrity; repeat' split
  all_goals rfl
@[simp] theorem State.countIntegrity_power (status : Nat) : (s.countIntegrity status).power = s.power := by
  unfold State.countIntegrity; repeat' split
  all_goals rfl
@[simp] theorem State.countIntegrity_towers (status : Nat) : (s.countIntegrity status).towers = s.towers := by
  unfold State.countIntegrity; repeat' split
  all_goals rfl
@[simp] theorem State.countIntegrity_fresh (status : Nat) : (s.countIntegrity status).fresh = s.fresh := by
  unfold State.countIntegrity; repeat' split
  all_goals rfl
@[simp] theorem State.countIntegrity_harm (status : Nat) : (s.countIntegrity status).harm = s.harm := by
  unfold State.countIntegrity; repeat' split
  all_goals rfl
@[simp] theorem State.countIntegrity_core (status : Nat) (x : Nat) : (s.countIntegrity status).core x = s.core x := by simp only [State.core, State.countIntegrity_cores]
@[simp] theorem State.countIntegrity_mac (status : Nat) (x : Nat) : (s.countIntegrity status).mac x = s.mac x := by simp only [State.mac, State.countIntegrity_macros]
@[simp] theorem State.countIntegrity_skink (status : Nat) (x : Nat) : (s.countIntegrity status).skink x = s.skink x := by simp only [State.skink, State.countIntegrity_skinks]
@[simp] theorem State.countIntegrity_engine (status : Nat) (x : Nat) : (s.countIntegrity status).engine x = s.engine x := by simp only [State.engine, State.countIntegrity_engines]
@[simp] theorem State.countIntegrity_link (status : Nat) (x : Nat) : (s.countIntegrity status).link x = s.link x := by simp only [State.link, State.countIntegrity_links]
@[simp] theorem State.countIntegrity_part (status : Nat) (x : Nat) : (s.countIntegrity status).part x = s.part x := by simp only [State.part, State.countIntegrity_parts]
@[simp] theorem State.countIntegrity_ring (status : Nat) (x : Nat) : (s.countIntegrity status).ring x = s.ring x := by simp only [State.ring, State.countIntegrity_rings]
@[simp] theorem State.countIntegrity_tower (status : Nat) (x : Nat) : (s.countIntegrity status).tower x = s.tower x := by simp only [State.tower, State.countIntegrity_towers]
@[simp] theorem State.countIntegrity_session (status : Nat) (x : Nat) : (s.countIntegrity status).session x = s.session x := by simp only [State.session, State.countIntegrity_slp]

@[simp] theorem State.integrity_pending (status source : Nat) : (s.integrity status source).pending = s.pending := by
  unfold State.integrity; split
  · rfl
  · simp
@[simp] theorem State.integrity_mem (status source : Nat) : (s.integrity status source).mem = s.mem := by
  unfold State.integrity; split
  · rfl
  · simp
@[simp] theorem State.integrity_cores (status source : Nat) : (s.integrity status source).cores = s.cores := by
  unfold State.integrity; split
  · rfl
  · simp
@[simp] theorem State.integrity_macros (status source : Nat) : (s.integrity status source).macros = s.macros := by
  unfold State.integrity; split
  · rfl
  · simp
@[simp] theorem State.integrity_skinks (status source : Nat) : (s.integrity status source).skinks = s.skinks := by
  unfold State.integrity; split
  · rfl
  · simp
@[simp] theorem State.integrity_engines (status source : Nat) : (s.integrity status source).engines = s.engines := by
  unfold State.integrity; split
  · rfl
  · simp
@[simp] theorem State.integrity_links (status source : Nat) : (s.integrity status source).links = s.links := by
  unfold State.integrity; split
  · rfl
  · simp
@[simp] theorem State.integrity_parts (status source : Nat) : (s.integrity status source).parts = s.parts := by
  unfold State.integrity; split
  · rfl
  · simp
@[simp] theorem State.integrity_rings (status source : Nat) : (s.integrity status source).rings = s.rings := by
  unfold State.integrity; split
  · rfl
  · simp
@[simp] theorem State.integrity_tenants (status source : Nat) : (s.integrity status source).tenants = s.tenants := by
  unfold State.integrity; split
  · rfl
  · simp
@[simp] theorem State.integrity_dict (status source : Nat) : (s.integrity status source).dict = s.dict := by
  unfold State.integrity; split
  · rfl
  · simp
@[simp] theorem State.integrity_slp (status source : Nat) : (s.integrity status source).slp = s.slp := by
  unfold State.integrity; split
  · rfl
  · simp
@[simp] theorem State.integrity_power (status source : Nat) : (s.integrity status source).power = s.power := by
  unfold State.integrity; split
  · rfl
  · simp
@[simp] theorem State.integrity_towers (status source : Nat) : (s.integrity status source).towers = s.towers := by
  unfold State.integrity; split
  · rfl
  · simp
@[simp] theorem State.integrity_fresh (status source : Nat) : (s.integrity status source).fresh = s.fresh := by
  unfold State.integrity; split
  · rfl
  · simp
@[simp] theorem State.integrity_harm (status source : Nat) : (s.integrity status source).harm = s.harm := by
  unfold State.integrity; split
  · rfl
  · simp
@[simp] theorem State.integrity_core (status source : Nat) (x : Nat) : (s.integrity status source).core x = s.core x := by simp only [State.core, State.integrity_cores]
@[simp] theorem State.integrity_mac (status source : Nat) (x : Nat) : (s.integrity status source).mac x = s.mac x := by simp only [State.mac, State.integrity_macros]
@[simp] theorem State.integrity_skink (status source : Nat) (x : Nat) : (s.integrity status source).skink x = s.skink x := by simp only [State.skink, State.integrity_skinks]
@[simp] theorem State.integrity_engine (status source : Nat) (x : Nat) : (s.integrity status source).engine x = s.engine x := by simp only [State.engine, State.integrity_engines]
@[simp] theorem State.integrity_link (status source : Nat) (x : Nat) : (s.integrity status source).link x = s.link x := by simp only [State.link, State.integrity_links]
@[simp] theorem State.integrity_part (status source : Nat) (x : Nat) : (s.integrity status source).part x = s.part x := by simp only [State.part, State.integrity_parts]
@[simp] theorem State.integrity_ring (status source : Nat) (x : Nat) : (s.integrity status source).ring x = s.ring x := by simp only [State.ring, State.integrity_rings]
@[simp] theorem State.integrity_tower (status source : Nat) (x : Nat) : (s.integrity status source).tower x = s.tower x := by simp only [State.tower, State.integrity_towers]
@[simp] theorem State.integrity_session (status source : Nat) (x : Nat) : (s.integrity status source).session x = s.session x := by simp only [State.session, State.integrity_slp]

@[simp] theorem State.badTower_pending (e : Nat) : (s.badTower e).pending = s.pending := by unfold State.badTower; split <;> rfl
@[simp] theorem State.badTower_mem (e : Nat) : (s.badTower e).mem = s.mem := by unfold State.badTower; split <;> rfl
@[simp] theorem State.badTower_cores (e : Nat) : (s.badTower e).cores = s.cores := by unfold State.badTower; split <;> rfl
@[simp] theorem State.badTower_macros (e : Nat) : (s.badTower e).macros = s.macros := by unfold State.badTower; split <;> rfl
@[simp] theorem State.badTower_skinks (e : Nat) : (s.badTower e).skinks = s.skinks := by unfold State.badTower; split <;> rfl
@[simp] theorem State.badTower_engines (e : Nat) : (s.badTower e).engines = s.engines := by unfold State.badTower; split <;> rfl
@[simp] theorem State.badTower_links (e : Nat) : (s.badTower e).links = s.links := by unfold State.badTower; split <;> rfl
@[simp] theorem State.badTower_parts (e : Nat) : (s.badTower e).parts = s.parts := by unfold State.badTower; split <;> rfl
@[simp] theorem State.badTower_rings (e : Nat) : (s.badTower e).rings = s.rings := by unfold State.badTower; split <;> rfl
@[simp] theorem State.badTower_tenants (e : Nat) : (s.badTower e).tenants = s.tenants := by unfold State.badTower; split <;> rfl
@[simp] theorem State.badTower_dict (e : Nat) : (s.badTower e).dict = s.dict := by unfold State.badTower; split <;> rfl
@[simp] theorem State.badTower_slp (e : Nat) : (s.badTower e).slp = s.slp := by unfold State.badTower; split <;> rfl
@[simp] theorem State.badTower_hub (e : Nat) : (s.badTower e).hub = s.hub := by unfold State.badTower; split <;> rfl
@[simp] theorem State.badTower_power (e : Nat) : (s.badTower e).power = s.power := by unfold State.badTower; split <;> rfl
@[simp] theorem State.badTower_spares (e : Nat) : (s.badTower e).spares = s.spares := by unfold State.badTower; split <;> rfl
@[simp] theorem State.badTower_fresh (e : Nat) : (s.badTower e).fresh = s.fresh := by unfold State.badTower; split <;> rfl
@[simp] theorem State.badTower_harm (e : Nat) : (s.badTower e).harm = s.harm := by unfold State.badTower; split <;> rfl
@[simp] theorem State.badTower_core (e : Nat) (x : Nat) : (s.badTower e).core x = s.core x := by simp only [State.core, State.badTower_cores]
@[simp] theorem State.badTower_mac (e : Nat) (x : Nat) : (s.badTower e).mac x = s.mac x := by simp only [State.mac, State.badTower_macros]
@[simp] theorem State.badTower_skink (e : Nat) (x : Nat) : (s.badTower e).skink x = s.skink x := by simp only [State.skink, State.badTower_skinks]
@[simp] theorem State.badTower_engine (e : Nat) (x : Nat) : (s.badTower e).engine x = s.engine x := by simp only [State.engine, State.badTower_engines]
@[simp] theorem State.badTower_link (e : Nat) (x : Nat) : (s.badTower e).link x = s.link x := by simp only [State.link, State.badTower_links]
@[simp] theorem State.badTower_part (e : Nat) (x : Nat) : (s.badTower e).part x = s.part x := by simp only [State.part, State.badTower_parts]
@[simp] theorem State.badTower_ring (e : Nat) (x : Nat) : (s.badTower e).ring x = s.ring x := by simp only [State.ring, State.badTower_rings]
@[simp] theorem State.badTower_session (e : Nat) (x : Nat) : (s.badTower e).session x = s.session x := by simp only [State.session, State.badTower_slp]

@[simp] theorem State.raise_pending (p die : Nat) (g : FaultRec) : (s.raise p die g).pending = s.pending := by simp [State.raise]
@[simp] theorem State.raise_mem (p die : Nat) (g : FaultRec) : (s.raise p die g).mem = s.mem := by simp [State.raise]
@[simp] theorem State.raise_cores (p die : Nat) (g : FaultRec) : (s.raise p die g).cores = s.cores := by simp [State.raise]
@[simp] theorem State.raise_macros (p die : Nat) (g : FaultRec) : (s.raise p die g).macros = s.macros := by simp [State.raise]
@[simp] theorem State.raise_skinks (p die : Nat) (g : FaultRec) : (s.raise p die g).skinks = s.skinks := by simp [State.raise]
@[simp] theorem State.raise_engines (p die : Nat) (g : FaultRec) : (s.raise p die g).engines = s.engines := by simp [State.raise]
@[simp] theorem State.raise_links (p die : Nat) (g : FaultRec) : (s.raise p die g).links = s.links := by simp [State.raise]
@[simp] theorem State.raise_rings (p die : Nat) (g : FaultRec) : (s.raise p die g).rings = s.rings := by simp [State.raise]
@[simp] theorem State.raise_tenants (p die : Nat) (g : FaultRec) : (s.raise p die g).tenants = s.tenants := by simp [State.raise]
@[simp] theorem State.raise_dict (p die : Nat) (g : FaultRec) : (s.raise p die g).dict = s.dict := by simp [State.raise]
@[simp] theorem State.raise_slp (p die : Nat) (g : FaultRec) : (s.raise p die g).slp = s.slp := by simp [State.raise]
@[simp] theorem State.raise_power (p die : Nat) (g : FaultRec) : (s.raise p die g).power = s.power := by simp [State.raise]
@[simp] theorem State.raise_hub (p die : Nat) (g : FaultRec) : (s.raise p die g).hub = s.hub := by simp [State.raise]
@[simp] theorem State.raise_spares (p die : Nat) (g : FaultRec) : (s.raise p die g).spares = s.spares := by simp [State.raise]
@[simp] theorem State.raise_fresh (p die : Nat) (g : FaultRec) : (s.raise p die g).fresh = s.fresh := by simp [State.raise]
@[simp] theorem State.raise_harm (p die : Nat) (g : FaultRec) : (s.raise p die g).harm = s.harm := by simp [State.raise]
@[simp] theorem State.raise_core (p die : Nat) (g : FaultRec) (x : Nat) : (s.raise p die g).core x = s.core x := by simp only [State.core, State.raise_cores]
@[simp] theorem State.raise_mac (p die : Nat) (g : FaultRec) (x : Nat) : (s.raise p die g).mac x = s.mac x := by simp only [State.mac, State.raise_macros]
@[simp] theorem State.raise_skink (p die : Nat) (g : FaultRec) (x : Nat) : (s.raise p die g).skink x = s.skink x := by simp only [State.skink, State.raise_skinks]
@[simp] theorem State.raise_engine (p die : Nat) (g : FaultRec) (x : Nat) : (s.raise p die g).engine x = s.engine x := by simp only [State.engine, State.raise_engines]
@[simp] theorem State.raise_link (p die : Nat) (g : FaultRec) (x : Nat) : (s.raise p die g).link x = s.link x := by simp only [State.link, State.raise_links]
@[simp] theorem State.raise_ring (p die : Nat) (g : FaultRec) (x : Nat) : (s.raise p die g).ring x = s.ring x := by simp only [State.ring, State.raise_rings]
@[simp] theorem State.raise_session (p die : Nat) (g : FaultRec) (x : Nat) : (s.raise p die g).session x = s.session x := by simp only [State.session, State.raise_slp]

@[simp] theorem State.coreRaise_pending (c status unit pc : Nat) : (s.coreRaise c status unit pc).pending = s.pending := by unfold State.coreRaise; split <;> simp
@[simp] theorem State.coreRaise_mem (c status unit pc : Nat) : (s.coreRaise c status unit pc).mem = s.mem := by unfold State.coreRaise; split <;> simp
@[simp] theorem State.coreRaise_cores (c status unit pc : Nat) : (s.coreRaise c status unit pc).cores = s.cores := by unfold State.coreRaise; split <;> simp
@[simp] theorem State.coreRaise_macros (c status unit pc : Nat) : (s.coreRaise c status unit pc).macros = s.macros := by unfold State.coreRaise; split <;> simp
@[simp] theorem State.coreRaise_skinks (c status unit pc : Nat) : (s.coreRaise c status unit pc).skinks = s.skinks := by unfold State.coreRaise; split <;> simp
@[simp] theorem State.coreRaise_engines (c status unit pc : Nat) : (s.coreRaise c status unit pc).engines = s.engines := by unfold State.coreRaise; split <;> simp
@[simp] theorem State.coreRaise_links (c status unit pc : Nat) : (s.coreRaise c status unit pc).links = s.links := by unfold State.coreRaise; split <;> simp
@[simp] theorem State.coreRaise_rings (c status unit pc : Nat) : (s.coreRaise c status unit pc).rings = s.rings := by unfold State.coreRaise; split <;> simp
@[simp] theorem State.coreRaise_tenants (c status unit pc : Nat) : (s.coreRaise c status unit pc).tenants = s.tenants := by unfold State.coreRaise; split <;> simp
@[simp] theorem State.coreRaise_dict (c status unit pc : Nat) : (s.coreRaise c status unit pc).dict = s.dict := by unfold State.coreRaise; split <;> simp
@[simp] theorem State.coreRaise_slp (c status unit pc : Nat) : (s.coreRaise c status unit pc).slp = s.slp := by unfold State.coreRaise; split <;> simp
@[simp] theorem State.coreRaise_power (c status unit pc : Nat) : (s.coreRaise c status unit pc).power = s.power := by unfold State.coreRaise; split <;> simp
@[simp] theorem State.coreRaise_fresh (c status unit pc : Nat) : (s.coreRaise c status unit pc).fresh = s.fresh := by unfold State.coreRaise; split <;> simp
@[simp] theorem State.coreRaise_harm (c status unit pc : Nat) : (s.coreRaise c status unit pc).harm = s.harm := by unfold State.coreRaise; split <;> simp
@[simp] theorem State.coreRaise_core (c status unit pc : Nat) (x : Nat) : (s.coreRaise c status unit pc).core x = s.core x := by simp only [State.core, State.coreRaise_cores]
@[simp] theorem State.coreRaise_mac (c status unit pc : Nat) (x : Nat) : (s.coreRaise c status unit pc).mac x = s.mac x := by simp only [State.mac, State.coreRaise_macros]
@[simp] theorem State.coreRaise_skink (c status unit pc : Nat) (x : Nat) : (s.coreRaise c status unit pc).skink x = s.skink x := by simp only [State.skink, State.coreRaise_skinks]
@[simp] theorem State.coreRaise_engine (c status unit pc : Nat) (x : Nat) : (s.coreRaise c status unit pc).engine x = s.engine x := by simp only [State.engine, State.coreRaise_engines]
@[simp] theorem State.coreRaise_link (c status unit pc : Nat) (x : Nat) : (s.coreRaise c status unit pc).link x = s.link x := by simp only [State.link, State.coreRaise_links]
@[simp] theorem State.coreRaise_ring (c status unit pc : Nat) (x : Nat) : (s.coreRaise c status unit pc).ring x = s.ring x := by simp only [State.ring, State.coreRaise_rings]
@[simp] theorem State.coreRaise_session (c status unit pc : Nat) (x : Nat) : (s.coreRaise c status unit pc).session x = s.session x := by simp only [State.session, State.coreRaise_slp]

@[simp] theorem State.macroRaise_pending (c k status pc : Nat) : (s.macroRaise c k status pc).pending = s.pending := by unfold State.macroRaise; split <;> simp
@[simp] theorem State.macroRaise_mem (c k status pc : Nat) : (s.macroRaise c k status pc).mem = s.mem := by unfold State.macroRaise; split <;> simp
@[simp] theorem State.macroRaise_cores (c k status pc : Nat) : (s.macroRaise c k status pc).cores = s.cores := by unfold State.macroRaise; split <;> simp
@[simp] theorem State.macroRaise_macros (c k status pc : Nat) : (s.macroRaise c k status pc).macros = s.macros := by unfold State.macroRaise; split <;> simp
@[simp] theorem State.macroRaise_skinks (c k status pc : Nat) : (s.macroRaise c k status pc).skinks = s.skinks := by unfold State.macroRaise; split <;> simp
@[simp] theorem State.macroRaise_engines (c k status pc : Nat) : (s.macroRaise c k status pc).engines = s.engines := by unfold State.macroRaise; split <;> simp
@[simp] theorem State.macroRaise_links (c k status pc : Nat) : (s.macroRaise c k status pc).links = s.links := by unfold State.macroRaise; split <;> simp
@[simp] theorem State.macroRaise_rings (c k status pc : Nat) : (s.macroRaise c k status pc).rings = s.rings := by unfold State.macroRaise; split <;> simp
@[simp] theorem State.macroRaise_tenants (c k status pc : Nat) : (s.macroRaise c k status pc).tenants = s.tenants := by unfold State.macroRaise; split <;> simp
@[simp] theorem State.macroRaise_dict (c k status pc : Nat) : (s.macroRaise c k status pc).dict = s.dict := by unfold State.macroRaise; split <;> simp
@[simp] theorem State.macroRaise_slp (c k status pc : Nat) : (s.macroRaise c k status pc).slp = s.slp := by unfold State.macroRaise; split <;> simp
@[simp] theorem State.macroRaise_power (c k status pc : Nat) : (s.macroRaise c k status pc).power = s.power := by unfold State.macroRaise; split <;> simp
@[simp] theorem State.macroRaise_fresh (c k status pc : Nat) : (s.macroRaise c k status pc).fresh = s.fresh := by unfold State.macroRaise; split <;> simp
@[simp] theorem State.macroRaise_harm (c k status pc : Nat) : (s.macroRaise c k status pc).harm = s.harm := by unfold State.macroRaise; split <;> simp
@[simp] theorem State.macroRaise_core (c k status pc : Nat) (x : Nat) : (s.macroRaise c k status pc).core x = s.core x := by simp only [State.core, State.macroRaise_cores]
@[simp] theorem State.macroRaise_mac (c k status pc : Nat) (x : Nat) : (s.macroRaise c k status pc).mac x = s.mac x := by simp only [State.mac, State.macroRaise_macros]
@[simp] theorem State.macroRaise_skink (c k status pc : Nat) (x : Nat) : (s.macroRaise c k status pc).skink x = s.skink x := by simp only [State.skink, State.macroRaise_skinks]
@[simp] theorem State.macroRaise_engine (c k status pc : Nat) (x : Nat) : (s.macroRaise c k status pc).engine x = s.engine x := by simp only [State.engine, State.macroRaise_engines]
@[simp] theorem State.macroRaise_link (c k status pc : Nat) (x : Nat) : (s.macroRaise c k status pc).link x = s.link x := by simp only [State.link, State.macroRaise_links]
@[simp] theorem State.macroRaise_ring (c k status pc : Nat) (x : Nat) : (s.macroRaise c k status pc).ring x = s.ring x := by simp only [State.ring, State.macroRaise_rings]
@[simp] theorem State.macroRaise_session (c k status pc : Nat) (x : Nat) : (s.macroRaise c k status pc).session x = s.session x := by simp only [State.session, State.macroRaise_slp]

@[simp] theorem State.stopIssue_pending (c status pc : Nat) : (s.stopIssue c status pc).pending = s.pending := rfl
@[simp] theorem State.stopIssue_mem (c status pc : Nat) : (s.stopIssue c status pc).mem = s.mem := rfl
@[simp] theorem State.stopIssue_macros (c status pc : Nat) : (s.stopIssue c status pc).macros = s.macros := rfl
@[simp] theorem State.stopIssue_skinks (c status pc : Nat) : (s.stopIssue c status pc).skinks = s.skinks := rfl
@[simp] theorem State.stopIssue_engines (c status pc : Nat) : (s.stopIssue c status pc).engines = s.engines := rfl
@[simp] theorem State.stopIssue_links (c status pc : Nat) : (s.stopIssue c status pc).links = s.links := rfl
@[simp] theorem State.stopIssue_parts (c status pc : Nat) : (s.stopIssue c status pc).parts = s.parts := rfl
@[simp] theorem State.stopIssue_rings (c status pc : Nat) : (s.stopIssue c status pc).rings = s.rings := rfl
@[simp] theorem State.stopIssue_tenants (c status pc : Nat) : (s.stopIssue c status pc).tenants = s.tenants := rfl
@[simp] theorem State.stopIssue_dict (c status pc : Nat) : (s.stopIssue c status pc).dict = s.dict := rfl
@[simp] theorem State.stopIssue_slp (c status pc : Nat) : (s.stopIssue c status pc).slp = s.slp := rfl
@[simp] theorem State.stopIssue_hub (c status pc : Nat) : (s.stopIssue c status pc).hub = s.hub := rfl
@[simp] theorem State.stopIssue_power (c status pc : Nat) : (s.stopIssue c status pc).power = s.power := rfl
@[simp] theorem State.stopIssue_spares (c status pc : Nat) : (s.stopIssue c status pc).spares = s.spares := rfl
@[simp] theorem State.stopIssue_towers (c status pc : Nat) : (s.stopIssue c status pc).towers = s.towers := rfl
@[simp] theorem State.stopIssue_fresh (c status pc : Nat) : (s.stopIssue c status pc).fresh = s.fresh := rfl
@[simp] theorem State.stopIssue_harm (c status pc : Nat) : (s.stopIssue c status pc).harm = s.harm := rfl
@[simp] theorem State.stopIssue_mac (c status pc : Nat) (x : Nat) : (s.stopIssue c status pc).mac x = s.mac x := rfl
@[simp] theorem State.stopIssue_skink (c status pc : Nat) (x : Nat) : (s.stopIssue c status pc).skink x = s.skink x := rfl
@[simp] theorem State.stopIssue_engine (c status pc : Nat) (x : Nat) : (s.stopIssue c status pc).engine x = s.engine x := rfl
@[simp] theorem State.stopIssue_link (c status pc : Nat) (x : Nat) : (s.stopIssue c status pc).link x = s.link x := rfl
@[simp] theorem State.stopIssue_part (c status pc : Nat) (x : Nat) : (s.stopIssue c status pc).part x = s.part x := rfl
@[simp] theorem State.stopIssue_ring (c status pc : Nat) (x : Nat) : (s.stopIssue c status pc).ring x = s.ring x := rfl
@[simp] theorem State.stopIssue_tower (c status pc : Nat) (x : Nat) : (s.stopIssue c status pc).tower x = s.tower x := rfl
@[simp] theorem State.stopIssue_session (c status pc : Nat) (x : Nat) : (s.stopIssue c status pc).session x = s.session x := rfl

@[simp] theorem State.refuse_pending (c status : Nat) : (s.refuse c status).pending = s.pending := by simp [State.refuse]
@[simp] theorem State.refuse_mem (c status : Nat) : (s.refuse c status).mem = s.mem := by simp [State.refuse]
@[simp] theorem State.refuse_macros (c status : Nat) : (s.refuse c status).macros = s.macros := by simp [State.refuse]
@[simp] theorem State.refuse_skinks (c status : Nat) : (s.refuse c status).skinks = s.skinks := by simp [State.refuse]
@[simp] theorem State.refuse_engines (c status : Nat) : (s.refuse c status).engines = s.engines := by simp [State.refuse]
@[simp] theorem State.refuse_links (c status : Nat) : (s.refuse c status).links = s.links := by simp [State.refuse]
@[simp] theorem State.refuse_rings (c status : Nat) : (s.refuse c status).rings = s.rings := by simp [State.refuse]
@[simp] theorem State.refuse_tenants (c status : Nat) : (s.refuse c status).tenants = s.tenants := by simp [State.refuse]
@[simp] theorem State.refuse_dict (c status : Nat) : (s.refuse c status).dict = s.dict := by simp [State.refuse]
@[simp] theorem State.refuse_slp (c status : Nat) : (s.refuse c status).slp = s.slp := by simp [State.refuse]
@[simp] theorem State.refuse_power (c status : Nat) : (s.refuse c status).power = s.power := by simp [State.refuse]
@[simp] theorem State.refuse_fresh (c status : Nat) : (s.refuse c status).fresh = s.fresh := by simp [State.refuse]
@[simp] theorem State.refuse_harm (c status : Nat) : (s.refuse c status).harm = s.harm := by simp [State.refuse]
@[simp] theorem State.refuse_mac (c status : Nat) (x : Nat) : (s.refuse c status).mac x = s.mac x := by simp only [State.mac, State.refuse_macros]
@[simp] theorem State.refuse_skink (c status : Nat) (x : Nat) : (s.refuse c status).skink x = s.skink x := by simp only [State.skink, State.refuse_skinks]
@[simp] theorem State.refuse_engine (c status : Nat) (x : Nat) : (s.refuse c status).engine x = s.engine x := by simp only [State.engine, State.refuse_engines]
@[simp] theorem State.refuse_link (c status : Nat) (x : Nat) : (s.refuse c status).link x = s.link x := by simp only [State.link, State.refuse_links]
@[simp] theorem State.refuse_ring (c status : Nat) (x : Nat) : (s.refuse c status).ring x = s.ring x := by simp only [State.ring, State.refuse_rings]
@[simp] theorem State.refuse_session (c status : Nat) (x : Nat) : (s.refuse c status).session x = s.session x := by simp only [State.session, State.refuse_slp]

@[simp] theorem State.signal_pending (c sig pc : Nat) : (s.signal c sig pc).pending = s.pending := by
  simp only [State.signal]; split
  · rfl
  · split <;> simp
@[simp] theorem State.signal_mem (c sig pc : Nat) : (s.signal c sig pc).mem = s.mem := by
  simp only [State.signal]; split
  · rfl
  · split <;> simp
@[simp] theorem State.signal_macros (c sig pc : Nat) : (s.signal c sig pc).macros = s.macros := by
  simp only [State.signal]; split
  · rfl
  · split <;> simp
@[simp] theorem State.signal_skinks (c sig pc : Nat) : (s.signal c sig pc).skinks = s.skinks := by
  simp only [State.signal]; split
  · rfl
  · split <;> simp
@[simp] theorem State.signal_engines (c sig pc : Nat) : (s.signal c sig pc).engines = s.engines := by
  simp only [State.signal]; split
  · rfl
  · split <;> simp
@[simp] theorem State.signal_links (c sig pc : Nat) : (s.signal c sig pc).links = s.links := by
  simp only [State.signal]; split
  · rfl
  · split <;> simp
@[simp] theorem State.signal_rings (c sig pc : Nat) : (s.signal c sig pc).rings = s.rings := by
  simp only [State.signal]; split
  · rfl
  · split <;> simp
@[simp] theorem State.signal_tenants (c sig pc : Nat) : (s.signal c sig pc).tenants = s.tenants := by
  simp only [State.signal]; split
  · rfl
  · split <;> simp
@[simp] theorem State.signal_dict (c sig pc : Nat) : (s.signal c sig pc).dict = s.dict := by
  simp only [State.signal]; split
  · rfl
  · split <;> simp
@[simp] theorem State.signal_slp (c sig pc : Nat) : (s.signal c sig pc).slp = s.slp := by
  simp only [State.signal]; split
  · rfl
  · split <;> simp
@[simp] theorem State.signal_power (c sig pc : Nat) : (s.signal c sig pc).power = s.power := by
  simp only [State.signal]; split
  · rfl
  · split <;> simp
@[simp] theorem State.signal_fresh (c sig pc : Nat) : (s.signal c sig pc).fresh = s.fresh := by
  simp only [State.signal]; split
  · rfl
  · split <;> simp
@[simp] theorem State.signal_harm (c sig pc : Nat) : (s.signal c sig pc).harm = s.harm := by
  simp only [State.signal]; split
  · rfl
  · split <;> simp
@[simp] theorem State.signal_mac (c sig pc : Nat) (x : Nat) : (s.signal c sig pc).mac x = s.mac x := by simp only [State.mac, State.signal_macros]
@[simp] theorem State.signal_skink (c sig pc : Nat) (x : Nat) : (s.signal c sig pc).skink x = s.skink x := by simp only [State.skink, State.signal_skinks]
@[simp] theorem State.signal_engine (c sig pc : Nat) (x : Nat) : (s.signal c sig pc).engine x = s.engine x := by simp only [State.engine, State.signal_engines]
@[simp] theorem State.signal_link (c sig pc : Nat) (x : Nat) : (s.signal c sig pc).link x = s.link x := by simp only [State.link, State.signal_links]
@[simp] theorem State.signal_ring (c sig pc : Nat) (x : Nat) : (s.signal c sig pc).ring x = s.ring x := by simp only [State.ring, State.signal_rings]
@[simp] theorem State.signal_session (c sig pc : Nat) (x : Nat) : (s.signal c sig pc).session x = s.session x := by simp only [State.session, State.signal_slp]

@[simp] theorem State.count_pending (p key n max : Nat) : (s.count p key n max).pending = s.pending := rfl
@[simp] theorem State.count_mem (p key n max : Nat) : (s.count p key n max).mem = s.mem := rfl
@[simp] theorem State.count_cores (p key n max : Nat) : (s.count p key n max).cores = s.cores := rfl
@[simp] theorem State.count_macros (p key n max : Nat) : (s.count p key n max).macros = s.macros := rfl
@[simp] theorem State.count_skinks (p key n max : Nat) : (s.count p key n max).skinks = s.skinks := rfl
@[simp] theorem State.count_engines (p key n max : Nat) : (s.count p key n max).engines = s.engines := rfl
@[simp] theorem State.count_links (p key n max : Nat) : (s.count p key n max).links = s.links := rfl
@[simp] theorem State.count_rings (p key n max : Nat) : (s.count p key n max).rings = s.rings := rfl
@[simp] theorem State.count_tenants (p key n max : Nat) : (s.count p key n max).tenants = s.tenants := rfl
@[simp] theorem State.count_dict (p key n max : Nat) : (s.count p key n max).dict = s.dict := rfl
@[simp] theorem State.count_slp (p key n max : Nat) : (s.count p key n max).slp = s.slp := rfl
@[simp] theorem State.count_hub (p key n max : Nat) : (s.count p key n max).hub = s.hub := rfl
@[simp] theorem State.count_power (p key n max : Nat) : (s.count p key n max).power = s.power := rfl
@[simp] theorem State.count_spares (p key n max : Nat) : (s.count p key n max).spares = s.spares := rfl
@[simp] theorem State.count_towers (p key n max : Nat) : (s.count p key n max).towers = s.towers := rfl
@[simp] theorem State.count_fresh (p key n max : Nat) : (s.count p key n max).fresh = s.fresh := rfl
@[simp] theorem State.count_harm (p key n max : Nat) : (s.count p key n max).harm = s.harm := rfl
@[simp] theorem State.count_core (p key n max : Nat) (x : Nat) : (s.count p key n max).core x = s.core x := rfl
@[simp] theorem State.count_mac (p key n max : Nat) (x : Nat) : (s.count p key n max).mac x = s.mac x := rfl
@[simp] theorem State.count_skink (p key n max : Nat) (x : Nat) : (s.count p key n max).skink x = s.skink x := rfl
@[simp] theorem State.count_engine (p key n max : Nat) (x : Nat) : (s.count p key n max).engine x = s.engine x := rfl
@[simp] theorem State.count_link (p key n max : Nat) (x : Nat) : (s.count p key n max).link x = s.link x := rfl
@[simp] theorem State.count_ring (p key n max : Nat) (x : Nat) : (s.count p key n max).ring x = s.ring x := rfl
@[simp] theorem State.count_tower (p key n max : Nat) (x : Nat) : (s.count p key n max).tower x = s.tower x := rfl
@[simp] theorem State.count_session (p key n max : Nat) (x : Nat) : (s.count p key n max).session x = s.session x := rfl

/-- A fault is appended to its partition's faults of the tick, with its status, its unit and who is charged (R467, R426, R439). -/
theorem State.raise_part (p die : Nat) (g : FaultRec) : (s.raise p die g).part p =
    { s.part p with faults := (s.part p).faults ++
        [{ g.reported with source := faultSource (some p) die { g with unit := g.reported.unit } }] } := by
  simp [State.raise]

/-- A fault of a partition leaves every other partition as it was. -/
theorem State.raise_part_other (p die : Nat) (g : FaultRec) (q : Nat) (h : q ≠ p) : (s.raise p die g).part q = s.part q := by
  simp [State.raise, State.updPart_part_other _ _ _ h]

/-- A core with no job reports nothing. -/
theorem State.coreRaise_free (c status unit pc : Nat) (h : (s.core c).part = none) : s.coreRaise c status unit pc = s := by
  simp [State.coreRaise, h]

/-- A core's fault is its partition's; a residue mismatch is charged to the core (R439). -/
theorem State.coreRaise_of (c status unit pc p : Nat) (h : (s.core c).part = some p) :
    s.coreRaise c status unit pc = s.raise p (coreDie c) { coreFault (s.core c) status unit pc with charge := coreCharge c status } := by
  simp [State.coreRaise, h]

/-- A refusal stops issue and keeps the first refusal's counter and status in `CORE_FAULT` (R148). -/
theorem State.stopIssue_core (c status pc : Nat) : (s.stopIssue c status pc).core c =
    if (s.core c).faultValid then { s.core c with state := 6 }
    else { s.core c with state := 6, faultValid := true, faultPc := pc % 2 ^ 15, faultStatus := statusOf status } := by
  simp [State.stopIssue]

/-- It leaves every other core as it was. -/
theorem State.stopIssue_core_other (c status pc d : Nat) (h : d ≠ c) : (s.stopIssue c status pc).core d = s.core d := by
  simp [State.stopIssue, State.updCore_core_other _ _ _ h]

/-- A refusal in the sequencer is kept with the counter of the instruction at issue. -/
theorem State.refuse_core (c status : Nat) : (s.refuse c status).core c =
    if (s.core c).faultValid then { s.core c with state := 6 }
    else { s.core c with state := 6, faultValid := true, faultPc := (s.core c).pc % 2 ^ 15, faultStatus := statusOf status } := by
  simp [State.refuse, State.stopIssue_core]

/-- A refusal leaves every other core as it was. -/
theorem State.refuse_core_other (c status d : Nat) (h : d ≠ c) : (s.refuse c status).core d = s.core d := by
  simp [State.refuse, State.stopIssue_core_other _ _ _ _ _ h]

/-- A token below its limit rises by one (R147). -/
theorem State.signal_core (c sig pc : Nat) (hs : sig ≠ 0) (hn : mget (s.core c).tokens 0 sig ≠ 65535) : (s.signal c sig pc).core c =
    { s.core c with tokens := mset (s.core c).tokens 0 sig (mget (s.core c).tokens 0 sig + 1) } := by
  simp [State.signal, hs, hn]

/-- A token at its limit faults the job and stays. -/
theorem State.signal_full (c sig pc : Nat) (hs : sig ≠ 0) (hn : mget (s.core c).tokens 0 sig = 65535) :
    s.signal c sig pc = s.coreRaise c 0x0107 1 pc := by simp [State.signal, hs, hn]

/-- A counter of a partition rises, and holds at its greatest value. -/
theorem State.count_counters (p key n max : Nat) : ((s.count p key n max).part p).counters =
    mset (s.part p).counters 0 key (satAdd max (mget (s.part p).counters 0 key) n) := by simp [State.count]

/-- The latch of an alarm after one occurrence (R469). -/
theorem State.alarm_latch (n detail source : Nat) :
    mget (s.alarm n detail source).hub.alarms Alarm.reset n =
      { raised := true, count := satAdd 0xFFFFFFFF (mget s.hub.alarms Alarm.reset n).count 1,
        first := if (mget s.hub.alarms Alarm.reset n).raised then (mget s.hub.alarms Alarm.reset n).first else s.hub.tick,
        last := s.hub.tick, detail := detail, source := source } := by
  simp [State.alarm, State.log]

/-- Every other alarm's latch is as it was. -/
theorem State.alarm_latch_other (n detail source m : Nat) (h : m ≠ n) :
    mget (s.alarm n detail source).hub.alarms Alarm.reset m = mget s.hub.alarms Alarm.reset m := by
  simp [State.alarm, State.log, mget_mset_other _ _ _ h]

end Sys2Proof.Machine
end

