-- ==== Sys2Proof/Laws/Access.lean ====
section
/-! SUPPORT. What an operand's access can change: a read its partition's cache and counters, a write and an atomic memory besides, at the
extents that the operand names. -/

namespace Sys2Proof.Machine

open Sys2Proof.Laws

/-- `t` is `s` but for what its partitions hold and for what may still befall the command in hand. -/
def OnlyParts (s t : State) : Prop := t = { s with parts := t.parts, harm := t.harm }

/-- `t` is `s` but for memory, for what its partitions hold and for what may still befall the command in hand. -/
def OnlyMemParts (s t : State) : Prop := t = { s with mem := t.mem, parts := t.parts, harm := t.harm }

theorem OnlyParts.same (s : State) : OnlyParts s s := rfl

theorem OnlyParts.then {s t u : State} (h : OnlyParts s t) (k : OnlyParts t u) : OnlyParts s u := by
  unfold OnlyParts at *; rw [k, h]

theorem OnlyParts.crossed (s : State) : OnlyParts s s.crossed := by unfold OnlyParts State.crossed; split <;> rfl

@[simp] theorem State.crossed_mem (s : State) : s.crossed.mem = s.mem := by unfold State.crossed; split <;> rfl
@[simp] theorem State.crossed_cached (s : State) (p : Nat) : s.crossed.cached p = s.cached p := by unfold State.crossed; split <;> rfl

/-- Where nothing befalls the access, the bytes arrive as they were sent. -/
theorem State.arrived_calm (s : State) (a : Nat) (bs : List Byte) (h : s.harm.beat = none) : s.arrived a bs = .ok bs := by
  simp [State.arrived, State.struck, h]

theorem State.crossed_calm (s : State) (h : s.harm.beat = none) : s.crossed = s := by simp [State.crossed, h]

theorem OnlyParts.updPart (s : State) (p : Nat) (f : Partition → Partition) : OnlyParts s (s.updPart p f) := rfl

theorem OnlyParts.toMem {s t : State} (h : OnlyParts s t) : OnlyMemParts s t := by
  unfold OnlyParts OnlyMemParts at *; rw [h]

theorem OnlyMemParts.then {s t u : State} (h : OnlyMemParts s t) (k : OnlyMemParts t u) : OnlyMemParts s u := by
  unfold OnlyMemParts at *; rw [k, h]

theorem OnlyMemParts.setMem (s : State) (m : Memory) : OnlyMemParts s (s.setMem m) := rfl

theorem State.cacheLine_only {s t : State} {p die line : Nat} {bs : List Byte} (h : s.cacheLine p die line = .ok (bs, t)) : OnlyParts s t := by
  unfold State.cacheLine at h
  dsimp only at h
  split at h
  · cases h; exact OnlyParts.then (OnlyParts.updPart _ _ _) (OnlyParts.updPart _ _ _)
  · split at h
    · cases h
    · cases h; exact OnlyParts.then (OnlyParts.updPart _ _ _) (OnlyParts.updPart _ _ _)

theorem State.cachedRead_only (p die : Nat) : ∀ (fuel a n : Nat) {s t : State} {bs : List Byte},
    s.cachedRead p die fuel a n = .ok (bs, t) → OnlyParts s t := by
  intro fuel
  induction fuel with
  | zero => intro a n s t bs h; cases h; exact OnlyParts.same _
  | succ fuel ih =>
    intro a n s t bs h
    unfold State.cachedRead at h
    split at h
    · cases h; exact OnlyParts.same _
    · split at h
      · cases h
      · rename_i hl
        dsimp only at h
        split at h
        · cases h
        · rename_i hm
          cases h
          exact OnlyParts.then (State.cacheLine_only hl) (ih _ _ hm)

theorem State.cachedExtents_only (p die : Nat) : ∀ (ext : List (Nat × Nat)) {s t : State} {bs : List Byte},
    s.cachedExtents p die ext = .ok (bs, t) → OnlyParts s t := by
  intro ext
  induction ext with
  | nil => intro s t bs h; cases h; exact OnlyParts.same _
  | cons e rest ih =>
    intro s t bs h
    unfold State.cachedExtents at h
    split at h
    · cases h
    · rename_i hl
      split at h
      · cases h
      · rename_i hm
        cases h
        exact OnlyParts.then (State.cachedRead_only _ _ _ _ _ hl) (ih hm)

/-- What a reader takes in is what was read, changed at most on its way; a check that disagrees ends it (R425, R426). -/
theorem State.receive_ok {s t : State} {far : Bool} {ext : List (Nat × Nat)} {r : Except Nat (List Byte × State)} {bs : List Byte}
    (h : s.receive far ext r = .ok (bs, t)) :
    ∃ sent u, r = .ok (sent, u) ∧ (t = u ∨ t = u.crossed) ∧ (if far then s.arrived (firstAddr ext) sent else .ok sent) = .ok bs := by
  unfold State.receive at h
  split at h
  · cases h
  · rename_i sent u
    cases far
    · cases h; exact ⟨_, _, rfl, .inl rfl, rfl⟩
    · simp only [Bool.not_true, Bool.false_eq_true, if_false] at h
      split at h
      · cases h
      · rename_i got hg; cases h; exact ⟨_, _, rfl, .inr rfl, hg⟩

/-- A read of an operand changes nothing but its partition's cache and counters, and what may still befall the command (R298). -/
theorem State.readOp_only {s t : State} {c n : Nat} {o : Operand} {bs : List Byte} (h : s.readOp c o n = .ok (bs, t)) : OnlyParts s t := by
  unfold State.readOp at h
  split at h
  · cases h
  · obtain ⟨sent, u, hr, ht, -⟩ := State.receive_ok h
    have hu : OnlyParts s u := by
      split at hr
      · split at hr
        · exact State.cachedExtents_only _ _ _ hr
        · split at hr <;> cases hr
          exact OnlyParts.same _
      · split at hr <;> cases hr
        exact OnlyParts.same _
    rcases ht with rfl | rfl
    · exact hu
    · exact hu.then (OnlyParts.crossed _)

/-- A read of a core's own scratchpads changes nothing, and answers the bytes stored there. -/
theorem State.readOp_local {s t : State} {c n : Nat} {o : Operand} {bs : List Byte} (hk : o.h.kind ≤ 2) (h : s.readOp c o n = .ok (bs, t)) :
    t = s ∧ readExtents s.mem
      (localExtents (localMem c o.h.kind).1 (localMem c o.h.kind).2 (n / (localMem c o.h.kind).2 + 2) (o.h.base + o.off) n) = .ok bs := by
  have hk4 : (o.h.kind == 4) = false := by simp; omega
  have hk3 : o.h.kind ≤ 3 := by omega
  have hf : o.far = false := by simp [Operand.far]; omega
  unfold State.readOp State.extents State.receive at h
  simp only [hk3, if_true, hk4, hf, Bool.not_false] at h
  split at h
  · cases h
  · rename_i heq
    cases h
    split at heq
    · cases heq
    · rename_i hm; cases heq; exact ⟨rfl, hm⟩

theorem State.writeThroughAll_only (p die : Nat) : ∀ (ext : List (Nat × Nat)) (bs : List Byte) (s : State),
    OnlyParts s (s.writeThroughAll p die ext bs) := by
  intro ext
  induction ext with
  | nil => intro bs s; exact OnlyParts.same _
  | cons e rest ih => intro bs s; exact OnlyParts.then (OnlyParts.updPart _ _ _) (ih _ _)

theorem State.writeThroughAll_mem (p die : Nat) : ∀ (ext : List (Nat × Nat)) (bs : List Byte) (s : State),
    (s.writeThroughAll p die ext bs).mem = s.mem := by
  intro ext
  induction ext with
  | nil => intro bs s; rfl
  | cons e rest ih => intro bs s; exact (ih _ _).trans rfl

theorem State.noteWrite_only (s : State) (p : Nat) (ext : List (Nat × Nat)) : OnlyParts s (s.noteWrite p ext) := by
  unfold State.noteWrite; dsimp only; split <;> rfl

@[simp] theorem State.noteWrite_mem (s : State) (p : Nat) (ext : List (Nat × Nat)) : (s.noteWrite p ext).mem = s.mem := by
  unfold State.noteWrite; dsimp only; split <;> rfl

/-- Bytes deposited are stored at their extents as they arrive, and nothing else changes but a partition's cache and record of what it wrote. -/
theorem State.deposit_only {s t : State} {die : Nat} {part : Option Nat} {far window : Bool} {ext : List (Nat × Nat)} {bs : List Byte}
    (h : s.deposit die part far window ext bs = .ok t) :
    OnlyMemParts s t ∧ ∃ got, (if far then s.arrived (firstAddr ext) bs else .ok bs) = .ok got ∧ writeExtents s.mem ext got = .ok t.mem := by
  unfold State.deposit at h
  split at h
  · cases h
  · rename_i got hg
    split at h
    · cases h
    · rename_i m hm
      have hu : ∀ u, (u = if far then (s.setMem m).crossed else s.setMem m) → OnlyMemParts s u ∧ u.mem = m := by
        intro u hu
        cases far
        · subst hu; exact ⟨rfl, rfl⟩
        · subst hu; exact ⟨(OnlyMemParts.setMem s m).then (OnlyParts.crossed _).toMem, by simp [State.setMem]⟩
      dsimp only at h
      generalize (if far then (s.setMem m).crossed else s.setMem m) = u at h hu
      obtain ⟨hu1, hu2⟩ := hu u rfl
      split at h
      · cases h; exact ⟨hu1, got, hg, hu2 ▸ hm⟩
      · rename_i p
        have hv : ∀ v, (v = if window then u.noteWrite p ext else u) → OnlyMemParts u v ∧ v.mem = u.mem := by
          intro v hv
          cases window
          · subst hv; exact ⟨rfl, rfl⟩
          · subst hv; exact ⟨(State.noteWrite_only _ _ _).toMem, by simp⟩
        generalize (if window then u.noteWrite p ext else u) = v at h hv
        obtain ⟨hv1, hv2⟩ := hv v rfl
        cases h
        refine ⟨?_, got, hg, ?_⟩
        · split
          · exact hu1.then (hv1.then (State.writeThroughAll_only _ _ _ _ _).toMem)
          · exact hu1.then hv1
        · rw [hm]; split
          · rw [State.writeThroughAll_mem, hv2, hu2]
          · rw [hv2, hu2]

/-- A write of an operand stores its bytes at the operand's extents, and changes nothing else but its partition's cache and record of what it
wrote (R298, R374). -/
theorem State.writeOp_only {s t : State} {c : Nat} {o : Operand} {bs : List Byte} (h : s.writeOp c o bs = .ok t) :
    OnlyMemParts s t ∧ ∃ ext got, s.extents c o bs.length rWR = .ok ext ∧
      (if o.far then s.arrived (firstAddr ext) bs else .ok bs) = .ok got ∧ writeExtents s.mem ext got = .ok t.mem := by
  unfold State.writeOp at h
  split at h
  · cases h
  · rename_i ext hx
    obtain ⟨h1, got, h2, h3⟩ := State.deposit_only h
    exact ⟨h1, ext, got, hx, h2, h3⟩

/-- An indivisible access replaces the bytes at its extents by what the operation answers of them, and answers the old bytes as they arrive (R311). -/
theorem State.exchange_only {s t : State} {die : Nat} {part : Option Nat} {far window : Bool} {ext : List (Nat × Nat)}
    {f : List Byte → Except Nat (List Byte)} {seen : List Byte} (h : s.exchange die part far window ext f = .ok (seen, t)) :
    OnlyMemParts s t ∧ ∃ old new, readExtents s.mem ext = .ok old ∧ (if far then s.arrived (firstAddr ext) old else .ok old) = .ok seen ∧
      f old = .ok new ∧ writeExtents s.mem ext new = .ok t.mem := by
  unfold State.exchange at h
  split at h
  · cases h
  · rename_i was hr
    split at h
    · cases h
    · rename_i got hg
      split at h
      · cases h
      rename_i new hf
      split at h
      · cases h
      · rename_i m hm
        have hu : ∀ u, (u = if far then (s.setMem m).crossed else s.setMem m) → OnlyMemParts s u ∧ u.mem = m := by
          intro u hu
          cases far
          · subst hu; exact ⟨rfl, rfl⟩
          · subst hu; exact ⟨(OnlyMemParts.setMem s m).then (OnlyParts.crossed _).toMem, by simp [State.setMem]⟩
        dsimp only at h
        generalize (if far then (s.setMem m).crossed else s.setMem m) = u at h hu
        obtain ⟨hu1, hu2⟩ := hu u rfl
        split at h
        · cases h; exact ⟨hu1, was, new, hr, hg, hf, hu2 ▸ hm⟩
        · rename_i p
          have hv : ∀ v, (v = if window then u.noteWrite p ext else u) → OnlyMemParts u v ∧ v.mem = u.mem := by
            intro v hv
            cases window
            · subst hv; exact ⟨rfl, rfl⟩
            · subst hv; exact ⟨(State.noteWrite_only _ _ _).toMem, by simp⟩
          generalize (if window then u.noteWrite p ext else u) = v at h hv
          obtain ⟨hv1, hv2⟩ := hv v rfl
          cases h
          refine ⟨?_, was, new, hr, hg, hf, ?_⟩
          · split
            · exact hu1.then (hv1.then (OnlyParts.updPart _ _ _).toMem)
            · exact hu1.then hv1
          · rw [hm]; split
            · simp [State.dropLines, hv2, hu2]
            · rw [hv2, hu2]

/-- An atomic replaces the bytes at the operand's extents by what the operation answers of them, and answers the old bytes. -/
theorem State.atomicOp_only {s t : State} {c n : Nat} {o : Operand} {f : List Byte → Except Nat (List Byte)} {seen : List Byte}
    (h : s.atomicOp c o n f = .ok (seen, t)) :
    OnlyMemParts s t ∧ ∃ ext old new, s.extents c o n rATOM = .ok ext ∧ readExtents s.mem ext = .ok old ∧
      (if o.far then s.arrived (firstAddr ext) old else .ok old) = .ok seen ∧ f old = .ok new ∧ writeExtents s.mem ext new = .ok t.mem := by
  unfold State.atomicOp at h
  split at h
  · cases h
  · rename_i ext hx
    obtain ⟨h1, old, new, h2, h3, h4, h5⟩ := State.exchange_only h
    exact ⟨h1, ext, old, new, hx, h2, h3, h4, h5⟩

/-- A command that nothing befalls. -/
theorem State.suffer_none (s : State) : s.suffer Harm.none = { s with harm := Harm.none } := rfl

/-- A refused check, a fault of an access: the core's job faults; otherwise the operation goes on. -/
theorem State.orFault_ok {α : Type} (s : State) (c unit pc : Nat) (a : α) (go : α → State) : s.orFault c unit pc (.ok a) go = go a := rfl

theorem State.orFault_error {α : Type} (s : State) (c unit pc e : Nat) (go : α → State) :
    s.orFault c unit pc (.error e) go = s.coreRaise c e unit pc := rfl

end Sys2Proof.Machine
end

