-- ==== Sys2Proof/Laws/Issue.lean ====
section
/-! SUPPORT. The issue of a tile instruction, said once: what the shared operation answers in each of its cases (R117, R132, R148). -/

namespace Sys2Proof.Laws

open Sys2Proof.Machine

variable {s : State} {c w : Nat} {sel : Nat → Bool} {checks : Core → Nat → List (Bool × Nat)} {hold : Nat → State → Option Nat}

/-- An instruction that nothing stops has its own effect, with the program counter advanced. -/
theorem issue_goes (h : Issues s c w sel checks hold) (go : Nat → State → State) : s.issue c sel checks hold go = go w (s.advance c).crossed := by
  have := h.sound
  simp [State.issue, h.issuing, h.fetched, h.defined, h.selected, h.kept, h.free, this]

/-- A core that may not issue stays as it is. -/
theorem issue_idle (h : s.issuing c = false) (go : Nat → State → State) : s.issue c sel checks hold go = s := by simp [State.issue, h]

/-- A fetch that fails is refused with its status. -/
theorem issue_unfetched {e : Nat} (h : s.issuing c = true) (hf : s.fetch c = .error e) (go : Nat → State → State) :
    s.issue c sel checks hold go = s.refuse c e := by simp [State.issue, h, hf]

/-- The first condition that holds refuses the instruction. -/
theorem issue_refused {e : Nat} (h : s.issuing c = true) (hf : s.fetch c = .ok w) (hd : insDefined w = true) (hs : sel w = true)
    (hc : firstOf ((fGuard w == 3, 0x0100) :: checks (s.core c) w) = some e) (go : Nat → State → State) :
    s.issue c sel checks hold go = s.refuse c e := by simp [State.issue, h, hf, hd, hs, hc]

/-- A guard that holds skips the instruction, which completes at once. -/
theorem issue_skipped (h : s.issuing c = true) (hf : s.fetch c = .ok w) (hd : insDefined w = true) (hs : sel w = true)
    (hc : firstOf ((fGuard w == 3, 0x0100) :: checks (s.core c) w) = none) (hg : guardSkips (s.core c) w = true) (go : Nat → State → State) :
    s.issue c sel checks hold go = (s.advance c).signal c (fSig w) (s.core c).pc := by simp [State.issue, h, hf, hd, hs, hc, hg]

@[simp] theorem advance_pending : (s.advance c).pending = s.pending := rfl
@[simp] theorem advance_mem : (s.advance c).mem = s.mem := rfl
@[simp] theorem advance_core : (s.advance c).core c = { s.core c with pc := (s.core c).pc + 1, state := 1 } := by simp [State.advance]
theorem advance_core_other {d : Nat} (h : d ≠ c) : (s.advance c).core d = s.core d := by simp [State.advance, State.updCore_core_other _ _ _ h]
@[simp] theorem advance_mac (k : Nat) : (s.advance c).mac k = s.mac k := rfl
@[simp] theorem advance_part (p : Nat) : (s.advance c).part p = s.part p := rfl

end Sys2Proof.Laws
end

