-- ==== Sys2Proof/Laws/Memory.lean ====
section
/-! SUPPORT. The canonical form of memory and every memory operation keeps it: addresses strictly rising, no zero byte listed. -/

namespace Sys2Proof.Laws

open Sys2Proof.Machine

theorem rising_iff (xs : List Nat) : rising xs = true ↔ xs.Pairwise (· < ·) := by
  induction xs with
  | nil => simp [rising]
  | cons a rest ih =>
    cases rest with
    | nil => simp [rising]
    | cons b rest =>
      simp only [rising, Bool.and_eq_true, decide_eq_true_eq, ih, List.pairwise_cons]
      constructor
      · rintro ⟨hab, hb, hr⟩
        exact ⟨fun x hx => by
          rcases List.mem_cons.1 hx with rfl | hx
          · exact hab
          · exact Nat.lt_trans hab (hb x hx), hb, hr⟩
      · rintro ⟨ha, hr⟩
        exact ⟨ha b (List.mem_cons_self ..), hr⟩

/-- The canonical form as one condition on the list of cells. -/
def Canonical (cells : List Host.Cell) : Prop := cells.Pairwise (fun x y => x.1 < y.1) ∧ ∀ c ∈ cells, c.2 ≠ 0

theorem wf_iff (m : Memory) : m.wf = true ↔ Canonical m.cells := by
  simp [Memory.wf, Canonical, rising_iff, List.pairwise_map]

theorem cellsOf_bounds (bs : List Byte) : ∀ (a : Nat), ∀ c ∈ cellsOf a bs, a ≤ c.1 ∧ c.1 < a + bs.length := by
  induction bs with
  | nil => intro a c h; simp [cellsOf] at h
  | cons b bs ih =>
    intro a c h
    unfold cellsOf at h
    have up : ∀ c ∈ cellsOf (a + 1) bs, a ≤ c.1 ∧ c.1 < a + (b :: bs).length := by
      intro c hc; have := ih (a + 1) c hc; simp only [List.length_cons]; omega
    split at h
    · exact up c h
    · rcases List.mem_cons.1 h with rfl | h
      · simp
      · exact up c h

theorem cellsOf_canonical (bs : List Byte) : ∀ a : Nat, Canonical (cellsOf a bs) := by
  induction bs with
  | nil => intro a; simp [cellsOf, Canonical]
  | cons b bs ih =>
    intro a
    unfold cellsOf
    split
    · exact ih (a + 1)
    · rename_i hb
      obtain ⟨hp, hz⟩ := ih (a + 1)
      refine ⟨List.pairwise_cons.2 ⟨fun c hc => ?_, hp⟩, fun c hc => ?_⟩
      · have := (cellsOf_bounds bs (a + 1) c hc).1; simp only; omega
      · rcases List.mem_cons.1 hc with rfl | hc
        · exact hb
        · exact hz c hc

/-- Replacing a range by canonical cells of that range keeps the form. -/
theorem splice_canonical {cells mid : List Host.Cell} {a n : Nat} (h : Canonical cells) (hm : Canonical mid)
    (hb : ∀ c ∈ mid, a ≤ c.1 ∧ c.1 < a + n) : Canonical (spliceCells cells a n mid) := by
  obtain ⟨hp, hz⟩ := h
  obtain ⟨hmp, hmz⟩ := hm
  refine ⟨?_, ?_⟩
  · unfold spliceCells
    rw [List.append_assoc, List.pairwise_append, List.pairwise_append]
    refine ⟨hp.filter _, ⟨hmp, hp.filter _, ?_⟩, ?_⟩
    · intro x hx y hy
      have := hb x hx
      simp only [List.mem_filter, decide_eq_true_eq] at hy
      omega
    · intro x hx y hy
      simp only [List.mem_filter, decide_eq_true_eq] at hx
      rcases List.mem_append.1 hy with hy | hy
      · have := hb y hy; omega
      · simp only [List.mem_filter, decide_eq_true_eq] at hy; omega
  · intro c hc
    simp only [spliceCells, List.mem_append, List.mem_filter] at hc
    rcases hc with (hc | hc) | hc
    · exact hz c hc.1
    · exact hmz c hc
    · exact hz c hc.1

theorem write_wf {m : Memory} (h : m.wf = true) (a : Nat) (bs : List Byte) : (m.write a bs).wf = true := by
  rw [wf_iff] at *
  exact splice_canonical h (cellsOf_canonical bs a) (cellsOf_bounds bs a)

theorem clear_wf {m : Memory} (h : m.wf = true) (a n : Nat) : (m.clear a n).wf = true := by
  rw [wf_iff] at *
  exact splice_canonical h (by simp [Canonical]) (by simp)

@[simp] theorem spoil_wf (m : Memory) (a : Nat) : (m.spoil a).wf = m.wf := rfl

theorem writeExtents_wf {ext : List (Nat × Nat)} : ∀ {m m' : Memory} {bs : List Byte}, m.wf = true → writeExtents m ext bs = .ok m' → m'.wf = true := by
  induction ext with
  | nil => intro m m' bs h e; simp only [writeExtents, Except.ok.injEq] at e; subst e; exact h
  | cons x rest ih =>
    intro m m' bs h e
    obtain ⟨a, n⟩ := x
    unfold writeExtents at e
    split at e
    · cases e
    · exact ih (write_wf h _ _) e

theorem reset_mem_wf : State.reset.mem.wf = true := by decide

end Sys2Proof.Laws
end

