-- ==== Sys2Proof/Laws/Table.lean ====
section
/-! SUPPORT. What is read from a table after every listed entry is rewritten, and after keys are dropped. -/

namespace Sys2Proof.Laws

open Sys2Proof.Machine

variable {α : Type}

/-- A rewritten table shows the rewritten entry where one was listed, the default elsewhere. -/
theorem mget_mmap [DecidableEq α] (m : Map α) (d : α) (f : Nat → α → α) (k : Nat) :
    mget (mmap m d f) d k = if mhas m k then f k (mget m d k) else d := by
  induction m with
  | nil => rfl
  | cons e rest ih =>
    obtain ⟨j, v⟩ := e
    change mget (mset (mmap rest d f) d j (f j v)) d k = _
    by_cases hj : j = k
    · subst hj; simp [mhas, mget]
    · rw [mget_mset_other _ _ _ (Ne.symm hj), ih]
      have hb : mhas ((j, v) :: rest) k = mhas rest k := by
        cases hjk : j == k with
        | true => exact absurd (by simpa using hjk) hj
        | false => simp only [mhas, List.any_cons, hjk, Bool.false_or]
      simp only [hb, mget, if_neg hj]

/-- Where the rewriting keeps the default, a rewritten table is read as the rewriting of what was read. -/
theorem mget_mmap_of_fixed [DecidableEq α] (m : Map α) (d : α) (f : Nat → α → α) (k : Nat) (h : f k d = d) :
    mget (mmap m d f) d k = f k (mget m d k) := by
  rw [mget_mmap]
  split
  · rfl
  · rename_i hn
    rw [mget_absent m d k, h]
    intro e he hk
    apply hn
    simp only [mhas, List.any_eq_true, beq_iff_eq]
    exact ⟨e, he, hk⟩

/-- A dropped key reads the default; any other key reads as before. -/
theorem mget_mdrop (m : Map α) (d : α) (f : Nat → Bool) (k : Nat) : mget (mdrop m f) d k = if f k then d else mget m d k := by
  unfold mdrop
  split
  · rename_i h; exact mget_filter_none m d k _ (by simp [h])
  · rename_i h; exact mget_filter m d k _ (by simp [h])

end Sys2Proof.Laws
end

