-- ==== Sys2Proof/Tests/Slice0.lean ====
section
/-! SUPPORT. Tests: one state and operands that meet the premises of each statement (`witness_…`), commands with results worked out from the spec
by hand (`test_…`), and ill-formed commands that each check refuses (`smoke_…`). -/

namespace Sys2Proof.Tests

set_option Elab.async false

open Sys2Proof.Machine

/-! ### Helpers: one job of one core, whose instruction stands in package DRAM -/

/-- A field's value at its lowest bit. -/
def bits (v lo : Nat) : Nat := v * 2 ^ lo

/-- A DRAM window of one 64 KiB page at tower 0. -/
def tWin : Window := { Window.reset with isOpen := true, size := 0x10000, psz := 0, rights := 31, pages := [0] }

/-- Handles 1 to 4 of the kinds 0 to 3. -/
def tHandles : Map Handle := [(1, ⟨0x100, 0, 64, true, 0⟩), (2, ⟨0x200, 0, 64, true, 1⟩), (3, ⟨0x40, 0, 64, true, 2⟩), (4, ⟨0x80, 0, 64, true, 3⟩)]

def tCore : Core :=
  { Core.reset with part := some 0, inJob := true, state := 1, segCount := 4,
                    cfg := { handles := tHandles, rtlen0 := 0, rtlen1 := 0, macroMap := List.range 16 } }

def tJob : Job := { Job.reset with state := 2, cores := [0], ran := true, tag := 5 }

def tPart : Partition := { Partition.reset with state := 2, windows := [(0, tWin)], job := some tJob }

/-- Core 0, rewritten by `f`, at an instruction `w`. -/
def tS (w : Nat) (f : Core → Core) : State :=
  { State.reset with cores := [(0, f tCore)], parts := [(0, tPart)], mem := { Memory.reset with cells := cellsOf 0 (leBytes 16 w) },
                     hub := { Hub.reset with phase := .running, ready := true } }

/-- Where nothing befalls a command, the state that its statement speaks of is the state that it runs on: the witnesses below meet the premises on
`s.suffer Harm.none`. -/
theorem suffer_none (s : State) (h : s.harm = Harm.none) : s.suffer Harm.none = s := by cases s; simp_all [State.suffer, Harm.none]

/-- Issue's premises as one test. -/
def issuesBool (s : State) (c w : Nat) (sel : Nat → Bool) (checks : Core → Nat → List (Bool × Nat)) (hold : Nat → State → Option Nat) : Bool :=
  coreOk c && s.issuing c && (match s.fetch c with | .ok v => v == w | .error _ => false) && insDefined w && sel w &&
    (firstOf ((fGuard w == 3, 0x0100) :: checks (s.core c) w) == none) && !guardSkips (s.core c) w && (hold w s == none)

theorem issues_of {s : State} {c w : Nat} {sel : Nat → Bool} {checks : Core → Nat → List (Bool × Nat)} {hold : Nat → State → Option Nat}
    (h : issuesBool s c w sel checks hold = true) : Issues s c w sel checks hold := by
  simp only [issuesBool, Bool.and_eq_true, beq_iff_eq, Bool.not_eq_true'] at h
  obtain ⟨⟨⟨⟨⟨⟨⟨h1, h2⟩, h3⟩, h4⟩, h5⟩, h6⟩, h7⟩, h8⟩ := h
  refine ⟨h1, h2, ?_, h4, h5, h6, h7, h8⟩
  cases hf : s.fetch c with
  | error e => simp [hf] at h3
  | ok v => simp [hf] at h3; rw [h3]

/-- A scalar instruction (Table 4.16): opcode 0x60, function, RD, RA, RB, handle, immediate. -/
def scl (f rd ra rb h imm : Nat) : Nat := bits 0x60 120 + bits f 93 + bits rd 88 + bits ra 83 + bits rb 78 + bits h 72 + bits imm 32

/-- What is observed after one command, if it answers a next state. -/
def after {α : Type} (i : Instr) (s : State) (f : State → α) : Option α :=
  match exec i s with
  | .next t => some (f t)
  | _ => none

/-- Decides `x = .ok a`. -/
def okIs {ε α : Type} [DecidableEq α] (x : Except ε α) (a : α) : Bool := match x with | .ok b => decide (b = a) | .error _ => false

theorem ok_of {ε α : Type} [DecidableEq α] {x : Except ε α} {a : α} (h : okIs x a = true) : x = .ok a := by
  cases x with
  | error e => simp [okIs] at h
  | ok b => simp [okIs] at h; rw [h]

/-- The result of a computation that succeeds. -/
def okOr {ε α : Type} (x : Except ε α) (a : α) : α := match x with | .ok b => b | .error _ => a
def isOk {ε α : Type} (x : Except ε α) : Bool := match x with | .ok _ => true | .error _ => false

theorem ok_or {ε α : Type} {x : Except ε α} {a : α} (h : isOk x = true) : x = .ok (okOr x a) := by
  cases x with
  | error e => simp [isOk] at h
  | ok b => rfl

/-- Decides `x = .error e`. -/
def errIs {α : Type} (x : Except Nat α) (e : Nat) : Bool := match x with | .ok _ => false | .error d => d == e

theorem err_of {α : Type} {x : Except Nat α} {e : Nat} (h : errIs x e = true) : x = .error e := by
  cases x with
  | error d => simp [errIs] at h; rw [h]
  | ok b => simp [errIs] at h

/-! ### The scalar unit -/

/-- s3 holds 7 and s4 −1. -/
def s3 (w : Nat) : State := tS w fun k => { k with regs := [(3, 7), (4, 0xFFFFFFFF)] }

theorem witness_ScalarCompletes : Issues (s3 (scl 3 5 3 4 0 1)) 0 (scl 3 5 3 4 0 1) (sclSel 0x03) sclChecks freely := issues_of (by decide +kernel)

/-- A residue that disagrees (R429). -/
def tErr : Harm := { Harm.none with err := some (0, 1) }
theorem witness_ScalarCompletes_residue : let w := scl 3 5 3 4 0 1; let u := (s3 w).suffer tErr
    Issues u 0 w (sclSel 0x03) sclChecks freely ∧ tErr.err = some (0, 1) ∧ (1 : Int) % 7 ≠ 0 ∧ (u.core 0).part = some 0 :=
  ⟨issues_of (by decide +kernel), rfl, by decide, by decide +kernel⟩
theorem test_scalar_residue : after (.sclAdd 0 tErr) (s3 (scl 3 5 3 4 0 1)) (fun t => ((t.part 0).faults.map fun f => (f.status, f.unit), (t.core 0).reg 5)) =
    some ([(0x0303, 1)], 0) := by decide +kernel

/-- −1 + 1 wraps, so s5 takes s3 + (s4 + 1) = 7 (R145). -/
theorem test_add_wraps : after (.sclAdd 0 Harm.none) (s3 (scl 3 5 3 4 0 1)) (fun t => ((t.core 0).reg 5, (t.core 0).pc)) = some (7, 1) := by decide +kernel
/-- A shift takes its count modulo 32: −1 >> (−1 mod 32) arithmetically stays −1 (Table 4.17). -/
theorem test_sra : after (.sclSra 0 Harm.none) (s3 (scl 0x0A 5 4 4 0 0)) (fun t => (t.core 0).reg 5) = some 0xFFFFFFFF := by decide +kernel
/-- −1 is less than 7 signed, not unsigned. -/
theorem test_slt : after (.sclSlt 0 Harm.none) (s3 (scl 0x0C 5 4 3 0 0)) (fun t => (t.core 0).reg 5) = some 1 := by decide +kernel
theorem test_sltu : after (.sclSltu 0 Harm.none) (s3 (scl 0x0D 5 4 3 0 0)) (fun t => (t.core 0).reg 5) = some 0 := by decide +kernel
/-- A write to s0 is discarded (R131). -/
theorem test_write_s0 : after (.sclLi 0 Harm.none) (s3 (scl 2 0 0 0 0 9)) (fun t => ((t.core 0).reg 0, (t.core 0).pc)) = some (0, 1) := by decide +kernel
/-- A reserved bit refuses with 0x0100 (R148). -/
theorem test_reserved_bit : after (.sclLi 0 Harm.none) (s3 (scl 2 5 0 0 0 9 + 1)) (fun t => ((t.core 0).state, (t.core 0).faultStatus)) = some (6, 0x0100) := by
  decide +kernel
/-- A function outside Table 4.17 is refused with 0x0101. -/
theorem test_undefined_function : after (.sclNop 0 Harm.none) (s3 (scl 0x0E 5 0 0 0 9)) (fun t => (t.core 0).faultStatus) = some 0x0101 := by decide +kernel

theorem witness_ScalarCompletes_branch : Issues (s3 (scl 0x18 0 3 4 0 2)) 0 (scl 0x18 0 3 4 0 2) (sclSel 0x18) branchChecks freely :=
  issues_of (by decide +kernel)
theorem witness_ScalarCompletes_outside : let w := scl 0x19 0 3 4 0 4; let s := s3 w
    coreOk 0 = true ∧ s.issuing 0 = true ∧ s.fetch 0 = .ok w ∧ sclSel 0x19 w = true ∧ insDefined w = true ∧ fGuard w ≠ 3 ∧
      sclReserved w = false ∧ fH w = 0 ∧ (s.core 0).segCount ≤ fImm w % 2 ^ 16 ∧ (s.core 0).faultValid = false :=
  ⟨by decide +kernel, by decide +kernel, rfl, by decide +kernel⟩

/-- −1 is not below 7 unsigned: the branch falls through; signed it is taken. -/
theorem test_bltu : after (.sclBltu 0 Harm.none) (s3 (scl 0x1C 0 4 3 0 2)) (fun t => (t.core 0).pc) = some 1 := by decide +kernel
theorem test_blt : after (.sclBlt 0 Harm.none) (s3 (scl 0x1A 0 4 3 0 2)) (fun t => (t.core 0).pc) = some 2 := by decide +kernel
/-- A branch not taken whose target is the segment's end is refused all the same (R145). -/
theorem test_branch_outside : after (.sclBeq 0 Harm.none) (s3 (scl 0x18 0 3 4 0 4)) (fun t => ((t.core 0).faultStatus, (t.core 0).pc)) = some (0x0106, 0) := by
  decide +kernel

/-- Token counter 2 holds 3. -/
def sTok (w : Nat) : State := tS w fun k => { k with tokens := [(2, 3)] }

theorem witness_WaitsComplete_nop : Issues (sTok (scl 0 0 0 0 0 0)) 0 (scl 0 0 0 0 0 0) (sclSel 0x00) sclChecks freely := issues_of (by decide +kernel)
theorem witness_WaitsComplete_wait : let w := scl 0x20 0 0 0 0 (3 * 2 ^ 16 + 2); let s := sTok w
    Issues s 0 w (sclSel 0x20) sclChecks freely ∧ fImm w % 16 ≠ 0 ∧ fImm w / 2 ^ 16 ≤ mget (s.core 0).tokens 0 (fImm w % 16) :=
  ⟨issues_of (by decide +kernel), by decide +kernel⟩
theorem witness_WaitsComplete_holds : let w := scl 0x20 0 0 0 0 (4 * 2 ^ 16 + 2); let s := sTok w
    Issues s 0 w (sclSel 0x20) sclChecks freely ∧ fImm w % 16 ≠ 0 ∧ mget (s.core 0).tokens 0 (fImm w % 16) < fImm w / 2 ^ 16 :=
  ⟨issues_of (by decide +kernel), by decide +kernel⟩
theorem witness_WaitsComplete_waitb : Issues (sTok (scl 0x21 0 0 0 0 0xFFFF)) 0 (scl 0x21 0 0 0 0 0xFFFF) (sclSel 0x21) sclChecks freely :=
  issues_of (by decide +kernel)
theorem witness_WaitsComplete_fence : Issues (sTok (scl 0x22 0 0 0 0 0)) 0 (scl 0x22 0 0 0 0 0) (sclSel 0x22) sclChecks freely :=
  issues_of (by decide +kernel)
theorem witness_WaitsComplete_end : let w := scl 1 0 0 0 0 0; let s := sTok w
    Issues s 0 w (sclSel 0x01) sclChecks freely ∧ (s.core 0).part = some 0 ∧ (s.gathering 0 (s.core 0).dieLog).2 = [] ∧ (s.gathering 0 16).2 = [] :=
  ⟨issues_of (by decide +kernel), by decide +kernel⟩

/-- A wait takes what it waited for; a wait on counter 0 is refused. -/
theorem test_wait_takes : after (.sclWait 0 Harm.none) (sTok (scl 0x20 0 0 0 0 (3 * 2 ^ 16 + 2))) (fun t => ((t.core 0).pc, mget (t.core 0).tokens 0 2)) = some (1, 0) := by
  decide +kernel
theorem test_wait_zero : after (.sclWait 0 Harm.none) (sTok (scl 0x20 0 0 0 0 (2 ^ 16))) (fun t => (t.core 0).faultStatus) = some 0x0100 := by decide +kernel

/-- Partial-sum word 0x204 holds 0x01020304. -/
def sMem (w : Nat) : State :=
  let s := tS w fun k => { k with regs := [(3, 4), (6, 0xA1B2C3D4)] }
  s.setMem (s.mem.write (coreBase 0 + 0x40204) [4, 3, 2, 1])

theorem witness_WaitsComplete_ldn : let w := scl 0x10 5 3 0 2 0; let s := sMem w; let o := narrowOperand (s.core 0) w
    Issues s 0 w (sclSel 0x10) narrowChecks freely ∧
      readExtents s.mem (localExtents (localMem 0 o.h.kind).1 (localMem 0 o.h.kind).2 2 (o.h.base + o.off) 4) = .ok [4, 3, 2, 1] :=
  ⟨issues_of (by decide +kernel), rfl⟩
theorem witness_WaitsComplete_stn : let w := scl 0x11 0 3 6 2 0; let s := sMem w
    Issues s 0 w (sclSel 0x11) narrowChecks freely ∧ s.extents 0 (narrowOperand (s.core 0) w) 4 rWR = .ok [(coreBase 0 + 0x40204, 4)] ∧
      Writable s.mem [(coreBase 0 + 0x40204, 4)] :=
  ⟨issues_of (by decide +kernel), rfl, by decide +kernel, by decide +kernel⟩
theorem witness_WaitsComplete_rdreg : let w := scl 0x12 5 0 0 0 0x4014; let s := sMem w
    Issues s 0 w (sclSel 0x12) sclChecks freely ∧ coreRegOk (fImm w) = true ∧ macroAtReg (s.advance 0) 0 (fImm w) = some (0, 0x014) :=
  ⟨issues_of (by decide +kernel), by decide +kernel⟩
theorem witness_WaitsComplete_rdreg_core : let w := scl 0x12 5 0 0 0 0x0; let s := sMem w
    Issues s 0 w (sclSel 0x12) sclChecks freely ∧ coreRegOk (fImm w) = true ∧ macroAtReg (s.advance 0) 0 (fImm w) = none :=
  ⟨issues_of (by decide +kernel), by decide +kernel⟩

theorem witness_WaitsComplete_rdreg_none : let w := scl 0x12 5 0 0 0 0xFFFC; let s := sMem w
    Issues s 0 w (sclSel 0x12) sclChecks freely ∧ coreRegOk (fImm w) = false := ⟨issues_of (by decide +kernel), by decide +kernel⟩

/-- What is refused, or skipped, in any command that issues: a fetch past the segment, an undefined function, a reserved bit, a guard on a length of 0. -/
theorem witness_IssueRules_fetch : let s := s3 (scl 3 5 3 4 0 1) |>.updCore 0 fun k => { k with pc := 4 }
    coreOk 0 = true ∧ s.issuing 0 = true ∧ (s.core 0).part = some 0 ∧ s.fetch 0 = .error 0x0106 :=
  ⟨by decide +kernel, by decide +kernel, by decide +kernel, rfl⟩
theorem witness_IssueRules_undefined : let w := scl 0x0E 5 0 0 0 9; let s := s3 w
    coreOk 0 = true ∧ s.issuing 0 = true ∧ (s.core 0).part = some 0 ∧ insDefined w = false ∧ s.fetch 0 = .ok w :=
  ⟨by decide +kernel, by decide +kernel, by decide +kernel, by decide +kernel, rfl⟩
theorem witness_IssueRules_refused : let w := scl 2 5 0 0 0 9 + 1; let s := s3 w
    coreOk 0 = true ∧ s.issuing 0 = true ∧ (s.core 0).part = some 0 ∧ insDefined w = true ∧ sclSel 2 w = true ∧
      firstOf ((fGuard w == 3, 0x0100) :: sclChecks (s.core 0) w) = some 0x0100 ∧ s.fetch 0 = .ok w :=
  ⟨by decide +kernel, by decide +kernel, by decide +kernel, by decide +kernel, by decide +kernel, by decide +kernel, rfl⟩
theorem witness_IssueRules_skipped : let w := scl 2 5 0 0 0 9 + bits 1 114; let s := s3 w
    coreOk 0 = true ∧ s.issuing 0 = true ∧ (s.core 0).part = some 0 ∧ insDefined w = true ∧ sclSel 2 w = true ∧
      firstOf ((fGuard w == 3, 0x0100) :: sclChecks (s.core 0) w) = none ∧ guardSkips (s.core 0) w = true ∧ (s.core 0).maySignal (fSig w) ∧
      s.fetch 0 = .ok w :=
  ⟨by decide +kernel, by decide +kernel, by decide +kernel, by decide +kernel, by decide +kernel, by decide +kernel, by decide +kernel, .inl (by decide +kernel), rfl⟩

/-- Little-endian, both ways (R6). -/
theorem test_ldn : after (.sclLdn 0 Harm.none) (sMem (scl 0x10 5 3 0 2 0)) (fun t => (t.core 0).reg 5) = some 0x01020304 := by decide +kernel
theorem test_stn : after (.sclStn 0 Harm.none) (sMem (scl 0x11 0 3 6 2 0)) (fun t => t.mem.readN (coreBase 0 + 0x40204) 4) = some [0xD4, 0xC3, 0xB2, 0xA1] := by
  decide +kernel
/-- The narrow view reaches no die store (R145). -/
theorem test_ldn_kind : after (.sclLdn 0 Harm.none) (sMem (scl 0x10 5 3 0 4 0)) (fun t => (t.core 0).faultStatus) = some 0x0104 := by decide +kernel

/-! ### Barriers, and what the sequencer hands on -/

/-- Cores 0 and 1 of one job; core 1 as `g` makes it; the barriers that gather. -/
def sBar (w : Nat) (f g : Core → Core) (gather : Map (Nat × List Nat)) : State :=
  let s := tS w f
  { s with cores := [(0, f tCore), (1, g { tCore with x := 1 })],
           parts := [(0, { tPart with job := some { tJob with cores := [0, 1] }, barriers := gather })] }

/-- `BAR` of identifier 2 and scope 0 (Table 4.13). -/
def barWord : Nat := bits 0x50 120 + bits 2 95
def barSel (w : Nat) : Bool := fOpcode w == 0x50

theorem witness_BarrierCompletes_arrival : let s := sBar barWord id id []
    Issues s 0 barWord (fun w => fOpcode w == 0x50) barChecks (untilQuiet 0) ∧ (s.core 0).part = some 0 ∧ (s.core 0).dieLog < 16 ∧
      s.barrierClash 0 0 (field barWord 98 98) (field barWord 97 95) = false ∧
      ∃ d ∈ (s.advance 0).participants 0 0 0, d ∉ (s.gathering 0 0).2 ++ [0] ∧ d ≠ 0 ∧ (s.core d).ended = false :=
  ⟨issues_of (by decide +kernel), by decide +kernel⟩
theorem witness_BarrierCompletes_release : let s := sBar barWord id (fun k => { k with state := 5, pc := 1 }) [(0, 2, [1])]
    Issues s 0 barWord (fun w => fOpcode w == 0x50) barChecks (untilQuiet 0) ∧ (s.core 0).part = some 0 ∧ (s.core 0).dieLog < 16 ∧
      s.barrierClash 0 0 (field barWord 98 98) (field barWord 97 95) = false ∧
      ∀ d ∈ (s.advance 0).participants 0 0 0, d ∈ (s.gathering 0 0).2 ++ [0] :=
  ⟨issues_of (by decide +kernel), by decide +kernel⟩
theorem witness_BarrierCompletes_waits : let s := sBar barWord (fun k => { k with sktOut := 1 }) id []
    (s.core 0).part = some 0 ∧ (s.part 0).job = some { tJob with cores := [0, 1] } ∧ (s.core 0).dieLog < 16 ∧
      (∀ d ∈ (s.gathering 0 0).2, (s.core d).part = some 0) ∧
      Issues s 0 barWord (fun w => fOpcode w == 0x50) barChecks freely ∧ s.quiet 0 = false :=
  ⟨by decide +kernel, by decide +kernel, by decide +kernel, by decide +kernel, issues_of (by decide +kernel), by decide +kernel⟩
theorem witness_BarrierCompletes_dead : let s := sBar barWord id (fun k => { k with ended := true, state := 0 }) []
    (s.core 0).part = some 0 ∧ (s.core 0).dieLog < 16 ∧ Issues s 0 barWord (fun w => fOpcode w == 0x50) barChecks (untilQuiet 0) ∧
      s.barrierClash 0 0 (field barWord 98 98) (field barWord 97 95) = false ∧
      (∀ d ∈ s.participants 0 0 0, d ∈ (s.gathering 0 0).2 ∨ d = 0 ∨ (s.core d).ended = true) ∧
      ∃ d ∈ s.participants 0 0 0, d ∉ (s.gathering 0 0).2 ∧ d ≠ 0 :=
  ⟨by decide +kernel, by decide +kernel, issues_of (by decide +kernel), by decide +kernel⟩
theorem witness_BarrierCompletes_end : let w := scl 1 0 0 0 0 0; let s := sBar w id (fun k => { k with state := 5, pc := 1 }) [(0, 2, [1])]
    (s.core 0).part = some 0 ∧ (s.core 0).dieLog < 16 ∧ (∀ d ∈ (s.gathering 0 0).2, (s.core d).part = some 0) ∧
      Issues s 0 w (sclSel 0x01) sclChecks freely ∧ 0 ∉ (s.gathering 0 0).2 ∧ (s.gathering 0 0).2 ≠ [] ∧ (s.gathering 0 16).2 = [] ∧
      0 ∈ s.participants 0 0 0 ∧ ∀ d ∈ s.participants 0 0 0, d ∈ (s.gathering 0 0).2 ∨ d = 0 ∨ (s.core d).ended = true :=
  ⟨by decide +kernel, by decide +kernel, by decide +kernel, issues_of (by decide +kernel), by decide +kernel⟩
theorem witness_BarrierCompletes_clash : let s := sBar barWord id (fun k => { k with state := 5, pc := 1 }) [(0, 3, [1])]
    Issues s 0 barWord (fun w => fOpcode w == 0x50) barChecks (untilQuiet 0) ∧ (s.core 0).part = some 0 ∧
      s.barrierClash 0 (s.core 0).dieLog (field barWord 98 98) (field barWord 97 95) = true :=
  ⟨issues_of (by decide +kernel), by decide +kernel⟩

/-- The last arrival releases both cores (R140). -/
theorem test_bar_release : after (.bar 0 Harm.none) (sBar barWord id (fun k => { k with state := 5, pc := 1 }) [(0, 2, [1])])
    (fun t => ((t.core 0).state, (t.core 1).state, (t.part 0).barriers)) = some (1, 1, []) := by decide +kernel
theorem test_bar_dead : after (.bar 0 Harm.none) (sBar barWord id (fun k => { k with ended := true, state := 0 }) [])
    (fun t => (t.part 0).faults.map FaultRec.status) = some [0x0108] := by decide +kernel
theorem test_end_kills_barrier : after (.sclEnd 0 Harm.none) (sBar (scl 1 0 0 0 0 0) id (fun k => { k with state := 5, pc := 1 }) [(0, 2, [1])])
    (fun t => (t.part 0).faults.map FaultRec.status) = some [0x0108] := by decide +kernel

/-- `DMA` of two descriptors at handle 1, offset 0 (Table 4.13). -/
def dmaWord (n : Nat) : Nat := bits 0x30 120 + bits 1 93 + bits n 67

theorem witness_HandedOnCompletes_dma : let s := tS (dmaWord 2) id
    (s.core 0).dmaQ.length < 8 ∧ Issues s 0 (dmaWord 2) (fun w => fOpcode w == 0x30) dmaChecks freely ∧ field (dmaWord 2) 74 67 ≠ 0 :=
  ⟨by decide +kernel, issues_of (by decide +kernel), by decide +kernel⟩
theorem witness_HandedOnCompletes_none : let s := tS (dmaWord 0) id
    (s.core 0).dmaQ.length < 8 ∧ Issues s 0 (dmaWord 0) (fun w => fOpcode w == 0x30) dmaChecks freely ∧ field (dmaWord 0) 74 67 = 0 ∧
      (s.core 0).maySignal (fSig (dmaWord 0)) :=
  ⟨by decide +kernel, issues_of (by decide +kernel), by decide +kernel, .inl (by decide +kernel)⟩
theorem witness_HandedOnCompletes_full : let s := tS (dmaWord 2) fun k => { k with dmaQ := List.replicate 8 ⟨⟨⟨0x100, 0, 64, true, 0⟩, 0⟩, 1, 0, 0, 0, 0⟩ }
    8 ≤ (s.core 0).dmaQ.length ∧ Issues s 0 (dmaWord 2) (fun w => fOpcode w == 0x30) dmaChecks freely :=
  ⟨by decide +kernel, issues_of (by decide +kernel)⟩
theorem test_dma_full : after (.dma 0 Harm.none) (tS (dmaWord 2) fun k => { k with dmaQ := List.replicate 8 ⟨⟨⟨0x100, 0, 64, true, 0⟩, 0⟩, 1, 0, 0, 0, 0⟩ })
    (fun t => ((t.core 0).pc, (t.core 0).dmaQ.length)) = some (0, 8) := by decide +kernel

/-- A tile of `n` BF16 products, operands at the window of handle 5 (Table 7.4). -/
def tileBytes (n : Nat) : List Byte :=
  [0, 0] ++ leBytes 2 1 ++ leBytes 2 1 ++ leBytes 2 0 ++ leBytes 4 n ++ [5, 5, 0, 0] ++ List.replicate 48 0

/-- A core with `SKT` of descriptor `b` in activation memory, engine 0 of the partition bound to engine 3, whose queue is `q`. -/
def sTile (b : List Byte) (w : Nat) (q : List Tile) (f : Core → Core) : State :=
  let s := tS w fun k => f { k with cfg := { k.cfg with handles := tHandles ++ [(5, ⟨0x100, 0, 64, true, 4⟩)] } }
  { s with skinks := [(3, { Skink.reset with enable := true, part := 0, logical := 0, queue := q })], dict := [(dkey 0x2000 0 3, [1])],
           mem := s.mem.write (coreBase 0 + 0x100) b }

/-- `SKT` to engine 0, descriptor at handle 1 (Table 7.3). -/
def sktWord : Nat := bits 0x20 120 + bits 1 88

def tTile (n : Nat) : Tile := tileOf 0 0 (sTile (tileBytes n) sktWord [] id |>.core 0) (tileBytes n) 0 0
def tDesc : Operand := ⟨⟨0x100, 0, 64, true, 0⟩, 0⟩

/-- An `SKT` that issues, its descriptor read (both parts of what its statement assumes of it). -/
def skts (s : State) (b : List Byte) : Bool :=
  issuesBool s 0 sktWord (fun w => fOpcode w == 0x20) sktChecks freely && (s.core 0).part == some 0 && (s.core 0).sktQ == [] &&
    (match s.readOp 0 tDesc 64 with | .ok (x, t) => x == b && t == s | .error _ => false)

theorem skts_of {s : State} {b : List Byte} (h : skts s b = true) :
    Issues s 0 sktWord (fun w => fOpcode w == 0x20) sktChecks freely ∧ (s.core 0).part = some 0 ∧ (s.core 0).sktQ = [] ∧
      s.readOp 0 tDesc 64 = .ok (b, s) := by
  simp only [skts, Bool.and_eq_true, beq_iff_eq] at h
  obtain ⟨⟨⟨h1, h2⟩, h3⟩, h4⟩ := h
  refine ⟨issues_of h1, h2, h3, ?_⟩
  cases hr : s.readOp 0 tDesc 64 with
  | error e => simp [hr] at h4
  | ok r => simp [hr] at h4; rw [← h4.1, ← h4.2]

def tChecks (s : State) (b : List Byte) : Option Nat := firstOf (tileChecks s (s.core 0) 0 (field sktWord 98 94) b (tileOf 0 0 (s.core 0) b 0 0))

theorem witness_HandedOnCompletes_tile : let s := sTile (tileBytes 1) sktWord [] id
    (Issues s 0 sktWord (fun w => fOpcode w == 0x20) sktChecks freely ∧ (s.core 0).part = some 0 ∧ (s.core 0).sktQ = [] ∧
        s.readOp 0 tDesc 64 = .ok (tileBytes 1, s)) ∧
      tChecks s (tileBytes 1) = none ∧ (tTile 1).isEmpty = false ∧ s.boundSkink 0 (field sktWord 98 94) = some 3 ∧ (s.skink 3).queue.length < 16 :=
  ⟨skts_of (by decide +kernel), by decide +kernel⟩
theorem witness_HandedOnCompletes_held : let s := sTile (tileBytes 1) sktWord (List.replicate 16 (tTile 1)) id
    (Issues s 0 sktWord (fun w => fOpcode w == 0x20) sktChecks freely ∧ (s.core 0).part = some 0 ∧ (s.core 0).sktQ = [] ∧
        s.readOp 0 tDesc 64 = .ok (tileBytes 1, s)) ∧
      tChecks s (tileBytes 1) = none ∧ (tTile 1).isEmpty = false ∧ s.boundSkink 0 (field sktWord 98 94) = some 3 ∧ 16 ≤ (s.skink 3).queue.length :=
  ⟨skts_of (by decide +kernel), by decide +kernel⟩
theorem witness_HandedOnCompletes_empty : let s := sTile (tileBytes 0) sktWord [] id
    (Issues s 0 sktWord (fun w => fOpcode w == 0x20) sktChecks freely ∧ (s.core 0).part = some 0 ∧ (s.core 0).sktQ = [] ∧
        s.readOp 0 tDesc 64 = .ok (tileBytes 0, s)) ∧
      tChecks s (tileBytes 0) = none ∧ (tTile 0).isEmpty = true ∧ (s.core 0).maySignal (fSig sktWord) :=
  ⟨skts_of (by decide +kernel), by decide +kernel, by decide +kernel, .inl (by decide +kernel)⟩
/-- A descriptor whose last byte is reserved and set. -/
theorem witness_HandedOnCompletes_refused : let b := tileBytes 1 |>.set 0 0x80; let s := sTile b sktWord [] id
    (Issues s 0 sktWord (fun w => fOpcode w == 0x20) sktChecks freely ∧ (s.core 0).part = some 0 ∧ (s.core 0).sktQ = [] ∧
        s.readOp 0 tDesc 64 = .ok (b, s)) ∧ tChecks s b = some 0x0138 ∧ (s.core 0).faultValid = false :=
  ⟨skts_of (by decide +kernel), by decide +kernel⟩
theorem witness_HandedOnCompletes_waits : let o : SktOp := { eng := 0, desc := tDesc, sig := 0, pc := 9, tile := some (tTile 1) }
    let s := sTile (tileBytes 1) sktWord (List.replicate 16 (tTile 1)) fun k => { k with sktQ := [o], sktOut := 16 }
    Issues s 0 sktWord (fun w => fOpcode w == 0x20) sktChecks freely ∧ (s.core 0).sktQ = [o] ∧ (s.core 0).sktQ.length < 4 ∧ (s.core 0).part = some 0 ∧
      (tTile 1).isEmpty = false ∧ s.boundSkink 0 o.eng = some 3 ∧ 16 ≤ (s.skink 3).queue.length :=
  ⟨issues_of (by decide +kernel), by decide +kernel⟩
theorem witness_HandedOnCompletes_behind : let o : SktOp := { eng := 0, desc := tDesc, sig := 0, pc := 9, tile := some (tTile 1) }
    let s := sTile (tileBytes 1) sktWord (List.replicate 16 (tTile 1)) fun k => { k with sktQ := List.replicate 4 o, sktOut := 16 }
    Issues s 0 sktWord (fun w => fOpcode w == 0x20) sktChecks freely ∧ (s.core 0).part = some 0 ∧ 4 ≤ (s.core 0).sktQ.length :=
  ⟨issues_of (by decide +kernel), by decide +kernel⟩

theorem test_skt : after (.skt 0 Harm.none) (sTile (tileBytes 1) sktWord [] id) (fun t => ((t.skink 3).queue.length, (t.core 0).sktOut)) = some (1, 1) := by
  decide +kernel

/-- Cores 0 and 1 beside each other in one partition, at an instruction of core 0. -/
def sHal (w : Nat) (f g : Core → Core) : State :=
  let s := tS w f
  { s with cores := [(0, f tCore), (1, g { tCore with x := 1 })],
           parts := [(0, { tPart with placement := { Placement.reset with cores := [(logicalKey 0 0 0, 0), (logicalKey 0 1 0, 1)] },
                                      job := some { tJob with cores := [0, 1] } })],
           mem := s.mem.write (coreBase 0 + 0x100) (leBytes 64 0xABCD) }

/-- `HAL` toward +x of 64 bytes at handle 1 (Table 4.13). -/
def halWord (rx len : Nat) : Nat := bits 0x31 120 + bits 1 97 + bits rx 96 + bits 1 90 + bits len 54

def tHal : HaloOp := { loc := { h := ⟨0x100, 0, 64, true, 0⟩, off := 0 }, left := 64, done := 0, sig := 0, pc := 3 }


theorem witness_HaloCompletes_none : let h := Harm.none
    let s := sHal (halWord 0 0) id id; let r := sHal (halWord 1 0) id id
    halLen (halWord 0 0) = 0 ∧ Issues (s.suffer h) 0 (halWord 0 0) (fun w => fOpcode w == 0x31 && field w 96 96 == 0) halChecks freely ∧
      Issues (r.suffer h) 0 (halWord 1 0) (fun w => fOpcode w == 0x31 && field w 96 96 == 1) halChecks freely ∧
      (mget ((s.suffer h).core 0).haloTx [] (halDir (halWord 0 0))).length < 4 ∧ ((s.suffer h).core 0).maySignal (fSig (halWord 0 0)) :=
  ⟨by decide +kernel, issues_of (by decide +kernel), issues_of (by decide +kernel), by decide +kernel, .inl (by decide +kernel)⟩
theorem witness_HaloCompletes_waits : let h := Harm.none; let w := halWord 0 64
    let s := sHal w id id; let u := s.suffer h
    halLen w ≠ 0 ∧ Issues u 0 w (fun w => fOpcode w == 0x31 && field w 96 96 == 0) halChecks freely ∧ (mget (u.core 0).haloTx [] (halDir w)).length < 4 ∧
      u.neighbour 0 (halDir w) = some 1 ∧ u.neighbour 1 ((halDir w + 2) % 4) = some 0 ∧ mget (u.core 1).haloRx [] ((halDir w + 2) % 4) = [] :=
  ⟨by decide +kernel, issues_of (by decide +kernel), by decide +kernel⟩
theorem witness_HaloCompletes_transfers : let h := Harm.none; let w := halWord 0 64
    let s := sHal w id fun k => { k with haloRx := [(3, [tHal])] }; let u := s.suffer h; let own := halOp (u.core 0).issued w
    coreOk 0 = true ∧ Calm h ∧ halLen w ≠ 0 ∧ u.neighbour 0 (halDir w) = some 1 ∧ u.neighbour 1 ((halDir w + 2) % 4) = some 0 ∧
      u.routeDown (coreDie 0) (coreDie 1) = false ∧
      Issues u 0 w (fun w => fOpcode w == 0x31 && field w 96 96 == 0) halChecks freely ∧
      mget (u.core 0).haloTx [] (halDir w) = [] ∧ mget (u.core 1).haloRx [] ((halDir w + 2) % 4) = [tHal] ∧
      0 < min own.left tHal.left ∧ u.extents 0 { own.loc with off := (own.loc.off + own.done) % 2 ^ 32 } 64 rRD = .ok [(coreBase 0 + 0x100, 64)] ∧
      Readable u.mem [(coreBase 0 + 0x100, 64)] ∧ Uncached u 0 own.loc ∧
      u.extents 1 { tHal.loc with off := (tHal.loc.off + tHal.done) % 2 ^ 32 } 64 rWR = .ok [(coreBase 1 + 0x100, 64)] ∧
      Writable u.mem [(coreBase 1 + 0x100, 64)] ∧ (u.core 0).issued.maySignal own.sig ∧ (u.core 1).maySignal tHal.sig :=
  ⟨by decide +kernel, ⟨rfl, rfl⟩, by decide +kernel, by decide +kernel, by decide +kernel, by decide +kernel, issues_of (by decide +kernel),
   by decide +kernel, by decide +kernel, by decide +kernel, rfl, by unfold Readable; decide +kernel, .inl (by decide +kernel), rfl, ⟨by decide +kernel, by decide +kernel⟩,
   .inl (by decide +kernel), .inl rfl⟩

theorem test_hal : after (.halSend 0 Harm.none) (sHal (halWord 0 64) id fun k => { k with haloRx := [(3, [tHal])] })
    (fun t => (t.mem.readN (coreBase 1 + 0x100) 2, (t.core 1).haloRx, (t.core 0).haloTx)) = some ([0xCD, 0xAB], [], []) := by decide +kernel

/-! ### Products, page operations and swaps come to their macro -/

/-- `MVM` or `MVT` of page 3, input at handle 1, `k` elements of format 4 (Table 4.11). -/
def mvmWord (op k : Nat) : Nat := bits op 120 + bits 3 89 + bits 4 86 + bits k 76 + bits 1 66

/-- Macro 0 in service, page 3 valid. -/
def tMac : Macro := { Macro.reset with cfg := { MacConfig.reset with enable := true }, pages := [(3, { Page.reset with valid := true })] }

def sMac (w : Nat) (m : Macro) (f : Core → Core) : State := { tS w f with macros := [(0, m)] }

/-- The product of `mvmWord`, as its macro holds it. -/
def tIns (rev : Bool) : ProductIns := productIns rev tMac { tCore with pc := 1 } (mvmWord (if rev then 0x11 else 0x10) 64)

def tBusy : Macro := { tMac with queue := [.product (tIns false)], accepted := true, run := some (Run.fresh 256 0) }
def tFull : Macro := { tBusy with queue := List.replicate 4 (.product (tIns false)) }

/-- How a product meets its macro. -/
def tProduct (rev : Bool) (w : Nat) (s : State) : ProductIns := productIns rev (s.mac (s.macroOf 0 (pMacro w))) (s.core 0).issued w

theorem witness_ProductsIssue_full : let w := mvmWord 0x10 64; let s := sMac w tFull id
    Issues s 0 w (fun w => fOpcode w == 0x10) productChecks freely ∧ 4 ≤ (s.mac (s.macroOf 0 (pMacro w))).queue.length :=
  ⟨issues_of (by decide +kernel), by decide +kernel⟩
theorem witness_ProductsIssue_waits : let w := mvmWord 0x11 64; let s := sMac w tBusy id
    Issues s 0 w (fun w => fOpcode w == 0x11) productChecks freely ∧ (s.mac (s.macroOf 0 (pMacro w))).queue.length < 4 ∧
      ((s.mac (s.macroOf 0 (pMacro w))).joined (.product (tProduct true w s))).waits = true :=
  ⟨issues_of (by decide +kernel), by decide +kernel⟩
theorem witness_ProductsIssue_begins : let w := mvmWord 0x10 64; let s := sMac w tMac id; let m := s.mac (s.macroOf 0 (pMacro w))
    Issues s 0 w (fun w => fOpcode w == 0x10) productChecks freely ∧ m.queue = [] ∧ (m.joined (.product (tProduct false w s))).waits = false ∧
      productRefusal m (tProduct false w s) = none ∧ (tProduct false w s).k ≠ 0 :=
  ⟨issues_of (by decide +kernel), by decide +kernel⟩
theorem witness_ProductsIssue_none : let w := mvmWord 0x11 0; let s := sMac w tMac id; let m := s.mac (s.macroOf 0 (pMacro w))
    Issues s 0 w (fun w => fOpcode w == 0x11) productChecks freely ∧ m.queue = [] ∧ (m.joined (.product (tProduct true w s))).waits = false ∧
      productRefusal m (tProduct true w s) = none ∧ (tProduct true w s).k = 0 ∧ (s.core 0).maySignal (tProduct true w s).sig :=
  ⟨issues_of (by decide +kernel), by decide +kernel, by decide +kernel, by decide +kernel, by decide +kernel, .inl (by decide +kernel)⟩
theorem witness_ProductsIssue_refused : let w := mvmWord 0x11 64; let s := sMac w { tMac with pages := [] } id; let m := s.mac (s.macroOf 0 (pMacro w))
    Issues s 0 w (fun w => fOpcode w == 0x11) productChecks freely ∧ m.queue = [] ∧ (m.joined (.product (tProduct true w s))).waits = false ∧
      productRefusal m (tProduct true w s) = some 0x0110 ∧ (s.core 0).part = some 0 :=
  ⟨issues_of (by decide +kernel), by decide +kernel⟩

/-- A page that is not valid refuses its product with 0x0110 (Table 2.6), and the core keeps the refusal (R129). -/
theorem test_mvm_invalid_page : after (.mvm 0 Harm.none) (sMac (mvmWord 0x10 64) { tMac with pages := [] } id)
    (fun t => ((t.part 0).faults.map FaultRec.status, (t.core 0).faultStatus, (t.core 0).state)) = some ([0x0110], 0x0110, 6) := by decide +kernel
/-- `K` = 257 is above a dense forward page's inputs (0x0111), and 256 is not. -/
theorem test_mvm_k : after (.mvm 0 Harm.none) (sMac (mvmWord 0x10 257) tMac id) (fun t => (t.part 0).faults.map FaultRec.status) = some [0x0111] := by decide +kernel
theorem test_mvt_k : after (.mvt 0 Harm.none) (sMac (mvmWord 0x11 256) tMac id) (fun t => ((t.part 0).faults, (t.mac 0).accepted)) = some ([], true) := by decide +kernel

/-- `WPG` of operation `op` on page 3 from handle 3, `n` rows from row 0, first (Table 4.12). -/
def wpgWord (op n : Nat) : Nat :=
  bits 0x12 120 + bits 3 89 + bits op 87 + bits 1 81 + bits n 63 + bits 64 53 + bits 64 44 + (if op < 2 then bits 3 38 else 0)

/-- A rewritable macro with nothing valid: a swap is accepted. -/
def tRew : Macro := { Macro.reset with cfg := { MacConfig.reset with enable := true, rewritable := true } }

def tWpg (w : Nat) (s : State) : WpgIns := wpgIns (s.core 0).issued w
def tJoined (w : Nat) (s : State) : Macro := (s.mac (s.macroOf 0 (wMacro w))).joined (.wpg (tWpg w s))

theorem witness_PageOperationsIssue_full : let w := wpgWord 0 1; let s := sMac w tFull id
    Issues s 0 w (fun w => fOpcode w == 0x12 && wOp w == 0) wpgChecks freely ∧ 4 ≤ (s.mac (s.macroOf 0 (wMacro w))).queue.length :=
  ⟨issues_of (by decide +kernel), by decide +kernel⟩
theorem witness_PageOperationsIssue_waits : let w := wpgWord 3 1; let s := sMac w tBusy id
    Issues s 0 w (fun w => fOpcode w == 0x12 && wOp w == 3) wpgChecks freely ∧ (s.mac (s.macroOf 0 (wMacro w))).queue.length < 4 ∧
      (tJoined w s).waits = true :=
  ⟨issues_of (by decide +kernel), by decide +kernel⟩
/-- A `FOLD` on a macro that is not rewritable (R77). -/
theorem witness_PageOperationsIssue_entry : let w := wpgWord 1 1; let s := sMac w tMac id
    Issues s 0 w (fun w => fOpcode w == 0x12 && wOp w == 1) wpgChecks freely ∧ (s.mac (s.macroOf 0 (wMacro w))).queue = [] ∧
      (tJoined w s).waits = false ∧ wpgEntry (tJoined w s) (tWpg w s) = some 0x0209 ∧ (s.core 0).part = some 0 :=
  ⟨issues_of (by decide +kernel), by decide +kernel⟩
theorem witness_PageOperationsIssue_form : let w := wpgWord 3 1 + bits 1 85; let s := sMac w tMac id
    Issues s 0 w (fun w => fOpcode w == 0x12 && wOp w == 3) wpgChecks freely ∧ (s.mac (s.macroOf 0 (wMacro w))).queue = [] ∧
      (tJoined w s).waits = false ∧ wpgEntry (tJoined w s) (tWpg w s) = some 0x0206 ∧ (s.core 0).part = some 0 :=
  ⟨issues_of (by decide +kernel), by decide +kernel⟩
theorem witness_PageOperationsIssue_none : let w := wpgWord 0 0; let s := sMac w tMac id
    Issues s 0 w (fun w => fOpcode w == 0x12 && wOp w == 0) wpgChecks freely ∧ (s.mac (s.macroOf 0 (wMacro w))).queue = [] ∧
      (tJoined w s).waits = false ∧ wpgEntry (tJoined w s) (tWpg w s) = none ∧ (tWpg w s).nrows = 0 ∧ (s.core 0).maySignal (tWpg w s).sig :=
  ⟨issues_of (by decide +kernel), by decide +kernel, by decide +kernel, by decide +kernel, by decide +kernel, .inl (by decide +kernel)⟩
theorem witness_PageOperationsIssue_erase : let w := wpgWord 3 0; let s := sMac w tMac id
    Issues s 0 w (fun w => fOpcode w == 0x12 && wOp w == 3) wpgChecks freely ∧ (s.mac (s.macroOf 0 (wMacro w))).queue = [] ∧
      (tJoined w s).waits = false ∧ wpgEntry (tJoined w s) (tWpg w s) = none :=
  ⟨issues_of (by decide +kernel), by decide +kernel⟩
/-- A `COPY` that is its page's last segment but ends before row 255 (R78). -/
theorem witness_PageOperationsIssue_bad : let w := wpgWord 2 1 + bits 1 80; let s := sMac w { tRew with pages := [(3, { Page.reset with valid := true })] } id
    Issues s 0 w (fun w => fOpcode w == 0x12 && wOp w == 2) wpgChecks freely ∧ (s.mac (s.macroOf 0 (wMacro w))).queue = [] ∧
      (tJoined w s).waits = false ∧ wpgEntry (tJoined w s) (tWpg w s) = none ∧ (tWpg w s).nrows ≠ 0 ∧ badSegment (tJoined w s) (tWpg w s) = true ∧
      (s.core 0).part = some 0 :=
  ⟨issues_of (by decide +kernel), by decide +kernel⟩

/-- A row of source bytes at handle 3: weight 5 for lane 0, and `v` for lane 64. -/
def sLoad (w v : Nat) : State :=
  let s := sMac w tMac id
  { s with mem := s.mem.write (coreBase 0 + 0x60040) ([5] ++ List.replicate 63 0 ++ [BitVec.ofNat 8 v]) }
def tSrc : List (Nat × Nat) := [(coreBase 0 + 0x60040, 256)]
def tScan (w : Nat) (s : State) : Option Finding :=
  let q := tJoined w s
  let i := tWpg w s
  let bs := bytesAt s.mem tSrc
  let q' : Macro := { q with stats := { q.stats with clamps := min 0xFFFF (q.stats.clamps + segClamps q i bs) } }
  scanRows q' i (i.liveRows q) bs (i.perRow q' * i.row0) (List.range (i.perRow q' * i.nrows)) (List.replicate 256 0)

theorem witness_PageOperationsIssue_taken : let w := wpgWord 0 1; let s := sLoad w 0
    Issues s 0 w (fun w => fOpcode w == 0x12 && wOp w == 0) wpgChecks freely ∧ (s.mac (s.macroOf 0 (wMacro w))).queue = [] ∧
      (tJoined w s).waits = false ∧ wpgEntry (tJoined w s) (tWpg w s) = none ∧ (tWpg w s).nrows ≠ 0 ∧ badSegment (tJoined w s) (tWpg w s) = false ∧
      s.extents 0 (tWpg w s).src ((tWpg w s).rowBytes (tJoined w s) * (tWpg w s).nrows) rRD = .ok tSrc ∧ Readable s.mem tSrc ∧ tScan w s = none :=
  ⟨issues_of (by decide +kernel), by decide +kernel, by decide +kernel, by decide +kernel, by decide +kernel, by decide +kernel, rfl,
   by unfold Readable; decide +kernel, by decide +kernel⟩
/-- A weight outside the logical lanes: row 0, lane 64, 0x0202. -/
theorem witness_PageOperationsIssue_finding : let w := wpgWord 0 1; let s := sLoad w 1
    Issues s 0 w (fun w => fOpcode w == 0x12 && wOp w == 0) wpgChecks freely ∧ badSegment (tJoined w s) (tWpg w s) = false ∧
      s.extents 0 (tWpg w s).src ((tWpg w s).rowBytes (tJoined w s) * (tWpg w s).nrows) rRD = .ok tSrc ∧ Readable s.mem tSrc ∧
      tScan w s = some ⟨0x0202, 0, 64⟩ ∧ (s.core 0).part = some 0 :=
  ⟨issues_of (by decide +kernel), by decide +kernel, rfl, by unfold Readable; decide +kernel, by decide +kernel, by decide +kernel⟩

theorem test_wpg_taken : after (.wpgLoad 0 Harm.none) (sLoad (wpgWord 0 1) 0) (fun t => ((t.mac 0).queue, (t.mac 0).writing.length, ((t.mac 0).page 3).valid)) =
    some ([], 1, false) := by decide +kernel
theorem test_wpg_finding : after (.wpgLoad 0 Harm.none) (sLoad (wpgWord 0 1) 1)
    (fun t => ((t.mac 0).stats.rejLane, (t.mac 0).stats.rejDetail, (t.part 0).faults.map FaultRec.status)) = some (64, 2, [0x0202]) := by decide +kernel

def swpWord (mask : Nat) : Nat := bits 0x13 120 + bits mask 83

theorem witness_PageOperationsIssue_swap_none : let w := swpWord 0; let s := sMac w tBusy id
    Issues s 0 w (fun w => fOpcode w == 0x13) swpChecks freely ∧ field w 98 83 = 0 ∧ (s.core 0).maySignal (fSig w) :=
  ⟨issues_of (by decide +kernel), by decide +kernel, .inl (by decide +kernel)⟩
theorem witness_PageOperationsIssue_swap_full : let w := swpWord 1; let s := sMac w tFull id
    Issues s 0 w (fun w => fOpcode w == 0x13) swpChecks freely ∧ ∃ n ∈ maskBits (field w 98 83), 4 ≤ (s.mac (s.macroOf 0 n)).queue.length :=
  ⟨issues_of (by decide +kernel), 0, by decide +kernel, by decide +kernel⟩
theorem witness_PageOperationsIssue_swap_waits : let w := swpWord 1; let s := sMac w tBusy id
    Issues s 0 w (fun w => fOpcode w == 0x13) swpChecks freely ∧ maskBits (field w 98 83) = [0] ∧
      (s.mac (s.macroOf 0 0)).queue.length < 4 ∧ ((s.mac (s.macroOf 0 0)).joined (.swp (s.core 0).pc)).waits = true :=
  ⟨issues_of (by decide +kernel), by decide +kernel⟩
theorem witness_PageOperationsIssue_swap_arms : let w := swpWord 1; let s := sMac w tRew id
    Issues s 0 w (fun w => fOpcode w == 0x13) swpChecks freely ∧ maskBits (field w 98 83) = [0] ∧ (s.core 0).swps = [] ∧
      (s.mac (s.macroOf 0 0)).queue = [] ∧ ((s.mac (s.macroOf 0 0)).joined (.swp (s.core 0).pc)).waits = false ∧
      swpRefusal (s.mac (s.macroOf 0 0)) = none ∧ (s.core 0).maySignal (fSig w) :=
  ⟨issues_of (by decide +kernel), by decide +kernel, by decide +kernel, by decide +kernel, by decide +kernel, by decide +kernel, .inl (by decide +kernel)⟩
/-- Macro 1 of two named refuses: it is not in service. -/
theorem witness_PageOperationsIssue_swap_refused : let w := swpWord 3; let s := sMac w tRew id; let ns := maskBits (field w 98 83)
    Issues s 0 w (fun w => fOpcode w == 0x13) swpChecks freely ∧ ns ≠ [] ∧ (s.core 0).swps = [] ∧ (∀ n ∈ ns, ∀ n' ∈ ns, s.macroOf 0 n = s.macroOf 0 n' → n = n') ∧
      (∀ n ∈ ns, (s.mac (s.macroOf 0 n)).queue = [] ∧ ((s.mac (s.macroOf 0 n)).joined (.swp (s.core 0).pc)).waits = false) ∧ (s.core 0).part = some 0 ∧
      ns.find? (fun n => (swpRefusal (s.mac (s.macroOf 0 n))).isSome) = some 1 ∧ swpRefusal (s.mac (s.macroOf 0 1)) = some 0x0118 :=
  ⟨issues_of (by decide +kernel), by decide +kernel⟩

theorem test_swp_arms : after (.swp 0 Harm.none) (sMac (swpWord 1) tRew id) (fun t => ((t.mac 0).armed, (t.core 0).swps.length)) = some (true, 0) := by decide +kernel
/-- A macro that is not rewritable refuses the swap with 0x0209 (R93). -/
theorem test_swp_refused : after (.swp 0 Harm.none) (sMac (swpWord 1) tMac id) (fun t => (t.part 0).faults.map FaultRec.status) = some [0x0209] := by decide +kernel

/-! ### Products and pages -/

/-- The macro of core 0 as `m`, with a product of page 3 at its front. -/
def sRun (m : Macro) : State := sMac 0 m id

def tRun : Run := { Run.fresh 256 0 with x := List.replicate 64 1 ++ List.replicate 192 0, started := true }

/-- A product at work on page 3, active. -/
def mRun (i : ProductIns) (r : Run) : Macro := { tMac with active := 3, queue := [.product i], accepted := true, run := some r }

theorem works_of (m : Macro) (i : ProductIns) (r : Run) (rest : List QEntry) (h : m.accepted = true) (hq : m.queue = .product i :: rest)
    (hr : m.run = some r) : Works (sRun m) 0 0 0 m i r :=
  ⟨by decide, by decide, rfl, rfl, h, ⟨rest, hq⟩, hr⟩

/-- A product that preloads from handle 2. -/
def insPre : ProductIns := { tIns false with init := 1, out := ⟨⟨0x200, 0, 64, true, 1⟩, 0⟩ }
def run4 : Run := Run.fresh 4 0

theorem witness_ProductBegins : Works (sRun (mRun insPre run4)) 0 0 0 (mRun insPre run4) insPre run4 ∧
    run4.started = false ∧ insPre.init = 1 ∧ run4.preloaded = false ∧
    (sRun (mRun insPre run4)).readOp 0 insPre.out (4 * 4) = .ok (List.replicate 16 0, sRun (mRun insPre run4)) :=
  ⟨works_of _ _ _ [] rfl rfl rfl, rfl, rfl, rfl, rfl⟩
theorem witness_ProductBegins_start : let m := mRun (tIns false) run4; let i := tIns false
    Works (sRun m) 0 0 0 m i run4 ∧ run4.started = false ∧ m.active = m.livePage i.page ∧ m.blocked = false ∧ (i.init = 1 → run4.preloaded = true) ∧
      (sRun m).readOp 0 i.inp ((if !i.rev && (m.page m.active).sparse24 then 512 else 256) * ifmtBits i.ifmt / 8) =
        .ok (List.replicate (256 * ifmtBits i.ifmt / 8) 0, sRun m) :=
  ⟨works_of _ _ _ [] rfl rfl rfl, rfl, by decide +kernel, by decide +kernel, by decide +kernel, rfl⟩

/-- The sum of a step as its statements form it. -/
def tSum (m : Macro) (i : ProductIns) (r : Run) (ds : List Disturb) : Option (Map Int) :=
  accumulate m.acc (ifmtSigned i.ifmt && r.plane + 1 == ifmtBits i.ifmt) r.plane (combine ((m.page m.active).wfmt == 1) i.rev (senseStep m i r ds).vals)

theorem witness_StepsComplete : let i := tIns false; let r := tRun; let m := mRun i r; let u := (sRun m).suffer Harm.none
    Works u 0 0 0 m i r ∧ i.rev = false ∧ r.started = true ∧ r.finished = false ∧ r.fail = 0 ∧ m.blocked = false ∧ (u.core 0).part = some 0 ∧
      u.paused 0 m = false ∧ (senseStep m i r []).pass = true ∧ ∃ a, tSum m i r [] = some a :=
  ⟨works_of _ _ _ [] rfl rfl rfl, rfl, rfl, rfl, rfl, by decide +kernel, by decide +kernel, by decide +kernel, by decide +kernel, Option.isSome_iff_exists.mp (by decide +kernel)⟩
/-- A calibration pause of a bank is under way (R96). -/
theorem witness_StepsComplete_paused : let i := tIns false; let r := tRun; let m := { mRun i r with bankB := { Bank.reset with calibrating := .pause } }
    let u := (sRun m).suffer Harm.none
    Works u 0 0 0 m i r ∧ i.rev = false ∧ r.started = true ∧ r.fail = 0 ∧ m.blocked = false ∧ (u.core 0).part = some 0 ∧ u.paused 0 m = true :=
  ⟨works_of _ _ _ [] rfl rfl rfl, rfl, rfl, rfl, by decide +kernel, by decide +kernel, by decide +kernel⟩
theorem witness_StepsComplete_reverse : let i := tIns true; let r := tRun; let m := mRun i r; let u := (sRun m).suffer Harm.none
    Works u 0 0 0 m i r ∧ i.rev = true ∧ m.blocked = false ∧ (u.core 0).part = some 0 ∧ (senseStep m i r []).pass = true ∧ ∃ a, tSum m i r [] = some a :=
  ⟨works_of _ _ _ [] rfl rfl rfl, rfl, by decide +kernel, by decide +kernel, by decide +kernel, Option.isSome_iff_exists.mp (by decide +kernel)⟩

/-- Weight 1 in row 0, lane 0, with its check words; entry 0 stands at the largest int32. -/
def mFull (policy : Nat) : State × Macro :=
  let p := { Page.reset with valid := true, cells := [(siteKey 0 0, cellOf 1 0)], chkLane := [(0, 1)] }
  let m := { mRun (tIns false) tRun with pages := [(3, { p with chkRow := p.rowResidue })], acc := [(0, 2 ^ 31 - 1)], entry := [(0, 7)] }
  let s := sRun m
  ({ s with parts := [(0, { tPart with policy := policy })] }, m)

theorem witness_StepsComplete_halves : let i := tIns false; let r := tRun; let m := (mFull 0).2; let u := (mFull 0).1.suffer Harm.none
    Works u 0 0 0 m i r ∧ m.blocked = false ∧ (senseStep m i r []).pass = true ∧ tSum m i r [] = none ∧ (u.part 0).policy ≠ 1 ∧ m.sigma ≠ 31 :=
  ⟨⟨by decide, by decide, rfl, rfl, rfl, ⟨[], rfl⟩, rfl⟩, by decide +kernel⟩
theorem witness_StepsComplete_overflow : let i := tIns false; let r := tRun; let m := (mFull 1).2; let u := (mFull 1).1.suffer Harm.none
    Works u 0 0 0 m i r ∧ (senseStep m i r []).pass = true ∧ tSum m i r [] = none ∧ (u.part 0).policy = 1 ∧ (u.core 0).part = some 0 :=
  ⟨⟨by decide, by decide, rfl, rfl, rfl, ⟨[], rfl⟩, rfl⟩, by decide +kernel⟩

/-- The entry copy is halved, rounding toward −∞, and σ rises (R157). -/
theorem test_step_halves : after (.macroStep 0 0 [] Harm.none) (mFull 0).1 (fun t => ((t.mac 0).sigma, mget (t.mac 0).acc 0 0, (t.mac 0).stats.rescales)) =
    some (1, 3, 1) := by decide +kernel
theorem test_step_overflow : after (.macroStep 0 0 [] Harm.none) (mFull 1).1 (fun t => (t.part 0).faults.map FaultRec.status) = some [0x0115] := by decide +kernel

/-- A lane sum one too high: the check of the step fails (R47, R52). -/
def tDist : List Disturb := [{ lane := 4, delta := 1 }]

theorem witness_StepsComplete_fails : let i := tIns false; let r := tRun; let m := mRun i r; let u := (sRun m).suffer Harm.none
    Works u 0 0 0 m i r ∧ i.rev = false ∧ r.started = true ∧ r.finished = false ∧ r.fail = 0 ∧ m.blocked = false ∧ (senseStep m i r tDist).pass = false :=
  ⟨works_of _ _ _ [] rfl rfl rfl, rfl, rfl, rfl, rfl, by decide +kernel, by decide +kernel⟩
/-- A residue that disagrees (R429). -/
theorem witness_StepsComplete_residue : let h := { Harm.none with err := some (0, 1) }; let i := tIns false; let r := tRun; let m := mRun i r
    Works ((sRun m).suffer h) 0 0 0 m i r ∧ (senseStep m i r []).pass = true ∧ (∃ a, tSum m i r [] = some a) ∧ h.err = some (0, 1) ∧ (1 : Int) % 7 ≠ 0 :=
  ⟨⟨by decide, by decide, rfl, rfl, rfl, ⟨[], rfl⟩, rfl⟩, by decide +kernel, Option.isSome_iff_exists.mp (by decide +kernel), rfl, by decide⟩
theorem test_step_residue : after (.macroStep 0 0 [] { Harm.none with err := some (0, 1) }) (sRun (mRun (tIns false) tRun))
    (fun t => (t.part 0).faults.map FaultRec.status) = some [0x0303] := by decide +kernel

theorem witness_StepsComplete_again : let i := tIns false; let r := { tRun with fail := 1 }; let m := mRun i r
    Works (sRun m) 0 0 0 m i r ∧ Harm.none.err = none ∧ m.blocked = false ∧ ((sRun m).core 0).part = some 0 ∧ r.fail = 1 ∧
      (senseStep m i r []).pass = true ∧ (senseStep m i r tDist).pass = false ∧ r.scrubbed = false ∧ ∃ a, tSum m i r [] = some a :=
  ⟨works_of _ _ _ [] rfl rfl rfl, rfl, by decide +kernel, by decide +kernel, rfl, by decide +kernel, by decide +kernel, rfl,
   Option.isSome_iff_exists.mp (by decide +kernel)⟩
theorem witness_StepsComplete_persist : let i := tIns false; let r := { tRun with fail := 1, scrubbed := true }; let m := mRun i r
    Works (sRun m) 0 0 0 m i r ∧ m.blocked = false ∧ ((sRun m).core 0).part = some 0 ∧ r.fail = 1 ∧ (senseStep m i r tDist).pass = false ∧ r.scrubbed = true :=
  ⟨works_of _ _ _ [] rfl rfl rfl, by decide +kernel, by decide +kernel, rfl, by decide +kernel, rfl⟩
theorem witness_StepsComplete_scrub : let i := tIns false; let r := { tRun with fail := 2 }; let m := mRun i r
    let page := ((m.page m.active).restore (List.range 257)).recheck
    let m2 := { m.updPage m.active fun _ => page with run := some { r with scrubbed := true }, stats := { m.stats with scrubs := min 255 (m.stats.scrubs + 1) } }
    let r2 := { r with scrubbed := true }
    Works (sRun m) 0 0 0 m i r ∧ m.blocked = false ∧ r.fail = 2 ∧ (m.page m.active).suspects = [] ∧
      ((senseStep m2 i r2 []).pass = true ∧ ∃ a, tSum m2 i r2 [] = some a) ∧ (senseStep m2 i r2 tDist).pass = false :=
  ⟨works_of _ _ _ [] rfl rfl rfl, by decide +kernel, rfl, by decide +kernel, ⟨by decide +kernel, Option.isSome_iff_exists.mp (by decide +kernel)⟩,
   by decide +kernel⟩
/-- Three wrong bits in the codeword of word 4 of row 255. -/
def mLost : Macro :=
  { mRun (tIns false) { tRun with fail := 2 } with
      pages := [(3, { Page.reset with valid := true, errs := [⟨255, 4, 1⟩, ⟨255, 4, 2⟩, ⟨255, 4, 3⟩] })] }
theorem witness_StepsComplete_lost : let i := tIns false; let r := { tRun with fail := 2 }
    Works (sRun mLost) 0 0 0 mLost i r ∧ mLost.blocked = false ∧ ((sRun mLost).core 0).part = some 0 ∧ r.fail = 2 ∧ 255 < 256 ∧ 4 < 5 ∧
      (∀ u ∈ (mLost.page mLost.active).errs, u.row = 255 ∧ u.word = 4) ∧ (mLost.page mLost.active).errs.length = 3 :=
  ⟨works_of _ _ _ [] rfl rfl rfl, by decide +kernel⟩
theorem test_scrub_lost : after (.checkTriggeredScrub 0 0 [] [] Harm.none) (sRun mLost) (fun t => ((t.part 0).faults.map FaultRec.status, ((t.mac 0).page 3).lost)) =
    some ([0x0302], true) := by decide +kernel

theorem witness_ProductCompletes : let i := { tIns false with drain := 1 }; let r := { tRun with finished := true }; let m := mRun i r
    let left := { m with queue := m.queue.drop 1, accepted := false, run := none }
    Works (sRun m) 0 0 0 m i r ∧ r.finished = true ∧ i.drain ≠ 0 ∧ m.drainBuf = none ∧
      ({ left with drainBuf := some { no := r.no, ins := i, acc := m.acc, sigma := m.sigma, nout := r.nout } } : Macro).settles :=
  ⟨works_of _ _ _ [] rfl rfl rfl, rfl, by decide +kernel, rfl, .inl rfl⟩
theorem witness_ProductCompletes_plain : let i := tIns false; let r := { tRun with finished := true }; let m := mRun i r
    Works (sRun m) 0 0 0 m i r ∧ r.finished = true ∧ i.drain = 0 ∧ m.earlier r.no = false ∧
      ({ m with queue := m.queue.drop 1, accepted := false, run := none } : Macro).settles ∧ ((sRun m).core 0).maySignal i.sig :=
  ⟨works_of _ _ _ [] rfl rfl rfl, rfl, by decide +kernel, by decide +kernel, .inl rfl, .inl rfl⟩

/-- A drain of two outputs, at the last entry of partial-sum memory's end. -/
def tDrain : DrainBuf := { no := 0, ins := { tIns false with drain := 1, out := ⟨⟨0x1FFF8, 0, 64, true, 1⟩, 0⟩ }, acc := [(0, -2), (1, 5)], sigma := 3, nout := 2 }

/-- A product without a drain waits for the drain of the one before it (R117). -/
theorem witness_ProductCompletes_waits : let i := tIns false; let r := { tRun with finished := true, no := 1 }; let m := { mRun i r with drainBuf := some tDrain }
    Works (sRun m) 0 0 0 m i r ∧ r.finished = true ∧ i.drain = 0 ∧ m.earlier r.no = true :=
  ⟨works_of _ _ _ [] rfl rfl rfl, rfl, by decide +kernel, by decide +kernel⟩

def tOut : List (Nat × Nat) := [(coreBase 0 + 0x5FFF8, 8)]
theorem witness_ProductCompletes_drain : let s := sRun { tMac with drainBuf := some tDrain }; let u := s.suffer Harm.none; let m := u.mac (u.macroOf 0 0)
    coreOk 0 = true ∧ macroOk 0 = true ∧ Calm Harm.none ∧ m.drainBuf = some tDrain ∧ m.earlier tDrain.no = false ∧
      ({ m with drainBuf := none, lastSigma := 3 } : Macro).settles ∧ (u.core 0).maySignal tDrain.ins.sig ∧ tDrain.ins.drain = 1 ∧
      u.extents 0 tDrain.ins.out 8 rWR = .ok tOut ∧ Writable u.mem tOut :=
  ⟨by decide, by decide, ⟨rfl, rfl⟩, rfl, by decide +kernel, .inl rfl, .inl rfl, rfl, rfl, ⟨by decide +kernel, by decide +kernel⟩⟩
/-- −2 and 5, little-endian. -/
theorem test_drain : after (.drain 0 0 Harm.none) (sRun { tMac with drainBuf := some tDrain })
    (fun t => (t.mem.readN (coreBase 0 + 0x5FFF8) 8, (t.mac 0).lastSigma)) = some ([0xFE, 0xFF, 0xFF, 0xFF, 5, 0, 0, 0], 3) := by decide +kernel

/-- A rescaled drain whose record stands at handle 1: multiplier 1, no shift, `ofmt` to int16 (Table 5.3); and one whose record R168 refuses. -/
def rqDrain : DrainBuf := { tDrain with ins := { tDrain.ins with drain := 2, rq := ⟨⟨0x100, 0, 64, true, 0⟩, 0⟩ } }
def sRq (b : List Byte) : State :=
  let s := sRun { tMac with drainBuf := some rqDrain }
  { s with mem := s.mem.write (coreBase 0 + 0x100) b }
def tPacked : List Byte :=
  packFmt (rescaleOf (leBytes 64 0)).ofmt (List.zipWith (fun a x => requantise a 3 (rescaleOf (leBytes 64 0)) x) [-2, 5] (multipliers (rescaleOf (leBytes 64 0)) 2 []))
theorem witness_ProductCompletes_rescaled : let b := leBytes 64 0; let s := sRq b; let u := s.suffer Harm.none
    coreOk 0 = true ∧ macroOk 0 = true ∧ (u.mac 0).drainBuf = some rqDrain ∧ u.readOp 0 rqDrain.ins.rq 64 = .ok (b, u) ∧
      u.readOp 0 { rqDrain.ins.rq with off := rqDrain.ins.rq.off + 64 } (if (rescaleOf b).perLane then 8 else 0) = .ok ([], u) ∧
      (rescaleOf b).sound = true ∧ tPacked.length = 2 ∧ u.extents 0 rqDrain.ins.out 2 rWR = .ok [(coreBase 0 + 0x5FFF8, 2)] ∧
      Writable u.mem [(coreBase 0 + 0x5FFF8, 2)] :=
  ⟨by decide, by decide, rfl, rfl, rfl, by decide +kernel, by decide +kernel, rfl, ⟨by decide +kernel, by decide +kernel⟩⟩

theorem witness_ProductCompletes_record : let b := leBytes 64 (2 ^ 64 - 1); let s := sRq b; let u := s.suffer Harm.none
    (u.mac 0).drainBuf = some rqDrain ∧ u.readOp 0 rqDrain.ins.rq 64 = .ok (b, u) ∧ (rescaleOf b).sound = false ∧ (u.core 0).part = some 0 ∧
      rqDrain.ins.drain ≠ 1 := ⟨rfl, rfl, by decide +kernel, by decide +kernel, by decide⟩

/-- A record: multiplier 3, shift 1, format 1, zero point 1, no clamp below the format's range (Table 5.3). -/
def tRecord : List Byte := leBytes 4 3 ++ [1, 1, 0, 0] ++ leBytes 4 1 ++ leBytes 4 0xFFFFFF80 ++ leBytes 4 127 ++ List.replicate 44 0

def tDrain2 : DrainBuf :=
  { no := 0, ins := { tIns false with drain := 2, out := ⟨⟨0x300, 0, 64, true, 0⟩, 0⟩, rq := ⟨⟨0x100, 0, 64, true, 0⟩, 0⟩ }, acc := [(0, -2), (1, 100)], sigma := 0,
    nout := 2 }

def sDrain2 : State :=
  let s := sRun { tMac with drainBuf := some tDrain2 }
  { s with mem := s.mem.write (coreBase 0 + 0x100) tRecord }

/-- (−2 × 3 + 1) >> 1 = −3, and the zero point 1: −2 (R166); (100 × 3 + 1) >> 1 = 150, clamped to 127. -/
theorem test_drain_narrow : after (.drain 0 0 Harm.none) sDrain2 (fun t => t.mem.readN (coreBase 0 + 0x300) 2) = some [0xFE, 127] := by decide +kernel

/-! ### Pages -/

/-- A segment of one page operation of macro 0, on page 3. -/
def tSeg (op row0 nrows : Nat) (last : Bool) : WpgIns :=
  { op := op, page := 3, form := 0, wfmt := 0, sparse := false, first := true, last := last, row0 := row0, nrows := nrows, lrows := 255, llanes := 255,
    src := ⟨⟨0x1000, 0, 64, true, 0⟩, 0⟩, sig := 0, pc := 2 }

def tOp (op next : Nat) (v : Bool) : PageOp :=
  { page := 3, op := op, wfmt := 0, sparse := false, lrows := 255, llanes := 255, next := next, both := false, verifying := v, crc := 0xFFFFFFFF, sums := [] }

/-- The segment at work; `crc` is what the loader has computed so far. -/
def tWrite (i : WpgIns) (next : Nat) (v : Bool) (crc : Nat) : PageWrite := { ins := i, op := { tOp i.op next v with crc := crc }, no := 0, live := [] }

def mWrite (w : PageWrite) : Macro := { tMac with writing := [w], order := 1, pages := [] }

theorem writes_of (w : PageWrite) (h : ((mWrite w).writeBanks w).contains false = true) : Writes (sRun (mWrite w)) 0 0 false 0 (mWrite w) w :=
  ⟨by decide, by decide, rfl, rfl, List.find?_cons_of_pos h⟩

/-- The first of two rows. -/
theorem witness_PagesWritten : let w := tWrite (tSeg 0 0 2 true) 0 false 0; let m := mWrite w; let i := w.ins
    Writes (sRun m) 0 0 false 0 m w ∧ w.op.verifying = false ∧ i.op ≠ 3 ∧
      (sRun m).readOp 0 i.src (i.rowBytes m * i.nrows) = .ok (List.replicate (i.rowBytes m * i.nrows) 0, sRun m) ∧
      decide (w.op.next + 1 = i.row0 + i.nrows) = false ∧ i.form = 0 ∧ i.row0 ≤ w.op.next ∧ w.op.next < 256 :=
  ⟨writes_of _ (by decide +kernel), rfl, by decide, ok_of (by decide +kernel), by decide +kernel⟩
/-- The last row of a segment, of a page's last one and of another. -/
theorem witness_PagesWritten_last : let w := tWrite (tSeg 0 255 1 true) 255 false 0; let m := mWrite w; let i := w.ins
    Writes (sRun m) 0 0 false 0 m w ∧ i.op ≠ 3 ∧ (sRun m).readOp 0 i.src (i.rowBytes m * i.nrows) = .ok (List.replicate 256 0, sRun m) ∧
      decide (w.op.next + 1 = i.row0 + i.nrows) = true ∧ i.last = true ∧ (∀ x : Macro, x.queue = [] → x.settles) ∧ m.queue = [] :=
  ⟨writes_of _ (by decide +kernel), by decide, ok_of (by decide +kernel), by decide +kernel, rfl, fun _ h => .inl h, rfl⟩
theorem witness_PagesWritten_segment : let w := tWrite (tSeg 0 0 1 false) 0 false 0; let m := mWrite w; let i := w.ins
    Writes (sRun m) 0 0 false 0 m w ∧ i.op ≠ 3 ∧ (sRun m).readOp 0 i.src (i.rowBytes m * i.nrows) = .ok (List.replicate 256 0, sRun m) ∧
      decide (w.op.next + 1 = i.row0 + i.nrows) = true ∧ i.last = false ∧ m.earlier w.no = false ∧ m.queue = [] ∧ ((sRun m).core 0).maySignal i.sig :=
  ⟨writes_of _ (by decide +kernel), by decide, ok_of (by decide +kernel), by decide +kernel, rfl, by decide +kernel, rfl, .inl rfl⟩
theorem witness_PagesWritten_erase : let w := tWrite (tSeg 3 0 0 true) 7 false 0; let m := mWrite w
    Writes (sRun m) 0 0 false 0 m w ∧ w.op.verifying = false ∧ w.ins.op = 3 ∧ w.op.next < 255 :=
  ⟨writes_of _ (by decide +kernel), rfl, rfl, by decide⟩
theorem witness_PagesWritten_erased : let w := tWrite (tSeg 3 0 0 true) 255 false 0; let m := mWrite w
    Writes (sRun m) 0 0 false 0 m w ∧ w.ins.op = 3 ∧ w.op.next = 255 ∧ m.earlier w.no = false ∧ m.queue = [] ∧ ((sRun m).core 0).maySignal w.ins.sig :=
  ⟨writes_of _ (by decide +kernel), rfl, rfl, by decide +kernel, rfl, .inl rfl⟩

/-- The first row's source holds weight 9 for lane 3; the CRC of a page of zeros. -/
theorem test_row_write : let w := tWrite (tSeg 0 0 2 true) 0 false 0
    after (.rowWrite 0 0 false Harm.none) { sRun (mWrite w) with mem := Memory.reset.write (coreBase 0 + 0x1003) [9] }
      (fun t => (((t.mac 0).page 3).val 0 3, ((t.mac 0).writing.map fun x => x.op.next))) = some (9, [1]) := by decide +kernel

/-- The CRC that a loader has computed over all the rows of a page, before its format (R84, R86). -/
@[irreducible] def allRows (p : Page) : Nat :=
  crcBytes 0xFFFFFFFF ((List.range p.rows).flatMap fun j => (List.range 256).map fun l => BitVec.ofInt 8 (p.weight j l))
theorem crc_rows (p : Page) : p.crcNow = crcDone (allRows p) p.wfmt p.sparse24 := by
  unfold allRows; simp only [Page.crcNow, Page.image, crc32c, crcDone, crcBytes, List.foldl_append, List.foldl_cons, List.foldl_nil]

/-- A page of zeros, all its rows written: the verify completes it, or refuses it where a check word is wrong. -/
def tVerify : PageWrite := tWrite (tSeg 0 0 256 true) 256 true (allRows Page.reset)
theorem zero_sound : Page.reset.checksOk = true ∧ Page.reset.suspects = [] := by decide +kernel

theorem witness_PagesWritten_verify : let w := tVerify; let m := mWrite w; let i := w.ins; let ts := m.targets i.op i.page w.op.both
    Writes (sRun m) 0 0 false 0 m w ∧ w.op.verifying = true ∧ m.earlier w.no = false ∧ ts = [3] ∧ (m.page 3).suspects = [] ∧
      ((m.page 3).checksOk = true ∧ (m.page 3).crcNow = crcDone w.op.crc (i.fmt m) (i.is24 m)) ∧ m.queue = [] ∧ ((sRun m).core 0).maySignal i.sig :=
  ⟨writes_of _ (by decide +kernel), rfl, by decide +kernel, by decide +kernel, zero_sound.2, ⟨zero_sound.1, crc_rows Page.reset⟩, rfl, .inl rfl⟩

def mWrong : Macro := { mWrite tVerify with pages := [(3, { Page.reset with chkLane := [(255, 1)] })] }
theorem witness_PagesWritten_wrong : let w := tVerify; let m := mWrong; let i := w.ins
    Writes (sRun m) 0 0 false 0 m w ∧ w.op.verifying = true ∧ m.earlier w.no = false ∧ m.targets i.op i.page w.op.both = [3] ∧ (m.page 3).suspects = [] ∧
      (m.page 3).checksOk = false ∧ ((sRun m).core 0).part = some 0 ∧ i.op ≠ 3 ∧ i.nrows ≠ 0 ∧ m.opOn i.page = some w.op ∧ w.op.op = i.op :=
  ⟨⟨by decide, by decide, rfl, rfl, List.find?_cons_of_pos (by decide +kernel)⟩, rfl, by decide +kernel, by decide +kernel, by decide +kernel,
   by decide +kernel, by decide +kernel, by decide, by decide, rfl, rfl⟩
theorem test_page_verify_wrong : after (.pageVerify 0 0 false [] []) (sRun mWrong)
    (fun t => (((t.mac 0).page 3).valid, (t.part 0).faults.map FaultRec.status)) = some (false, [0x0207]) := by decide +kernel

theorem witness_PageOperationsIssue_clears : (tSeg 0 0 2 true).op = 0 ∧ (tSeg 0 0 2 true).first = true ∧ tMac.cfg.rewritable = false := by decide

/-! ### Maintenance and registers -/

theorem witness_RefreshCompletes : let m := (sRun tMac).mac (macKey 0 2)
    coreOk 0 = true ∧ physOk 2 = true ∧ m.bankA.row ∉ (m.page 0).restored ∧ m.bankA.calibrating ≠ .pause ∧ m.betweenProducts = true := by decide +kernel
/-- A product at work on the active page of bank A; its gap free, and taken. -/
theorem witness_RefreshCompletes_gap : let m := mRun (tIns false) tRun
    m.betweenProducts = false ∧ m.bankA.row ∉ (m.page 0).restored ∧ false = decide (32 ≤ m.active) ∧ m.run = some tRun ∧ tRun.gap = false ∧ tRun.fail = 0 := by
  decide +kernel
theorem witness_RefreshCompletes_taken : let m := mRun (tIns false) { tRun with gap := true }
    m.betweenProducts = false ∧ false = decide (32 ≤ m.active) ∧ m.run = some { tRun with gap := true } := by decide +kernel
theorem witness_RefreshCompletes_passes : let m := { tMac with pages := [(0, { Page.reset with restored := [0] })] }; let nx := sweepNext 0 0
    m.betweenProducts = true ∧ m.bankA.row ∈ (m.page m.bankA.page).restored ∧ nx.2 ∉ (m.page nx.1).restored := by decide +kernel
theorem witness_RefreshCompletes_pause : let m := { tMac with bankA := { Bank.reset with calibrating := .pause } }
    coreOk 0 = true ∧ physOk 0 = true ∧ m.bankA.calibrating = .pause ∧ (sRun m).mac (macKey 0 0) = m := by decide +kernel
theorem witness_RefreshCompletes_interval :
    let s := { State.reset with spares := { Spares.reset with rate32 := [5] }, power := { Power.reset with coolTicks := [(5, 4167)] } }
    arrayDieOk 5 = true ∧ 5 ∈ s.spares.rate32 ∧ Config.msTicks ≤ mget s.power.coolTicks 0 5 := by decide +kernel

/-- The last row-page of the sweep of a page goes on to the next page (R60). -/
theorem test_refresh_next_page : after (.refreshOperation 0 0 true) (sRun { tMac with bankB := { Bank.reset with page := 31, row := 256 } })
    (fun t => ((t.mac 0).bankB.page, (t.mac 0).bankB.row)) = some (0, 0) := by decide +kernel
/-- No second operation in one gap (R62). -/
theorem test_refresh_one_gap : after (.refreshOperation 0 0 false) (sRun (mRun (tIns false) { tRun with gap := true }))
    (fun t => (t.mac 0).bankA.row) = some 0 := by decide +kernel

/-- Macro 0 with bank A as `b`, its job begun at tick 0 and the tick at `t`. -/
def sBank (b : Bank) (t : Nat) : State :=
  let s := sRun { tMac with bankA := b, queue := [.product (tIns false)], accepted := true, run := some tRun, active := 3 }
  { s with hub := { s.hub with tick := t } }

theorem witness_RefreshCompletes_calibration_due : let s := sBank { Bank.reset with calPace := 3 } 0
    coreOk 0 = true ∧ physOk 0 = true ∧ (s.mac 0).bankA.due = false ∧ s.diePace (coreDie 0) ≠ (s.mac 0).bankA.calPace := by decide +kernel
theorem witness_RefreshCompletes_calibration_early : let s := sBank Bank.reset 0
    ¬((s.mac 0).bankA.calTick + s.dval 0x5110 0 1 500 * 1000000 / 240 ≤ s.hub.tick ∨
      (s.dval 0x5110 0 2 8 * 100 : Nat) ≤ (s.temp (coreDie 0) - (s.mac 0).bankA.calTemp).natAbs ∨ s.diePace (coreDie 0) ≠ (s.mac 0).bankA.calPace) := by
  decide +kernel
theorem witness_RefreshCompletes_calibration : let s := { State.reset with macros := [(0, { tMac with bankA := { Bank.reset with due := true } })] }
    (s.mac 0).bankA.due = true ∧ (s.mac 0).bankA.calibrating = .no ∧ s.atBoundary 0 = true := by decide +kernel
/-- A calibration under way, in a window and in a pause; and none due. -/
theorem witness_RefreshCompletes_calibration_under_way : let s := sBank { Bank.reset with due := true, calibrating := .window } 0
    (s.mac 0).bankA.calibrating = .window ∧ (s.mac 0).bankA.calibrating ≠ .pause ∧ ({ Bank.reset with calibrating := .pause } : Bank).calibrating = .pause ∧
      Bank.reset.due = false ∧ Bank.reset.calibrating ≠ .window := by decide +kernel
theorem test_calibration_perform : after (.calibration 0 0 false .perform) (sBank { Bank.reset with due := true, calibrating := .window } 77)
    (fun t => ((t.mac 0).bankA.due, (t.mac 0).bankA.calTick, (t.mac 0).stats.cals)) = some (false, 77, 1) := by decide +kernel
theorem witness_RefreshCompletes_calibration_pause : let s := sBank { Bank.reset with due := true, dueTick := 8000000 } 8416667
    (s.mac 0).run = some tRun ∧ tRun.started = true ∧ tRun.fail = 0 ∧ tRun.gap = false ∧ (s.mac 0).bankA.due = true ∧
      (s.mac 0).bankA.calibrating = .no ∧ (s.mac 0).bankA.dueTick + 416667 ≤ s.hub.tick ∧ 8333333 < s.jobAge 0 := by decide +kernel
theorem test_calibration_pause : after (.calibrationPause 0 0 false .whole) (sBank { Bank.reset with due := true, dueTick := 8000000 } 8416667)
    (fun t => ((t.mac 0).bankA.due, (t.mac 0).bankA.calTick, (t.mac 0).stats.pauses)) = some (false, 8416667, 1) := by decide +kernel

theorem witness_PatrolCompletes : let m := (sRun tMac).mac 0
    coreOk 0 = true ∧ physOk 0 = true ∧ m.betweenProducts = true ∧ ∀ u ∈ (m.page 0).errs, u.row = 0 → 5 ≤ u.word := by decide +kernel
/-- One, two and three wrong bits in the fifth codeword of the row that the patrol reads next. -/
def mUpset (n : Nat) : Macro := { tMac with pages := [(0, { Page.reset with valid := true, errs := (List.range n).map fun p => ⟨0, 4, 530 + p⟩ })] }
theorem witness_PatrolCompletes_upset : ∀ n < 4, let m := (sRun (mUpset n)).mac 0; let page := m.page (m.bankA.patrolPage)
    m.betweenProducts = true ∧ ((∀ u ∈ page.errs, u.row = m.bankA.patrolRow ∧ u.word = 4) ∧ page.errs.Nodup ∧ ∀ u ∈ page.errs, u.pos < 533) ∧
      page.errs.length = n := by decide +kernel
theorem witness_PatrolCompletes_part : ((sRun (mUpset 3)).core 0).part = some 0 := by decide +kernel
theorem witness_PatrolCompletes_filler : let s := tS 0 fun k => { k with ended := true }
    ({ s with cores := s.cores ++ [(1, tCore)] } : State).fills 0 = true := by decide +kernel
/-- The last core of a job that ends does no filler (R407). -/
theorem test_filler_last : (tS 0 fun k => { k with ended := true }).fills 0 = false := by decide +kernel
theorem test_patrol_lost : after (.patrolRead 0 0 false []) (sRun (mUpset 3))
    (fun t => (((t.mac 0).page 0).lost, (t.mac 0).stats.patrolLost, (t.part 0).log.due.map LogRec.code)) = some (true, 1, [0x0302]) := by decide +kernel

/-- Page 3 of a rewritable macro is lost, its shadow loaded; `crc` is what the shadow keeps (R99). -/
def sLost (crc : Word) : State :=
  { State.reset with macros := [(0, { Macro.reset with cfg := { MacConfig.reset with rewritable := true }, shadow := [(3, 1)],
                                                       pages := [(3, { Page.reset with lost := true, gen := 7 }), (35, { Page.reset with crc := crc })] })] }

/-- The shadow's check word of its last row is wrong. -/
def sUnlike : State :=
  { State.reset with macros := [(0, { (sLost 0).mac 0 with pages := [(3, { Page.reset with lost := true, gen := 7 }),
                                                                     (35, { Page.reset with chkLane := [(255, 1)] })] })] }

theorem checks_crc (p : Page) (c : Word) : ({ p with crc := c } : Page).checksOk = p.checksOk := rfl
theorem now_crc (p : Page) (c : Word) : ({ p with crc := c } : Page).crcNow = p.crcNow := by rw [crc_rows, crc_rows]; unfold allRows; rfl
theorem lost_page (c : Word) : ((sLost c).mac 0).page (((sLost c).mac 0).shadowPage 3) = { Page.reset with crc := c } := rfl

theorem witness_RepairsComplete_restore : let s := sLost Page.reset.crcNow; let m := s.mac 0; let sh := m.page (m.shadowPage 3)
    coreOk 0 = true ∧ physOk 0 = true ∧ pageOk 3 = true ∧ m.restorable 3 = true ∧ s.atBoundary 0 = true ∧ sh.suspects = [] ∧
      sh.checksOk = true ∧ sh.crcNow = sh.crc := by
  obtain ⟨c, hc⟩ : ∃ c, c = Page.reset.crcNow := ⟨_, rfl⟩
  rw [← hc]
  refine ⟨by decide, by decide, by decide, rfl, rfl, ?_, ?_, ?_⟩
  · show Page.suspects (((sLost c).mac 0).page (((sLost c).mac 0).shadowPage 3)) = []; rw [lost_page]; exact
      (show _ = _ from (rfl : ({ Page.reset with crc := c } : Page).suspects = Page.reset.suspects)).trans zero_sound.2
  · rw [lost_page, checks_crc]; exact zero_sound.1
  · rw [lost_page, now_crc, hc]
theorem witness_RepairsComplete_restore_wrong : let s := sUnlike; let m := s.mac 0; let sh := m.page (m.shadowPage 3)
    m.restorable 3 = true ∧ s.atBoundary 0 = true ∧ sh.suspects = [] ∧ sh.checksOk = false := by decide +kernel
theorem witness_RepairsComplete_restore_none : (sRun tMac).atBoundary 0 = false ∧ ((sRun tMac).mac 0).restorable 3 = false := by decide +kernel
theorem test_restore_wrong : after (.restore 0 0 3 []) sUnlike
    (fun t => (((t.mac 0).page 3).lost, ((t.mac 0).page 3).gen, (t.mac 0).restorable 3)) = some (true, 7, false) := by decide +kernel

/-- A lane test is due in the clears of a faulted job (R377, R439). -/
def sTest (lanes : Map Nat) : State :=
  let s := sRun { tMac with testPage := some 3, staged := { MacConfig.reset with lanes := lanes } }
  { s with parts := [(0, { tPart with job := some { tJob with state := 4 } })] }

theorem witness_RepairsComplete_test : let s := sTest []; coreOk 0 = true ∧ physOk 0 = true ∧ (s.core 0).part = some 0 ∧ s.jobState 0 = 4 ∧
    (s.mac 0).testPage = some 3 ∧ ((s.mac 0).page 3).suspects = [] ∧ (s.spares.strikes.filter fun e => e.1 == 0) = [] ∧
    (s.mac 0).staged.laneMap (if 32 ≤ 3 then 4 else 0) < 2 ^ 31 ∧ 0 ∉ (s.mac 0).spent ∧ s.retiring 0 = false := by decide +kernel
theorem witness_RepairsComplete_retiring : let s := { sTest [] with spares := { Spares.reset with pendingMacros := [0] } }
    s.jobState 0 = 4 ∧ (s.mac 0).testPage = some 3 ∧ s.retiring 0 = true := by decide +kernel
/-- No spare is left: four lanes are named. -/
def tLanes : Map Nat := (List.range 4).map fun i => (i, 2 ^ 31 + i)
theorem witness_RepairsComplete_retires : let s := sTest tLanes; s.jobState 0 = 4 ∧ (∀ i, i < 4 → ((s.mac 0).staged.laneMap (0 + i)).testBit 31 = true) ∧
    (∀ x ∈ s.spares.macros ++ s.spares.pendingMacros, macCore x ≠ 0) ∧ 0 ∉ s.spares.pendingCores := by decide +kernel
theorem test_lane_named : after (.laneTest 0 0 [] [(0, { lane := 9, delta := 2 })]) (sTest [])
    (fun t => ((t.mac 0).staged.laneMap 0, (t.mac 0).rebuild, (t.mac 0).rebuildHold)) = some (2 ^ 31 + 9, [(0, 9)], true) := by decide +kernel
theorem test_lane_retires : after (.laneTest 0 0 [] [(255, { lane := 9, delta := 2 })]) (sTest tLanes)
    (fun t => (t.spares.pendingMacros, (t.mac 0).rebuildHold)) = some ([0], false) := by decide +kernel

theorem witness_RepairsComplete_rebuild : let s : State := { State.reset with macros := [(0, { Macro.reset with rebuild := [(0, 9)] })] }
    ((s.mac 0).rebuild.filter fun e => (decide (4 ≤ e.1)) == false) ≠ [] ∧ (∀ i, i < 32 → ((s.mac 0).page (i + 0)).valid = false) ∧
      ((s.mac 0).rebuild.filter fun e => (decide (4 ≤ e.1)) == true) = [] ∧ s.atBoundary 0 = true ∧
      ({ (s.mac 0).cfg with lanes := [(0, 2 ^ 31 + 9)] } : MacConfig).clash = false := by decide +kernel
/-- Maps in force that clash already: the commit of the rebuild is refused whole (R59). -/
def mClash : Macro := { Macro.reset with cfg := { MacConfig.reset with lanes := [(1, 2 ^ 31 + 5), (3, 2 ^ 31 + 5)] }, rebuild := [(0, 9)] }
theorem witness_RepairsComplete_clash :
    let maps := mClash.rebuild.foldl (fun q e => mset (dropLane q false e.2) 0 e.1 (2 ^ 31 + e.2)) mClash.cfg.lanes
    (∀ i, i < 32 → (mClash.page (i + 0)).valid = false) ∧ ({ mClash.cfg with lanes := maps } : MacConfig).clash = true := by decide +kernel
theorem test_rebuild_clash : after (.laneRebuild 0 0 false) { State.reset with macros := [(0, mClash)] }
    (fun t => ((t.mac 0).mapReject, (t.mac 0).committed, (t.mac 0).rebuild)) = some (true, none, []) := by decide +kernel
/-- Row 7 holds −15 in lane 255, whose cells all read wrong, and 2 in lane 0. -/
def pRebuild : Page :=
  let p := { Page.reset with valid := true, cells := [(siteKey 7 0, cellOf 2 0), (siteKey 7 255, cellOf (-15) 0)], chkLane := [(7, BitVec.ofNat 16 (mod127 (-13)))] }
  { p with errs := [⟨7, 4, 510⟩], cells := p.cells.dropLast ++ [(siteKey 7 255, cellOf (-15) 0 ^^^ 0x100)] }
theorem witness_RepairsComplete_rebuild_row : let p := pRebuild
    let others := ((p.rowSites 7).filter fun e => e.1 != 255).foldl (fun a e => a + cellVal e.2) 0
    p.sparse24 = false ∧ p.errs.Nodup ∧ (∀ u ∈ p.errs, u.row = 7 ∧ u.word < 5 ∧ u.pos < 512 ∧ laneOf u = 255) ∧ p.trueCell 7 255 = (cellOf (-15) 0).toNat ∧
      -fmtMax p.wfmt ≤ -15 ∧ -15 ≤ fmtMax p.wfmt ∧ mget p.chkLane 0 7 = BitVec.ofNat 16 (mod127 (others + -15)) := by decide +kernel
theorem test_rebuild_row : (rebuildRow [255] pRebuild pRebuild 0 7).map (fun d => (d.page.cell 7 255, d.page.errs)) = some ((cellOf (-15) 0).toNat, []) := by
  decide +kernel

theorem witness_RegistersComplete_commit : let s := sRun tMac
    coreOk 0 = true ∧ physOk 0 = true ∧ skinkOk 0 = true ∧ (s.mac 0).staged.clash = false ∧ s.atBoundary 0 = false ∧ State.reset.atBoundary 0 = true ∧
      s.jobState (s.skink 0).awaits = 2 := by decide +kernel
theorem witness_RegistersComplete_clash : ({ MacConfig.reset with lanes := [(0, 2 ^ 31 + 5), (2, 2 ^ 31 + 5)] } : MacConfig).clash = true := by decide +kernel
theorem witness_LaneMapsRefused : let m := { tMac with staged := { MacConfig.reset with lanes := [(4, 2 ^ 31 + 255), (7, 2 ^ 31 + 255)] } }
    (m.staged.laneMap (4 + 0)).testBit 31 = true ∧ (m.staged.laneMap (4 + 3)).testBit 31 = true ∧
      m.staged.laneMap (4 + 0) % 256 = m.staged.laneMap (4 + 3) % 256 ∧ m = (sRun m).mac (macKey 0 0) := by decide +kernel
/-- What is committed before the boundary is what was staged then (R14). -/
theorem test_commit_snapshot : after (.coreCommit 0) (sRun tMac) (fun t => (t.core 0).committed == some tCore.staged) = some true := by decide +kernel
theorem test_commit_clash : after (.macCommit 0 0) (sRun { tMac with staged := { MacConfig.reset with lanes := [(4, 2 ^ 31 + 255), (7, 2 ^ 31 + 255)] } })
    (fun t => ((t.mac 0).mapReject, (t.mac 0).committed)) = some (true, none) := by decide +kernel

theorem witness_RegistersComplete : coreOk 0 = true ∧ physOk 17 = true ∧ skinkOk 0 = true ∧ instOk 129 = true ∧ cwyPortOk 0 = true ∧ (RegRef.pwr 0 8).wf = true ∧
    tCore.staged.macroMap.length = 16 := by decide
theorem test_steps_latched :
    after (.macStepCountLo 0 0) (sRun { tMac with stats := { MacStats.reset with steps := 3 * 2 ^ 32 + 7 } })
      (fun t => (t.hub.hubRead, (t.mac 0).stats.stepsHi)) = some (7, 3) := by decide +kernel
/-- Reserved bits of a handle are dropped (Table 4.5). -/
theorem test_handle_write : after (.registerWrite (.core 0 (0x1000 + 16 * 63 + 4)) 0xFFFFFFFF) (sRun tMac)
    (fun t => ((t.core 0).staged.handle 63).word 1) = some 0xFFFFFF := by decide +kernel

/-! ### Moving data -/

/-- Core 0 with descriptor bytes in activation memory at handle 1, one `DMA` of them at work, and a window's handle 5. -/
def tQ : DmaOp := { desc := ⟨⟨0x100, 0, 64, true, 0⟩, 0⟩, ndesc := 1, next := 0, greg := 0, sig := 0, pc := 3 }

def sDma (b : List Byte) : State :=
  let s := tS 0 fun k => { k with dmaQ := [tQ], cfg := { k.cfg with handles := tHandles ++ [(5, ⟨0, 0, 0x10000, true, 4⟩), (6, ⟨0, 1, 0x10000, true, 4⟩)] } }
  { s with mem := s.mem.write (coreBase 0 + 0x100) b }

/-- A descriptor (Table 8.8): engine, element size code, handles, offsets, and `n` elements along dimension 0, stride 1. -/
def descBytes (en es src dst rec : Nat) (so dof ro n : Nat) : List Byte :=
  [BitVec.ofNat 8 (16 * en), BitVec.ofNat 8 (32 * es + 4 * es), BitVec.ofNat 8 src, BitVec.ofNat 8 dst, BitVec.ofNat 8 rec, 0, 0, 0] ++
  leBytes 4 so ++ leBytes 4 dof ++ leBytes 4 ro ++ leBytes 4 0 ++ leBytes 2 n ++ leBytes 2 1 ++ leBytes 2 1 ++ leBytes 6 0 ++
  leBytes 2 n ++ leBytes 2 1 ++ leBytes 2 1 ++ leBytes 2 0 ++ leBytes 2 1 ++ leBytes 2 1 ++ leBytes 16 0

/-- Two words from handle 2 to handle 3. -/
def moveBytes : List Byte := descBytes 0 3 2 3 0 0 8 0 2
def tMove : Desc := okOr ((sDma moveBytes).nextDesc 0 tQ) (descOf [] [])


/-- The places of elements in the local memory at handle 2, and at handle 3. -/
def tSrcAt (p : Nat × Nat) : Nat := coreBase 0 + 0x40200 + 4 * p.1
def tDstAt (p : Nat × Nat) : Nat := coreBase 0 + 0x60048 + 4 * p.2

/-- `Placed` as one test. -/
def placedBool (s : State) (c : Nat) (h : Handle) (off es n kind a : Nat) : Bool :=
  okIs (s.extents c { h := h, off := elemOff off n es } (esBytes es) kind) [(a, esBytes es)] && s.mem.badAt a (esBytes es) == none

theorem placed_of {s : State} {c : Nat} {h : Handle} {off es n kind a : Nat} (t : placedBool s c h off es n kind a = true) :
    Placed s c h off es n kind a := by
  simp only [placedBool, Bool.and_eq_true, beq_iff_eq] at t
  exact ⟨ok_of t.1, t.2⟩

def tPairs (s : State) (d : Desc) : List (Nat × Nat) := (tuples (validIndices (s.core 0) 0 d)).map fun t => (elementAt d.ss t, elementAt d.ds t)

def movesBool (s : State) (d : Desc) : Bool :=
  let u := s.suffer Harm.none
  let k := u.core 0
  let pairs := tPairs u d
  d.eng == 0 && !u.moveHeld 0 0 d && u.bufferFault 1 0 == none && !badHandles k [d.srcH, d.dstH] && !cachedKind3 u k [d.srcH, d.dstH] && !u.b4Move 0 d &&
    pairs.all (fun p => placedBool u 0 (k.cfg.handle d.srcH) d.srcOff d.srcEs p.1 rRD (tSrcAt p) &&
      placedBool u 0 (k.cfg.handle d.dstH) d.dstOff d.dstEs p.2 (if d.acc = 0 then rWR else rATOM) (tDstAt p)) &&
    pairs == [(0, 0), (1, 1)] && decide (d.acc = 0 ∨ ∀ p ∈ pairs, s32 (moved u.mem 3 p.1 (tSrcAt p)) + s32 (moved u.mem 3 p.2 (tDstAt p)) < 2 ^ 31)

/-- All that a move needs: its descriptor read, its elements placed, its places apart. -/
theorem witness_MovesComplete : let s := sDma moveBytes; let u := s.suffer Harm.none
    coreOk 0 = true ∧ Calm Harm.none ∧ (u.core 0).dmaQ = [tQ] ∧ u.nextDesc 0 tQ = .ok tMove ∧ movesBool s tMove = true ∧ (u.core 0).maySignal tQ.sig ∧
      Uncached u 0 { h := (u.core 0).cfg.handle tMove.srcH, off := 0 } ∧
      (∀ p ∈ tPairs u tMove, ∀ p' ∈ tPairs u tMove, tDstAt p + 4 ≤ tSrcAt p' ∨ tSrcAt p' + 4 ≤ tDstAt p) ∧
      (tPairs u tMove).Pairwise (fun p p' => tDstAt p + 4 ≤ tDstAt p' ∨ tDstAt p' + 4 ≤ tDstAt p) ∧ tQ.ndesc ≤ tQ.next + tMove.slots :=
  ⟨by decide +kernel, ⟨rfl, rfl⟩, by decide +kernel, ok_or (by decide +kernel), by decide +kernel, .inl rfl, .inl (by decide +kernel),
   by decide +kernel, by decide +kernel, by decide +kernel⟩

/-- The same under `ACC` 1, and as the first of two descriptors. -/
def accBytes : List Byte := moveBytes.set 0 4
def tQ2 : DmaOp := { tQ with ndesc := 2 }
def sDma2 : State := (sDma accBytes).setCore 0 { (sDma accBytes).core 0 with dmaQ := [tQ2] }
def tMove2 : Desc := okOr (sDma2.nextDesc 0 tQ2) (descOf [] [])

theorem witness_MovesComplete_next : let u := sDma2.suffer Harm.none
    (u.core 0).dmaQ = [tQ2] ∧ u.nextDesc 0 tQ2 = .ok tMove2 ∧ movesBool sDma2 tMove2 = true ∧ tMove2.acc = 1 ∧ tQ2.next + tMove2.slots < tQ2.ndesc :=
  ⟨by decide +kernel, ok_or (by decide +kernel), by decide +kernel⟩

theorem test_move : after (.move 0 Harm.none)
    { sDma moveBytes with mem := (sDma moveBytes).mem.write (coreBase 0 + 0x40200) [1, 2, 3, 4, 5, 6, 7, 8] }
    (fun t => (t.mem.readN (coreBase 0 + 0x60048) 8, (t.core 0).dmaQ.length)) = some ([1, 2, 3, 4, 5, 6, 7, 8], 0) := by decide +kernel

/-- What R288 refuses: an extension that the queue does not hold, reserved bits, and a misaligned side. -/
def refusedBool (bs : List Byte) : Bool :=
  let s := sDma bs
  let at' := fun (n : Nat) => ({ tQ.desc with off := (tQ.desc.off + 64 * n) % 2 ^ 32 } : Operand)
  coreOk 0 && (s.core 0).dmaQ == [tQ] && (s.core 0).part == some 0 && tQ.desc.h.kind == 0 &&
    (match s.readOp 0 (at' 0) 64, s.readOp 0 (at' 1) 64 with | .ok (b, t), .ok (x, v) => b == bs && x == List.replicate 64 0 && t == s && v == s | _, _ => false)
theorem witness_MovesComplete_extension : refusedBool (moveBytes.set 0 2) = true ∧ hasExt (moveBytes.set 0 2) = true ∧ tQ.ndesc ≤ tQ.next + 1 := by
  decide +kernel
theorem witness_MovesComplete_reserved : let b := moveBytes.set 2 0xC2; refusedBool b = true ∧ hasExt b = false ∧
    (sDma b).badDesc 0 (descOf b (List.replicate 64 0)) = true := by decide +kernel
theorem witness_MovesComplete_misaligned : let b := moveBytes.set 12 9; refusedBool b = true ∧ hasExt b = false ∧
    (sDma b).badDesc 0 (descOf b (List.replicate 64 0)) = false ∧ misaligned (descOf b (List.replicate 64 0)) = true := by decide +kernel
theorem test_move_misaligned : after (.move 0 Harm.none) (sDma (moveBytes.set 12 9))
    (fun t => ((t.part 0).faults.map FaultRec.status, (t.core 0).dmaQ)) = some ([0x0102], []) := by decide +kernel

/-! ### The memory-operation unit -/

/-- `FIL` of 8 bytes at handle 2 with s6 (Table 4.14). -/
def filWord : Nat := bits 0x40 120 + bits 2 93 + bits 8 29 + bits 6 24
/-- `CPY` of `n` bytes from handle 2 to the same handle, 4 bytes on. -/
def cpyWord (n : Nat) : Nat := bits 0x41 120 + bits 2 93 + bits 2 55 + bits 4 23 + n

def sFil (w : Nat) : State :=
  let s := tS w fun k => { k with regs := [(6, 0x04030201), (7, 0xFFFFFFFF), (8, 5)] }
  { s with mem := s.mem.write (coreBase 0 + 0x40200) [1, 2, 3, 4, 5, 6, 7, 8] }


/-- An instruction that the unit carries out as it issues; the same at the front of the unit's queue. -/
def wholeBool (s : State) (w : Nat) (sel : Nat → Bool) (checks : Core → Nat → List (Bool × Nat)) (op : Core → Nat → MemOp) : Bool :=
  issuesBool s 0 w sel checks freely && (s.core 0).memQ == [] && !s.memHeld 0 (op ((s.advance 0).core 0) w)

theorem carries_of {s : State} {w : Nat} {sel : Nat → Bool} {checks : Core → Nat → List (Bool × Nat)} {op : Core → Nat → MemOp}
    (h : wholeBool s w sel checks op = true) : Carries s 0 .whole sel checks op (op ((s.advance 0).core 0) w) (s.advance 0) := by
  simp only [wholeBool, Bool.and_eq_true, beq_iff_eq, Bool.not_eq_true'] at h
  exact ⟨rfl, .inl ⟨rfl, w, issues_of h.1.1, h.1.2, rfl, rfl⟩, h.2⟩

theorem carries_front (s : State) (o : MemOp) (sel : Nat → Bool) (checks : Core → Nat → List (Bool × Nat)) (op : Core → Nat → MemOp)
    (h : (s.core 0).memQ = [o]) (hs : sel o.w = true) (hc : s.memHeld 0 o = false) :
    Carries s 0 .perform sel checks op o (s.updCore 0 fun k => { k with memQ := [] }) := ⟨rfl, .inr ⟨rfl, [], h, hs, rfl⟩, hc⟩

/-- The operation of an instruction of `sFil`. -/
def tMem (op : Core → Nat → MemOp) (w : Nat) : MemOp := op (((sFil w).suffer Harm.none).advance 0 |>.core 0) w
def sQueued (n : Nat) (w : Nat) (o : MemOp) : State := let s := sFil w; s.updCore 0 fun k => { k with memQ := List.replicate n o }

theorem witness_FillAndCopyComplete_queue : let s := (sQueued 3 filWord (tMem filOp filWord)).suffer Harm.none
    Issues s 0 filWord (fun w => fOpcode w == 0x40) (filChecks s) freely ∧ (s.core 0).memQ.length < 4 ∧ (s.core 0).memQ ≠ [] ∧ memLength filWord ≠ 0 :=
  ⟨issues_of (by decide +kernel), by decide +kernel⟩
theorem witness_FillAndCopyComplete_full : let s := (sQueued 4 (cpyWord 8) (tMem filOp filWord)).suffer Harm.none
    Issues s 0 (cpyWord 8) (fun w => fOpcode w == 0x41) (cpyChecks s) freely ∧ 4 ≤ (s.core 0).memQ.length ∧ memLength (cpyWord 8) ≠ 0 :=
  ⟨issues_of (by decide +kernel), by decide +kernel⟩

/-- Behind a full queue, an instruction of no bytes. -/
theorem witness_FillAndCopyComplete_at_once : let s := (sQueued 4 (cpyWord 0) (tMem filOp filWord)).suffer Harm.none
    Issues s 0 (cpyWord 0) (fun w => fOpcode w == 0x41) (cpyChecks s) freely ∧ memLength (cpyWord 0) = 0 ∧ (s.core 0).maySignal (fSig (cpyWord 0)) :=
  ⟨issues_of (by decide +kernel), by decide +kernel, .inl (by decide +kernel)⟩
theorem test_cpy_at_once : after (.cpy 0 .issue Harm.none) (sQueued 4 (cpyWord 0) (tMem filOp filWord)) (fun t => ((t.core 0).memQ.length, (t.core 0).pc)) =
    some (4, 1) := by decide +kernel

def tFilExt (n : Nat) : List (Nat × Nat) := [(coreBase 0 + 0x40200, n)]
theorem witness_FillAndCopyComplete : let u := (sFil filWord).suffer Harm.none; let o := tMem filOp filWord; let v := u.advance 0
    Carries u 0 .whole (fun w => fOpcode w == 0x40) (filChecks u) filOp o v ∧ (v.core 0).maySignal o.sig ∧ field o.w 60 29 % 4 = 0 ∧
      field o.w 60 29 / 4 = 2 ∧ v.extents 0 o.dst 8 rWR = .ok (tFilExt 8) ∧ Writable v.mem (tFilExt 8) :=
  ⟨carries_of (by decide +kernel), .inl (by decide +kernel), by decide +kernel, by decide +kernel, ok_of (by decide +kernel),
   ⟨by decide +kernel, by decide +kernel⟩⟩
theorem witness_FillAndCopyComplete_performed : let o := tMem filOp filWord; let u := (sQueued 1 filWord o).suffer Harm.none
    Carries u 0 .perform (fun w => fOpcode w == 0x40) (filChecks u) filOp o (u.updCore 0 fun k => { k with memQ := [] }) :=
  carries_front _ _ _ _ _ rfl (by decide +kernel) (by decide +kernel)
theorem witness_FillAndCopyComplete_none : let w := cpyWord 0; let u := (sFil w).suffer Harm.none; let o := tMem cpyOp w; let v := u.advance 0
    Carries u 0 .whole (fun w => fOpcode w == 0x41) (cpyChecks u) cpyOp o v ∧ (v.core 0).maySignal o.sig ∧ field o.w 22 0 = 0 :=
  ⟨carries_of (by decide +kernel), .inl (by decide +kernel), by decide +kernel⟩
theorem witness_FillAndCopyComplete_fill_none : let w := filWord - bits 8 29; let u := (sFil w).suffer Harm.none; let o := tMem filOp w; let v := u.advance 0
    Carries u 0 .whole (fun w => fOpcode w == 0x40) (filChecks u) filOp o v ∧ (v.core 0).maySignal o.sig ∧ field o.w 60 29 / 4 = 0 :=
  ⟨carries_of (by decide +kernel), .inl (by decide +kernel), by decide +kernel⟩
/-- One beat, source and destination apart from its end on. -/
theorem witness_FillAndCopyComplete_copy : let w := cpyWord 4; let u := (sFil w).suffer Harm.none; let o := tMem cpyOp w; let v := u.advance 0
    Carries u 0 .whole (fun w => fOpcode w == 0x41) (cpyChecks u) cpyOp o v ∧ Uncached u 0 o.src ∧ field o.w 22 0 = 4 ∧
      v.extents 0 o.src 4 rRD = .ok (tFilExt 4) ∧ Readable v.mem (tFilExt 4) ∧ v.extents 0 o.dst 4 rWR = .ok [(coreBase 0 + 0x40204, 4)] ∧
      Writable v.mem [(coreBase 0 + 0x40204, 4)] :=
  ⟨carries_of (by decide +kernel), .inl (by decide +kernel), by decide +kernel, ok_of (by decide +kernel), by unfold Readable; decide +kernel,
   ok_of (by decide +kernel), ⟨by decide +kernel, by decide +kernel⟩⟩

theorem test_fil : after (.fil 0 .whole Harm.none) (sFil filWord) (fun t => t.mem.readN (coreBase 0 + 0x40200) 9) = some [1, 2, 3, 4, 1, 2, 3, 4, 0] := by
  decide +kernel
theorem test_fil_queued : after (.fil 0 .issue Harm.none) (sFil filWord) (fun t => ((t.core 0).memQ.length, (t.core 0).pc, t.mem.read (coreBase 0 + 0x40200))) =
    some (1, 1, 1) := by decide +kernel
theorem test_cpy_overlap : after (.cpy 0 .whole Harm.none) (sFil (cpyWord 8)) (fun t => t.mem.readN (coreBase 0 + 0x40200) 12) =
    some [1, 2, 3, 4, 1, 2, 3, 4, 5, 6, 7, 8] := by decide +kernel

/-- `ATM` (Table 4.14): operation, destination handle 2 + `off`, source handle `sh`, one element, s[V], s[RD]. -/
def atmWord (op off sh v rd : Nat) : Nat := bits 0x42 120 + bits op 96 + bits 2 90 + bits off 58 + bits sh 52 + bits 1 18 + bits v 13 + bits rd 8

theorem witness_AtomicsComplete : let w := atmWord 2 0 0 8 9; let u := (sFil w).suffer Harm.none; let o := tMem atmMem w; let v := u.advance 0
    let old := leNat (u.mem.readN (coreBase 0 + 0x40200) 4)
    Carries u 0 .whole (fun w => fOpcode w == 0x42 && (atmOp w == 2 || decide (5 ≤ atmOp w)))
        (fun k w => (decide (5 ≤ atmOp w), 0x0100) :: scalarAtmChecks u k w) atmMem o v ∧ (v.core 0).maySignal o.sig ∧ atmCount o.w ≠ 0 ∧
      v.extents 0 o.dst 4 rATOM = .ok (tFilExt 4) ∧ v.mem.badAt (coreBase 0 + 0x40200) 4 = none ∧
      -(2 ^ 31) ≤ s32 old + s32 o.v0.toNat ∧ s32 old + s32 o.v0.toNat < 2 ^ 31 :=
  ⟨carries_of (by decide +kernel), .inl (by decide +kernel), by decide +kernel, ok_of (by decide +kernel), by decide +kernel⟩
theorem witness_AtomicsComplete_swap64 : let w := atmWord 4 0 0 6 9; let u := (sFil w).suffer Harm.none; let o := tMem atmMem w; let v := u.advance 0
    Carries u 0 .whole (fun w => fOpcode w == 0x42 && (atmOp w == 4 || decide (5 ≤ atmOp w)))
        (fun k w => (decide (5 ≤ atmOp w), 0x0100) :: scalarAtmChecks u k w) atmMem o v ∧ atmCount o.w ≠ 0 ∧ v.extents 0 o.dst 8 rATOM = .ok (tFilExt 8) ∧
      v.mem.badAt (coreBase 0 + 0x40200) 8 = none :=
  ⟨carries_of (by decide +kernel), by decide +kernel, ok_of (by decide +kernel), by decide +kernel⟩
/-- Adding s6 = 0x04030201 to 0x7F000000 and more does not fit. -/
def sOver (w : Nat) : State := let s := sFil w; { s with mem := s.mem.write (coreBase 0 + 0x40200) [0, 0, 0, 0x7F] }
theorem witness_AtomicsComplete_overflow : let w := atmWord 2 0 0 6 9; let u := (sOver w).suffer Harm.none; let o := tMem atmMem w; let v := u.advance 0
    Carries u 0 .whole (fun w => fOpcode w == 0x42 && (atmOp w == 2 || decide (5 ≤ atmOp w)))
        (fun k w => (decide (5 ≤ atmOp w), 0x0100) :: scalarAtmChecks u k w) atmMem o v ∧ v.extents 0 o.dst 4 rATOM = .ok (tFilExt 4) ∧
      2 ^ 31 ≤ s32 (leNat (u.mem.readN (coreBase 0 + 0x40200) 4)) + s32 o.v0.toNat ∧ (u.core 0).part = some 0 :=
  ⟨carries_of (by decide +kernel), ok_of (by decide +kernel), by decide +kernel⟩
theorem witness_AtomicsComplete_vector : let w := atmWord 0 0 1 0 0; let u := (sFil w).suffer Harm.none; let o := tMem atmMem w; let v := u.advance 0
    let src := coreBase 0 + 0x100; let dst := coreBase 0 + 0x40200
    Carries u 0 .whole (fun w => fOpcode w == 0x42 && (atmOp w == 0 || decide (5 ≤ atmOp w)))
        (fun k w => (decide (5 ≤ atmOp w), 0x0100) :: vectorChecks u k w) atmMem o v ∧ (v.core 0).maySignal o.sig ∧ atmCount o.w = 1 ∧ o.src.h.kind ≤ 2 ∧
      v.extents 0 { o.src with off := (o.src.off + 4 * 0) % 2 ^ 32 } 4 rRD = .ok [(src, 4)] ∧ v.mem.badAt src 4 = none ∧
      v.extents 0 { o.dst with off := (o.dst.off + 4 * 0) % 2 ^ 32 } 4 rATOM = .ok [(dst, 4)] ∧ v.mem.badAt dst 4 = none ∧ src + 4 ≤ dst ∧
      -(2 ^ 31) ≤ s32 (leNat (u.mem.readN dst 4)) + s32 (leNat (u.mem.readN src 4)) ∧
      s32 (leNat (u.mem.readN dst 4)) + s32 (leNat (u.mem.readN src 4)) < 2 ^ 31 :=
  ⟨carries_of (by decide +kernel), .inl (by decide +kernel), by decide +kernel, by decide +kernel, ok_of (by decide +kernel), by decide +kernel,
   ok_of (by decide +kernel), by decide +kernel⟩
theorem witness_AtomicsComplete_vector_overflow : let w := atmWord 0 0 1 0 0
    let s := { sOver w with mem := (sOver w).mem.write (coreBase 0 + 0x100) [0, 0, 0, 1] }; let u := s.suffer Harm.none
    wholeBool u w (fun w => fOpcode w == 0x42 && (atmOp w == 0 || decide (5 ≤ atmOp w))) (fun k w => (decide (5 ≤ atmOp w), 0x0100) :: vectorChecks u k w)
        atmMem = true ∧
      ¬(s32 (leNat (u.mem.readN (coreBase 0 + 0x40200) 4)) + s32 (leNat (u.mem.readN (coreBase 0 + 0x100) 4)) < 2 ^ 31) := by decide +kernel

theorem witness_AtomicsComplete_none : let w := atmWord 2 0 0 8 9 - bits 1 18; let u := (sFil w).suffer Harm.none; let o := tMem atmMem w; let v := u.advance 0
    Carries u 0 .whole (fun w => fOpcode w == 0x42 && (atmOp w == 2 || decide (5 ≤ atmOp w)))
        (fun k w => (decide (5 ≤ atmOp w), 0x0100) :: scalarAtmChecks u k w) atmMem o v ∧ (v.core 0).maySignal o.sig ∧ atmCount o.w = 0 :=
  ⟨carries_of (by decide +kernel), .inl (by decide +kernel), by decide +kernel⟩
theorem witness_AtomicsComplete_vector_none : let w := atmWord 0 0 1 0 0 - bits 1 18; let u := (sFil w).suffer Harm.none; let o := tMem atmMem w; let v := u.advance 0
    Carries u 0 .whole (fun w => fOpcode w == 0x42 && (atmOp w == 0 || decide (5 ≤ atmOp w)))
        (fun k w => (decide (5 ≤ atmOp w), 0x0100) :: vectorChecks u k w) atmMem o v ∧ (v.core 0).maySignal o.sig ∧ atmCount o.w = 0 :=
  ⟨carries_of (by decide +kernel), .inl (by decide +kernel), by decide +kernel⟩
theorem test_scalar_add : after (.scalarAddInt32 0 .whole Harm.none) (sFil (atmWord 2 0 0 7 9))
    (fun t => (t.mem.readN (coreBase 0 + 0x40200) 4, (t.core 0).reg 9)) = some ([0, 2, 3, 4], 0x04030201) := by decide +kernel
theorem test_scalar_add_overflow : after (.scalarAddInt32 0 .whole Harm.none) (sOver (atmWord 2 0 0 6 9))
    (fun t => (t.mem.readN (coreBase 0 + 0x40200) 4, (t.part 0).faults.map FaultRec.status)) = some ([0, 0, 0, 0x7F], [0x0116]) := by decide +kernel
theorem test_scalar_add_reserved : after (.swap32 0 .whole Harm.none) (sFil (atmWord 5 0 0 7 9)) (fun t => (t.core 0).faultStatus) = some 0x0100 := by
  decide +kernel
/-- Source and destination overlap: the second element adds the first one's sum (R142). -/
theorem test_vector_overlap : after (.vectorAddInt32 0 .whole Harm.none) (sFil (atmWord 0 4 2 0 0 + bits 1 18)) (fun t => t.mem.readN (coreBase 0 + 0x40204) 8) =
    some [6, 8, 10, 12, 6, 8, 10, 12] := by decide +kernel

/-- `CLM` at handle 4 (Table 4.14): s6 the epoch, s8 the limit, an increment of `inc`, s9 the value and s10 the status. -/
def clmWord (inc : Nat) : Nat := bits 0x51 120 + bits 4 93 + bits 6 56 + bits 8 51 + bits inc 35 + bits 9 30 + bits 10 25

def sClm (inc : Nat) : State :=
  let s := sFil (clmWord inc)
  { s with mem := s.mem.write (storeBase 0 + 0x80) (leBytes 4 4 ++ leBytes 4 0x04030201) }
def tClm (inc : Nat) : MemOp := clmOp (((sClm inc).suffer Harm.none).advance 0 |>.core 0) (clmWord inc)

theorem witness_AtomicsComplete_claim : let u := (sClm 3).suffer Harm.none; let o := tClm 3; let v := u.advance 0
    Carries u 0 .whole (fun w => fOpcode w == 0x51) (clmChecks u) clmOp o v ∧ (v.core 0).maySignal o.sig ∧ field o.w 50 35 ≠ 0 ∧
      v.extents 0 o.dst 8 rATOM = .ok [(storeBase 0 + 0x80, 8)] ∧ v.mem.badAt (storeBase 0 + 0x80) 8 = none :=
  ⟨carries_of (by decide +kernel), .inl (by decide +kernel), by decide +kernel, ok_of (by decide +kernel), by decide +kernel⟩
theorem witness_AtomicsComplete_no_claim : let u := (sClm 0).suffer Harm.none; let o := tClm 0; let v := u.advance 0
    Carries u 0 .whole (fun w => fOpcode w == 0x51) (clmChecks u) clmOp o v ∧ field o.w 50 35 = 0 := ⟨carries_of (by decide +kernel), by decide +kernel⟩
theorem test_claim : after (.clm 0 .whole Harm.none) (sClm 3) (fun t => ((t.core 0).reg 9, (t.core 0).reg 10, t.mem.readN (storeBase 0 + 0x80) 4)) =
    some (4, 0, [7, 0, 0, 0]) := by decide +kernel
/-! ### The engines -/

/-- A record: its operation and fields (byte, value). -/
def recOf (en code : Nat) (fs : List (Nat × Nat)) : List Byte := leBytes 64 (fs.foldl (fun a f => a + f.2 * 2 ^ (8 * f.1)) (16 * en + code))

/-- The `DMA` unit of core 0 at an engine operation on `n` elements at 0x2000 of the window of handle 5, its output at 0x3000, its record at 0x1000 and `b` at
0x4000. -/
def sEng (en code es n : Nat) (fs : List (Nat × Nat)) (b : List Byte) : State :=
  let s := (sDma (descBytes en es 5 5 5 0x2000 0x3000 0x1000 n)).suffer Harm.none
  { s with mem := (s.mem.write 0x1000 (recOf en code fs)).write 0x4000 b }

def tTaken (s : State) (en : Nat) : Option (Desc × Op × State) :=
  match s.nextDesc 0 tQ with
  | .error _ => none
  | .ok d => match s.takeOp 0 en tQ.greg d with | .ready o t => some (d, o, t) | _ => none

/-- All that `EngineOperationsComplete` asks of an operation that its instance carries out at once, and a run without a fault. -/
def takesBool (s : State) (en code : Nat) (r : Recipe) : Bool :=
  match tTaken s en with
  | none => false
  | some (d, o, t) =>
    (s.core 0).dmaQ == [tQ] && d.eng == en && o.code == code && (o.refusal s r.second r.output r.plain (r.handles o) (r.own o)).isNone && !r.idle o &&
      (s.engine (instKey o.die en)).queue == [] && (o.run r t).2 == none && t.bufferFault 0 o.inst == none

def eRows : List (Nat × Nat × Recipe × Nat × Nat × List (Nat × Nat) × List Byte) :=
  [(1, 0, permuteRecipe, 3, 4, [(32, 0x4688), (34, 3)], []), (2, 0, gatherRecipe, 3, 4, [(32, 2), (33, 5), (36, 0x4000), (40, 2), (44, 1), (48, 1)], [1]),
   (2, 1, scatterRecipe, 3, 2, [(32, 2), (33, 5), (36, 0x4000), (40, 2), (44, 1), (48, 1)], [1]),
   (2, 2, compressRecipe, 3, 4, [(32, 2), (33, 5), (36, 0x5000), (40, 2), (52, 0x4100)], []), (3, 0, rescaleRecipe, 3, 2, [(32, 1), (33, 5), (36, 0x4000)], []),
   (3, 1, encb4Recipe, 1, 16, [(33, 5), (40, 0x4000)], []), (3, 2, decb4Recipe, 1, 16, [], []),
   (3, 3, quantRecipe, 3, 2, [(32, 1), (48, 0x3F800000)], []), (3, 4, dequantRecipe, 3, 2, [(32, 6), (48, 0x3F800000)], []), (3, 5, tos8Recipe, 3, 2, [], []),
   (3, 6, adaptRecipe, 1, 2, [(33, 5), (36, 0x4000), (44, 0x4100)], [0, 1]), (3, 7, clipstatRecipe, 1, 16, [(33, 5), (40, 0x4000)], []),
   (4, 0, softmaxRecipe, 3, 2, [(36, 2), (44, 0x3F800000)], []), (4, 1, rmsnormRecipe, 3, 2, [(33, 5), (36, 2), (40, 0x4000), (44, 0x3F800000)], []),
   (4, 2, layernormRecipe, 3, 2, [(33, 5), (36, 2), (40, 0x4000), (44, 0x3F800000)], []), (4, 3, rsumRecipe, 3, 2, [(36, 2), (44, 0x3F800000)], []),
   (4, 4, rmaxRecipe, 3, 2, [(36, 2), (44, 0x3F800000)], []),
   (4, 5, maskRecipe, 1, 256, [(33, 5), (36, 256), (40, 0x4000), (56, 0x4100)], []),
   (4, 6, gatedRecipe, 3, 256, [(33, 5), (36, 256), (40, 0x4000), (44, 0x3F800000), (48, 0x3F800000), (52, 0x3F800000), (56, 0x2000), (60, 0x4100)], []),
   (5, 0, spectrumFull, 2, 2, [(32, 2), (34, 1), (36, 1), (38, 5), (40, 0x4100), (44, 0x4000)], leBytes 4 (2^16)), (5, 1, keypointRecipe, 2, 3, [(58, 1)], []),
   (6, 0, generateRecipe, 3, 4, [(1, 4), (2, 5), (3, 8), (24, 0x5000), (28, 16), (32, 0x4000)], []),
   (6, 1, verifyRecipe, 3, 4, [(1, 1), (2, 5), (3, 8), (8, 0x4000), (12, 16)], leBytes 4 (blockCrc (List.replicate 16 0) 7) ++ leBytes 4 7)]


def rowState (x : Nat × Nat × Recipe × Nat × Nat × List (Nat × Nat) × List Byte) : State := sEng x.1 x.2.1 x.2.2.2.1 x.2.2.2.2.1 x.2.2.2.2.2.1 x.2.2.2.2.2.2

theorem takes_of {s : State} {en code : Nat} {r : Recipe} (h : takesBool s en code r = true) :
    ∃ d o t, tTaken s en = some (d, o, t) ∧ Takes s 0 en code r tQ d o t ∧ Serves s t .whole en o r ∧ r.idle o = false ∧ (o.run r t).2 = none ∧ t.bufferFault 0 o.inst = none := by
  unfold takesBool at h
  cases ht : tTaken s en with
  | none => simp [ht] at h
  | some v =>
    obtain ⟨d, o, t⟩ := v
    simp only [ht, Bool.and_eq_true, beq_iff_eq, Bool.not_eq_true', Option.isNone_iff_eq_none] at h
    obtain ⟨⟨⟨⟨⟨⟨⟨h1, h2⟩, h3⟩, h4⟩, h5⟩, h6⟩, h8⟩, h9⟩ := h
    unfold tTaken at ht
    cases hd : s.nextDesc 0 tQ with
    | error e => simp [hd] at ht
    | ok d' =>
      simp only [hd] at ht
      split at ht
      next o' t' hr =>
        simp only [Option.some.injEq, Prod.mk.injEq] at ht
        obtain ⟨rfl, rfl, rfl⟩ := ht
        exact ⟨d', o', t', rfl, ⟨rfl, ⟨[], h1⟩, hd, h2, hr, h3, h4⟩, ⟨.inl ⟨rfl, h6⟩, by simp [Op.starved, h8]⟩, h5, h8, h9⟩
      next => simp at ht

theorem takes_rows : ∀ x ∈ eRows, takesBool (rowState x) x.1 x.2.1 x.2.2.1 = true := by decide +kernel

/-- Every operation of every engine, taken and served at once, comes to its end. -/
theorem witness_EngineOperationsComplete : ∀ x ∈ eRows, ∃ d o t, Takes (rowState x) 0 x.1 x.2.1 x.2.2.1 tQ d o t ∧ Serves (rowState x) t .whole x.1 o x.2.2.1 ∧
    x.2.2.1.idle o = false ∧ (o.run x.2.2.1 t).2 = none ∧ t.bufferFault 0 o.inst = none ∧ ((rowState x).core 0).part = some 0 ∧ ((rowState x).core 0).maySignal tQ.sig := by
  intro x hx
  obtain ⟨d, o, t, -, h1, h2, h3, h4, h5⟩ := takes_of (takes_rows x hx)
  exact ⟨d, o, t, h1, h2, h3, h4, h5, rfl, .inl rfl⟩

/-- The elements `ns` of `b` bits read, and those of an output can be stored from 0x3000 on. -/
def readsBool (o : Op) (t : State) (b : Nat) (ns : List Nat) : Bool := isOk (o.gets (o.src t) o.d.srcOff b t ns)
def tPlace (b n : Nat) : Nat := 0x3000 + n * b / 8
def storesBool (o : Op) (t : State) (b : Nat) (ns : List Nat) : Bool :=
  ns.all (fun n => okIs (t.extentsAt o.die o.core { o.output t with off := (bitPlace (o.output t).off n b).1 } (elemBytes b) rWR) [(tPlace b n, elemBytes b)] &&
    t.mem.badAt (tPlace b n) (elemBytes b) == none) &&
  decide (ns.Pairwise fun n m => tPlace b n + elemBytes b ≤ tPlace b m ∨ tPlace b m + elemBytes b ≤ tPlace b n)

theorem storable_of {o : Op} {t : State} {b : Nat} {ns : List Nat} (h : storesBool o t b ns = true) : Storable o t (o.output t) b (tPlace b) ns := by
  simp only [storesBool, Bool.and_eq_true, List.all_eq_true, beq_iff_eq, decide_eq_true_eq] at h
  exact ⟨fun n hn => ok_of (h.1 n hn).1, fun n hn => (h.1 n hn).2, h.2.imp fun x => x.elim .inl (.inr ∘ .inl)⟩

/-- The elements that an operation of one output reads and writes, and what it reads of its record's operands. -/
def elemsBool (i bin : Nat) (ins : Op → State → List Nat) (bout : Nat) (outs : List Nat) (more : Op → State → Bool) : Bool :=
  match eRows[i]? with
  | none => false
  | some x =>
    match tTaken (rowState x) x.1 with
    | none => false
    | some (_, o, t) => o.ckin == 0 && o.ckout == false && readsBool o t bin (ins o t) && storesBool o t bout outs && more o t

def eSrcs (o : Op) (_ : State) : List Nat := o.elements.map Prod.snd
def eWords (o : Op) (t : State) (n : Nat) : Bool := isOk (o.words t (o.operand t 33 40) n)

theorem witness_EngineResults_elements :
    elemsBool 0 32 (fun o _ => (permutePairs o).map Prod.fst) 32 [0, 1, 2, 3] (fun _ _ => true) = true ∧
    elemsBool 1 32 (fun o _ => peepElements o [1, 0]) 32 [0, 1] (fun o t => okIs (o.words t (peepIndices o t) (peepCount o)) [1, 0]) = true ∧
    elemsBool 4 32 eSrcs 8 [0, 1] (fun o t => match o.bytes t (o.operand t 33 36) 64 with | .ok b => (rescaleOf b).sound && !(rescaleOf b).perLane && !chSigsrc o | _ => false) = true ∧
    elemsBool 7 32 eSrcs 8 [0, 1] (fun o t => isOk (allOk (fun e => chFactor o t e.1) o.elements)) = true ∧
    elemsBool 8 32 eSrcs 32 [0, 1] (fun o t => isOk (allOk (fun e => chFactor o t e.1) o.elements)) = true ∧
    elemsBool 9 32 eSrcs 8 [0, 1] (fun _ _ => true) = true ∧ elemsBool 12 32 eSrcs 32 [0, 1] (fun _ _ => true) = true ∧
    elemsBool 13 32 eSrcs 32 [0, 1] (fun o t => eWords o t 2) = true ∧ elemsBool 14 32 eSrcs 32 [0, 1] (fun o t => eWords o t 4) = true ∧
    elemsBool 15 32 eSrcs 32 [0] (fun _ _ => true) = true ∧ elemsBool 16 32 eSrcs 32 [0] (fun _ _ => true) = true ∧
    elemsBool 20 16 eSrcs 32 [0, 1, 2] (fun _ _ => true) = true ∧
    elemsBool 19 16 eSrcs 32 [0] (fun o t =>
      let fb : Operand := { h := o.handleAt t 38, off := o.u 44 }
      okIs (o.words t fb 1) [2 ^ 16] && isOk (o.word t fb 1) && isOk (o.words t { h := o.handleAt t 38, off := o.u 40 } 2)) = true := by decide +kernel

/-- One place of the window of handle 5 that a record's operand names. -/
def roomBool (o : Op) (t : State) (x : Operand) (n a : Nat) : Bool := okIs (t.extentsAt o.die o.core x n rWR) [(a, n)] && t.mem.badPart a n == none
def readBool (o : Op) (t : State) (x : Operand) (n a : Nat) : Bool := okIs (t.extentsAt o.die o.core x n rRD) [(a, n)] && t.mem.badAt a n == none

theorem room_of {o : Op} {t : State} {x : Operand} {n a : Nat} (h : roomBool o t x n a = true) : Room o t x n [(a, n)] := by
  simp only [roomBool, Bool.and_eq_true, beq_iff_eq] at h
  exact ⟨ok_of h.1, ⟨List.pairwise_singleton _ _, by simpa using h.2⟩⟩

theorem witness_EngineResults_outputs :
    elemsBool 2 32 eSrcs 32 [1, 0] (fun o t => okIs (o.words t (peepIndices o t) (peepCount o)) [1, 0]) = true ∧
    elemsBool 3 32 eSrcs 32 [0, 1] (fun o t => roomBool o t { h := o.handleAt t 33, off := o.u 36 } 8 0x5000 && roomBool o t (o.operand t 33 52) 4 0x4100) = true ∧
    elemsBool 5 8 eSrcs 8 [] (fun o t => o.groups.length == 1 && readBool o t (o.operand t 33 40) 1 0x4000 && s8E 0 != 31 && roomBool o t (o.output t) 9 0x3000) = true ∧
    elemsBool 11 8 eSrcs 8 [] (fun o t => o.groups.length == 1 && readBool o t (o.operand t 33 40) 1 0x4000) = true ∧
    elemsBool 6 8 eSrcs 8 (List.range 16) (fun o t => o.groups.length == 1 && readBool o t (o.primary t) 9 0x2000) = true ∧
    elemsBool 10 8 eSrcs 8 [] (fun o t => (match o.bytes t (o.operand t 33 36) 16 with | .ok b => (adaptOf b).sound | _ => false) &&
      (List.range 2).all fun j => readBool o t { h := o.src t, off := 0x2000 + j } 1 (0x2000 + j) && roomBool o t ((o.operand t 33 44).plus (8 * j)) 8 (0x4100 + 8 * j)) = true ∧
    elemsBool 17 8 (fun _ _ => []) 8 [] (fun o t => (match o.bytes t (o.operand t 33 40) 32 with | .ok b => (predictorOf b).sound | _ => false) &&
      roomBool o t (o.output t) 64 0x3000 && roomBool o t (o.operand t 33 56) 1 0x4100 && roomBool o t (o.operand t 33 40) 32 0x4000) = true ∧
    elemsBool 18 8 (fun _ _ => []) 8 [0, 255] (fun o t => isOk (o.bytes t (o.operand t 33 40) 32) && roomBool o t ((o.operand t 33 40).plus 20) 8 0x4014) = true := by
  decide +kernel

def genBool (o : Op) (t : State) : Bool :=
  toadLen o == 16 && checkBlocks o.cb 16 == [(0, 16)] && readBool o t (toadBase o t) 16 0x2000 && roomBool o t (o.operand t 2 32) 4 0x4000 &&
    roomBool o t { h := o.handleAt t 2, off := 0x5000 } 8 0x5000
def verBool (o : Op) (t : State) : Bool :=
  toadLen o == 16 && o.aexp == false &&
    okIs (o.bytes t { h := o.handleAt t 2, off := o.u 8 } 8) (leBytes 4 (blockCrc (List.replicate 16 0) 7) ++ leBytes 4 7)
def withOp (i : Nat) (f : Op → State → Bool) : Bool :=
  match eRows[i]? with
  | none => false
  | some x => match tTaken (rowState x) x.1 with | none => false | some (_, o, t) => f o t
/-- `GENERATE` and `VERIFY`: their region, its record's place, and the alive counter's. -/
theorem witness_EngineResults_checks : withOp 21 genBool = true ∧ withOp 22 verBool = true := by decide +kernel

def eRow (i : Nat) : State := match eRows[i]? with | none => State.reset | some x => rowState x

/-- An operation that its instance's queue holds back joins it, and waits for its turn (R240). -/
theorem witness_EngineOperationsComplete_waits : let s := (eRow 15).updEngine (instKey 16 4) fun x => { x with queue := [(0, 5)] }
    (s.engine (instKey 16 4)).queue ≠ [] ∧ (∀ n ∈ (s.engine (instKey 16 4)).queue, n.2 ≠ 0) ∧ (s.engine (instKey 16 4)).queued 0 < 8 ∧
      (s.engine (instKey 16 4)).turn 0 = false := by decide +kernel

theorem test_rsum : after (.rsum 0 .whole Harm.none)
    { eRow 15 with mem := (eRow 15).mem.write 0x2000 (leBytes 4 0x3F800000 ++ leBytes 4 0x40000000) }
    (fun t => (t.mem.readN 0x3000 4, (t.engine (instKey 16 4)).ops)) = some (leBytes 4 0x40400000, 1) := by decide +kernel
theorem test_scatter : after (.scatter 0 .whole Harm.none) { eRow 2 with mem := (eRow 2).mem.write 0x2000 [7, 0, 0, 0, 9] }
    (fun t => t.mem.readN 0x3000 5) = some [9, 0, 0, 0, 7] := by decide +kernel
theorem test_compress : after (.compress 0 .whole Harm.none) { eRow 3 with mem := (eRow 3).mem.write 0x2004 [7] }
    (fun t => (t.mem.readN 0x3000 4, t.mem.readN 0x5000 4, t.mem.readN 0x4100 1)) = some ([7, 0, 0, 0], [1, 0, 0, 0], [1]) := by decide +kernel
/-- A residue that disagrees in an engine faults with 0x0303, `UNIT` 5 (R249, R430). -/
theorem test_engine_residue : after (.rsum 0 .whole { Harm.none with err := some (0, 1) }) (eRow 15)
    (fun t => (t.part 0).faults.map fun f => (f.status, f.unit)) = some [(0x0303, 5)] := by decide +kernel
theorem test_engine_queued : after (.rmax 0 .issue Harm.none) (eRow 16)
    (fun t => ((t.engine (instKey 16 4)).queue, (t.core 0).dmaQ.length)) = some ([(0, 0)], 1) := by decide +kernel
theorem test_generate : after (.generate 0 .whole Harm.none) (eRow 21)
    (fun t => (t.mem.readN 0x4000 4, t.mem.readN 0x5000 8)) = some ([1, 0, 0, 0], leBytes 4 (blockCrc (List.replicate 16 0) 0) ++ [0, 0, 0, 0]) := by
  decide +kernel

/-! ### A move through a B4 window -/

/-- Sixteen codes from the window of handle 5 to the plaza of die 17, window 2 in `B4` mode, groups of 16; the scale is at 0x4000, and with `stat` the group's
statistics entry at 0x4100. -/
def sCross (scale : Nat) (stat : Bool) : State :=
  let d := (descBytes 0 1 5 7 5 0x2000 0x100 0x4000 16).set 5 (if stat then 3 else 1) |>.set 21 0x41
  let s := sDma d
  let s := s.updCore 0 fun k => { k with cfg := { k.cfg with handles := k.cfg.handles ++ [(7, ⟨0, 2, 0x10000, true, 4⟩)] } }
  { s with parts := [(0, { tPart with windows := [(0, tWin), (2, { tWin with target := 1, unit := 1, pages := [2 ^ 40 + 2 ^ 30], crossing := 1 })] })],
           mem := s.mem.write 0x4000 [BitVec.ofNat 8 scale] }

def tCross (scale : Nat) (stat : Bool) : Desc := okOr ((sCross scale stat).nextDesc 0 tQ) (descOf [] [])
def tWin2 (scale : Nat) (stat : Bool) : Window := (sCross scale stat).window 0 2
def crossBool (scale : Nat) (stat : Bool) : Bool :=
  let u := (sCross scale stat).suffer Harm.none
  let k := u.core 0
  let d := tCross scale stat
  let w := tWin2 scale stat
  let pairs := tPairs u d
  let gs := groupsOf (groupSize w.gsize) (chunks 16 17 pairs)
  let entry : Operand := { h := k.cfg.handle d.recH, off := d.statOff }
  k.dmaQ == [tQ] && k.part == some 0 && isOk (u.nextDesc 0 tQ) && d.eng == 0 && d.stat == stat && !u.moveHeld 0 tQ.greg d && u.bufferFault 1 0 == none &&
    !badHandles k [d.srcH, d.dstH, d.recH] && !u.cached 0 && u.moveWindow 0 d == some w && w.cross == 1 && gs.length == 1 &&
    pairs == (List.range 16).map (fun i => (i, i)) &&
    pairs.all (fun e => u.parted 0 d e && placedBool u 0 (k.cfg.handle d.srcH) d.srcOff 1 e.1 rRD (0x2000 + e.1) &&
      placedBool u 0 (k.cfg.handle d.dstH) d.dstOff 1 e.2 rWR (2 ^ 40 + 2 ^ 30 + 0x100 + e.2)) &&
    okIs (u.extents 0 { h := k.cfg.handle d.recH, off := d.recOff } 1 rRD) [(0x4000, 1)] && leNat (u.mem.readN 0x4000 1) == scale &&
    okIs (u.extents 0 entry 8 rRD) [(0x4100, 8)] && okIs (u.extents 0 entry 5 rWR) [(0x4100, 5)] && u.mem.badAt 0x4100 8 == none &&
    (s8E scale == 31 || (wireDecode false false 16 (plainGroup scale (encodeGroup scale false (List.replicate 16 (a8 false 0))))).isSome)

theorem witness_CrossingCompletes : crossBool 0 false = true ∧ crossBool 0 true = true ∧ s8E 0 ≠ 31 := by decide +kernel
/-- A scale whose `E` is 31. -/
theorem witness_CrossingCompletes_special : crossBool 0xF8 false = true ∧ s8E 0xF8 = 31 := by decide +kernel
theorem test_cross : after (.move 0 Harm.none) (sCross 0xF8 false) (fun t => ((t.part 0).faults.map fun f => (f.status, f.unit))) = some [(0x0120, 6)] := by
  decide +kernel
theorem test_cross_counts : after (.move 0 Harm.none) (sCross 0 true) (fun t => (mget (t.part 0).counters 0 cB4Groups, leNat (t.mem.readN 0x4100 4))) =
    some (1, 16) := by decide +kernel

/-! ### The Skink engines -/

/-- One INT8 product: M, N, K 1, operands at handle 5, drain as given. -/
def tTile8 (drain k : Nat) : Tile :=
  { core := 0, part := 0, atype := 3, btype := 3, sp24 := false, outer := false, sigw := false, init := 0, drain := drain, m := 1, n := 1, k := k,
    accBase := 2, a := ⟨⟨0, 0, 0x10000, true, 4⟩, 0x40⟩, aRs := 1, b := ⟨⟨0, 0, 0x10000, true, 4⟩, 0x80⟩, bRs := 1,
    c := ⟨⟨0, 2, 0x10000, true, 4⟩, 0⟩, cRs := 1, pre := Operand.reset, preRs := 0, x := Operand.reset, biOff := 0, sOff := 0, sig := 0, pc := 4 }

/-- A window of the plaza of die 16, its page at the plaza's start. -/
def tPlaza : Window := { tWin with target := 1, unit := 0, pages := [2 ^ 40] }

def sSkink (x : Skink) : State :=
  let s := (tS 0 fun k => { k with sktOut := 1 }).suffer Harm.none
  { s with skinks := [(3, x)], parts := [(0, { tPart with windows := [(0, tWin), (2, tPlaza)] })], mem := (s.mem.write 0x40 [0xFD]).write 0x80 [7] }

def tSkink (t : Tile) : Skink := { Skink.reset with enable := true, queue := [t], acc := [(5, 1)] }

/-- What a tile of integers needs: it may start, its operands read, and each entry fits at σ 0. -/
def tileBool (t : Tile) : Bool :=
  let s := sSkink (tSkink t)
  skinkOk 3 && (s.skink 3).queue == [t] && (s.skink 3).mayStart t && (s.part 0).job == some tJob && tJob.cores.all (fun c => (s.core c).sktQ == []) && s.mem.badPart (skinkBase 3 + 4 * t.base) (4 * t.size) == none &&
    okIs (s.tileRecord 3 t) [] && okIs (s.tileInit 3 t) [0] && isOk (allOk (s.rowA 19 t) (List.range 1)) && isOk (allOk (s.colB 19 t) (List.range 1)) &&
    (match s.rowA (skinkDie 3) t 0, s.colB (skinkDie 3) t 0 with | .ok a, .ok b => chainI (tileChain (s.skink 3) t).1 a b 0 == some (-21) | _, _ => false)

theorem witness_TilesComplete : tileBool (tTile8 0 1) = true ∧ (tTile8 0 1).isEmpty = false ∧ (tTile8 0 1).isInt = true ∧ tileBool (tTile8 1 1) = true := by
  decide +kernel
theorem witness_TilesComplete_empty : (tTile8 0 0).isEmpty = true ∧ (tSkink (tTile8 0 0)).mayStart (tTile8 0 0) = true := by decide +kernel
theorem test_tile : after (.skinkTile 3 Harm.none) (sSkink (tSkink (tTile8 0 1))) (fun t => (mget (t.skink 3).acc 0 32, (t.skink 3).tiles, (t.core 0).sktOut)) =
    some (0xFFFFFFEB, 1, 0) := by decide +kernel
/-- 1.0 × 2.0 in BF16 (R169, R222). -/
theorem test_tile_float : chainF { tTile8 0 1 with atype := 0, btype := 0 } [0x3F80] [(0x4000, 0)] 0 = 0x40000000 := by decide +kernel

def tDraining (sg : Bool) : SkinkDrain := { tile := { tTile8 1 1 with sigw := sg, sOff := 0x100 }, sigma := 6, record := [] }
def sDraining (sg : Bool) : State := sSkink { Skink.reset with enable := true, state := 3, draining := [tDraining sg], acc := [(32, 0x04030201)] }

theorem witness_TilesComplete_drain : let s := sDraining true; let d := tDraining true; let t := d.tile
    skinkOk 3 = true ∧ (s.skink 3).draining = [d] ∧ (s.skink 3).acc ≠ [] ∧ s.drainHeld 3 d = false ∧ (s.core t.core).maySignal t.sig ∧
      s.mem.badAt (skinkBase 3 + 4 * t.base) (4 * t.size) = none ∧ t.drain = 1 ∧ t.size = 1 ∧
      s.extentsAt (skinkDie 3) t.core (t.c.plus 0) 4 rWR = .ok [(2 ^ 40, 4)] ∧ Writable s.mem [(2 ^ 40, 4)] ∧
      s.extentsAt (skinkDie 3) t.core (t.c.plus ((t.sOff : Int) - t.c.off)) 1 rWR = .ok [(2 ^ 40 + 0x100, 1)] ∧ Writable s.mem [(2 ^ 40 + 0x100, 1)] ∧
      Apart [(2 ^ 40, 4)] [(2 ^ 40 + 0x100, 1)] ∧ Apart [(2 ^ 40, 4)] [(skinkBase 3, 2 ^ 18)] :=
  ⟨by decide +kernel, by decide +kernel, by decide +kernel, by decide +kernel, .inl rfl, by decide +kernel, by decide, by decide, ok_of (by decide +kernel),
   ⟨by decide +kernel, by decide +kernel⟩, ok_of (by decide +kernel), ⟨by decide +kernel, by decide +kernel⟩, by unfold Apart; decide +kernel,
   by unfold Apart; decide +kernel⟩
theorem test_skink_drain : after (.skinkDrain 3 Harm.none) (sDraining true) (fun t => (t.mem.readN (2 ^ 40) 4, t.mem.read (2 ^ 40 + 0x100), (t.skink 3).state)) =
    some ([1, 2, 3, 4], 6, 0) := by decide +kernel

/-! ### Beats, links, package DRAM -/

def sBeat (f : Window → Window) (used : Map Nat) : State :=
  let s := tS 0 id
  { s with parts := [(0, { tPart with windows := [(0, f tWin)], credits := used })] }
def tBeat : List (Nat × Nat) := [(0x1040, 2)]
def tKey : Nat := creditKey 0 (coreDie 0) (creditTower 0x1040)

theorem witness_RemoteBeatsComplete : let u := (sBeat id []).suffer Harm.none; let w := u.window 0 0
    coreOk 0 = true ∧ winOk 0 = true ∧ (u.core 0).part = some 0 ∧ u.jobState 0 < 3 ∧ u.windowAt (coreDie 0) 0 0 0x1040 2 rWR = .ok tBeat ∧
      ownScratch 0 0x1040 = false ∧ mget (u.part 0).credits 0 tKey < w.credits ∧ w.cross ≠ 1 ∧ Writable u.mem tBeat :=
  ⟨by decide, by decide, by decide +kernel, by decide +kernel, ok_of (by decide +kernel), by decide +kernel, by decide +kernel, by decide +kernel, ⟨by decide +kernel, by decide +kernel⟩⟩
theorem witness_RemoteBeatsComplete_full : let u := (sBeat id [(tKey, 256)]).suffer Harm.none; let w := u.window 0 0
    u.windowAt (coreDie 0) 0 0 0x1040 2 rWR = .ok tBeat ∧ w.credits ≤ mget (u.part 0).credits 0 tKey := ⟨ok_of (by decide +kernel), by decide +kernel⟩
theorem witness_RemoteBeatsComplete_coded : let u := (sBeat (fun w => { w with crossing := 1 }) []).suffer Harm.none; let w := u.window 0 0
    u.windowAt (coreDie 0) 0 0 0x1040 2 rWR = .ok tBeat ∧ w.cross = 1 ∧ coreDie 0 ≠ dieOfAddr (firstAddr tBeat) ∧ s8E 0 ≠ 31 ∧ 2 ≤ groupSize w.gsize ∧
      (wireDecode w.zr w.asign 2 (plainGroup 0 (encodeGroup 0 w.asign (([7, 0xF9] : List Byte).map (a8 w.asign))))).isSome = true :=
  ⟨ok_of (by decide +kernel), by decide +kernel⟩
/-- A bit that flips on the way: the beat's check disagrees. -/
theorem witness_RemoteBeatsComplete_check : beatChecks 0x1040 [7 ^^^ 1, 9 ^^^ 0] ≠ beatChecks 0x1040 [7, 9] := by decide +kernel
theorem witness_RemoteBeatsComplete_refused : errIs ((sBeat (fun w => { w with rights := 1 }) []).windowAt (coreDie 0) 0 0 0x1040 2 rWR) 0x0403 = true := by
  decide +kernel
theorem witness_RemoteBeatsComplete_read : let u := (sBeat id []).suffer Harm.none
    u.cached 0 = false ∧ u.windowAt (coreDie 0) 0 0 0x1040 2 rRD = .ok tBeat ∧ Readable u.mem tBeat ∧ (u.window 0 0).cross ≠ 1 :=
  ⟨by decide +kernel, ok_of (by decide +kernel), by unfold Readable; decide +kernel, by decide +kernel⟩
theorem witness_RemoteBeatsComplete_wide : let u := (sBeat (fun w => { w with crossing := 2 }) []).suffer Harm.none
    (u.window 0 0).cross = 2 ∧ dieOfAddr (firstAddr tBeat) ≠ coreDie 0 ∧ u.windowAt (coreDie 0) 0 0 0x1040 2 rRD = .ok tBeat :=
  ⟨by decide +kernel, by decide +kernel, ok_of (by decide +kernel)⟩
theorem witness_RemoteBeatsComplete_faults : ((sBeat (fun w => { w with isOpen := false }) []).window 0 0).isOpen = false ∧
    ((sBeat id []).window 0 0).isOpen = true ∧ ((sBeat id []).window 0 0).size ≤ 0x10000 ∧
    ((sBeat (fun w => { w with rights := 2 }) []).window 0 0).rights.testBit 0 = false := by decide +kernel
theorem witness_RemoteBeatsComplete_credit : partOk 0 = true ∧ creditOk 255 0 7 = true ∧ creditOk 256 255 0 = true := by decide
/-- Into the die's own store: the place of four bytes there, a credit of the core's local pool left, and none left; and a job that stops. -/
theorem witness_RemoteBeatsComplete_store : let u := (sBeat id [(poolKey 0, 3)]).suffer Harm.none
    let place := localExtents (storeBase (coreDie 0)) (2 ^ 26) 2 0x40 4
    u.jobState 0 < 3 ∧ u.cached 0 = false ∧ mget (u.part 0).credits 0 (poolKey 0) < 4 ∧ Writable u.mem place ∧
      4 ≤ mget ((sBeat id [(poolKey 0, 4)]).part 0).credits 0 (poolKey 0) :=
  ⟨by decide +kernel, by decide +kernel, by decide +kernel, ⟨by decide +kernel, by decide +kernel⟩, by decide +kernel⟩
def sCached : State := let s := sBeat id []; { s with parts := [(0, { tPart with job := some { tJob with cached := true } })] }
theorem witness_RemoteBeatsComplete_cached : (sCached.core 0).part = some 0 ∧ sCached.jobState 0 < 3 ∧ sCached.cached 0 = true := by decide +kernel
def sStopping : State := let s := sBeat id []; { s with parts := [(0, { tPart with job := some { tJob with state := 3 } })] }
theorem witness_RemoteBeatsComplete_stopping : (sStopping.core 0).part = some 0 ∧ 3 ≤ sStopping.jobState 0 := by decide +kernel
theorem test_pool : after (.remoteWrite 0 256 0x40 [1, 2] [] none Harm.none) (sBeat id [(poolKey 0, 3)])
    (fun t => (t.mem.readN (storeBase 0 + 0x40) 2, mget (t.part 0).credits 0 (poolKey 0))) = some ([1, 2], 4) := by decide +kernel
theorem test_pool_empty : after (.remoteWrite 0 256 0x40 [1, 2] [] none Harm.none) (sBeat id [(poolKey 0, 4)])
    (fun t => t.mem.readN (storeBase 0 + 0x40) 2) = some [0, 0] := by decide +kernel
theorem test_remote_past_end : after (.remoteRead 0 0 0x10000 8 [] Harm.none) (sBeat id []) (fun t => (t.part 0).faults.map FaultRec.status) = some [0x0402] := by
  decide +kernel
theorem test_remote_write : after (.remoteWrite 0 0 0x1040 [7, 9] [] none Harm.none) (sBeat id [])
    (fun t => (t.mem.readN 0x1040 2, mget (t.part 0).credits 0 tKey)) = some ([7, 9], 1) := by decide +kernel
theorem test_remote_check : after (.remoteWrite 0 0 0x1040 [7, 9] [] none { Harm.none with beat := some (0, true, [1]) }) (sBeat id [])
    (fun t => (t.mem.readN 0x1040 2, (t.part 0).faults.map fun f => (f.status, f.unit))) = some ([0, 0], [(0x0308, 6)]) := by decide +kernel

/-- Link 7 up both ways. -/
def sLink (d : LinkDir) : State := { State.reset with links := [(linkKey 7 false, d), (linkKey 7 true, { LinkDir.reset with state := 2, lanes := 64 })] }
def tDir : LinkDir := { LinkDir.reset with state := 2, lanes := 64 }
def tSent : SentFlit := { vc := 1, lcred := 0x4003, payload := [9] }
def tFlit (flips : List Nat) : Flit := { vc := 1, lcred := 0x4003, payload := [9], flips := flips, cause := none }

theorem witness_LinksAndTowersComplete : let s := sLink tDir; let x := s.link (linkKey 7 false); let back := s.link (linkKey 7 true)
    linkOk 7 = true ∧ x.flows = true ∧ back.flows = true ∧ x.replaying = false ∧ x.kept.length < 32 ∧ (x.expect + 64 - x.sent % 64) % 64 = 0 := by decide +kernel
set_option maxRecDepth 1000000 in
theorem witness_LinksAndTowersComplete_damaged :
    let bs := flipBits (flitBytes tSent 0 63 false) [128]
    flitCrc bs ≠ leNat ((bs.drop 4).take 4) := by decide +kernel
theorem witness_LinksAndTowersComplete_unacknowledged : let s := sLink { tDir with kept := List.replicate 32 tSent }
    (s.link (linkKey 7 false)).flows = true ∧ 32 ≤ (s.link (linkKey 7 false)).kept.length := by decide +kernel
theorem witness_LinksAndTowersComplete_replay : let x := { tDir with kept := [tSent], sent := 1, replaying := true }
    x.flows = true ∧ x.replaying = true ∧ x.kept.drop x.resend = [tSent] ∧ tSent.lcred < 2 ^ 16 ∧ tSent.vc < 4 := by decide
theorem witness_LinksAndTowersComplete_discarded : let x := { tDir with expect := 2 }
    x.flows = true ∧ x.replaying = false ∧ x.kept.length < 32 ∧ (x.expect + 64 - x.sent % 64) % 64 ≠ 0 := by decide
theorem witness_LinksAndTowersComplete_down : ({ tDir with retrain := 1 } : LinkDir).flows = false := by decide
theorem witness_LinksAndTowersComplete_acknowledged : let x := { tDir with kept := List.replicate 32 tSent, sent := 63 }
    1 ≤ x.kept.length ∧ x.kept.length ≤ 32 ∧ x.sent < 64 ∧ x.replaying = false := by decide
theorem witness_LinksAndTowersComplete_lanes : let d := { tDir with failing := [1, 9], retrain := 4 }; let e := { d with spares := [3, 4, 5] }
    let f := { e with dead := List.range 31 }
    d.failing ≠ [] ∧ 4 ≤ d.retrain ∧ d.lanes = 64 ∧ d.spares.length + d.failing.length ≤ 4 ∧ 4 < e.spares.length + e.failing.length ∧
      32 ≤ 64 - (e.dead ++ e.failing).length ∧ 64 - (f.dead ++ f.failing).length < 32 := by decide
set_option maxRecDepth 1000000 in
theorem test_flit : after (.flit 7 false (tFlit [])) (sLink tDir)
    (fun t => ((t.link (linkKey 7 false)).expect, (t.link (linkKey 7 false)).kept.length, mget (t.link (linkKey 7 true)).lcred 0 1)) = some (1, 1, 3) := by
  decide +kernel
set_option maxRecDepth 1000000 in
theorem test_flit_damaged : after (.flit 7 false (tFlit [128])) (sLink tDir)
    (fun t => ((t.link (linkKey 7 false)).expect, (t.link (linkKey 7 false)).crcErrs, (t.link (linkKey 7 false)).charge)) = some (0, 1, [(0, 1)]) := by
  decide +kernel

def sTower (t : Tower) : State := { State.reset with towers := [(2, t)] }
def tTower : Tower := { Tower.reset with inService := List.range 16, rowReads := [(37, 4)] }

/-- On a device whose channel 5 of tower 2 has a spare row (how many a channel has, the spec does not give). -/
theorem witness_LinksAndTowersComplete_remap (h : Config.spareRows 2 5 ≠ 0) : let s := sTower tTower
    towerOk 2 = true ∧ 4 ≤ mget (s.tower 2).rowReads 0 37 ∧ 37 % 32 ∈ (s.tower 2).inService ∧ (s.tower 2).rowsLeft 2 (37 % 32) ≠ 0 :=
  ⟨by decide, by decide +kernel, by decide +kernel, by simpa [sTower, State.tower, Tower.rowsLeft, tTower, Tower.reset, mget] using h⟩

/-- A row due in channel 5, whose spare rows are all in use. -/
def tSpent (used : Bool) : Tower := { tTower with remappedRows := List.replicate (Config.spareRows 2 5) 5, spareUsed := used }
theorem witness_LinksAndTowersComplete_channel (used : Bool) : (∃ e ∈ (tSpent used).rowReads, e.1 % 32 = 5 ∧ 4 ≤ e.2) ∧ 5 ∈ (tSpent used).inService ∧
    (tSpent used).rowsLeft 2 5 = 0 ∧ 5 ∉ (tSpent used).failed ∧ (tSpent used).spareUsed = used :=
  ⟨⟨(37, 4), by simp [tSpent, tTower], by decide⟩, by simp [tSpent, tTower], by simp [Tower.rowsLeft, tSpent, tTower, Tower.reset], by simp [tSpent, tTower, Tower.reset], rfl⟩
theorem witness_LinksAndTowersComplete_patrol : let s := sTower tTower
    9 * 64 < (s.tower 2).channels * 3 * 2 ^ 30 ∧ towerBase 2 + 9 * 64 ∉ s.mem.bad ∧ (s.tower 2).channels * 3 * 2 ^ 30 ≤ 3 * 2 ^ 28 * 64 := by decide +kernel
theorem test_dram_patrol : after (.dramPatrol 2 9 3) (sTower tTower) (fun t => ((t.tower 2).uncorr, (t.mem.badAt (towerBase 2 + 9 * 64) 64).isSome)) =
    some (1, true) := by decide +kernel

/-! ### Ports and time -/

def tSess : Session := { Session.reset with port := 16, addr := [10, 0, 0, 2], udp := 9, part := 0, tenant := 5 }

/-- Ring 3 of partition 0, 8 slots. -/
def tRing : Ring := { Ring.reset with part := 0, size := 8, subHead := 2, subTail := 4, cmpHead := 1, cmpTail := 3 }

/-- The addresses of port 16: 10.0.0.1, and 16 bytes 9. -/
def netDict : Map (List Byte) := [(dkey (portIndex 16) 0 5, List.replicate 16 9), (dkey (portIndex 16) 0 6, leBytes 4 0x0A000001)]

/-- Ports 3 and 16 carry frames; partition 0 exists, of tenant 5, whose session 1 is `q` and ring 3 as above. -/
def sNet (q : Session) (f : Partition → Partition) : State :=
  let s := tS 0 id
  { s with slp := { Slp.reset with sessions := [(1, q)], ports := [(3, { Port.reset with link := 2 }), (16, { Port.reset with link := 2 })] },
           parts := [(0, f tPart)], rings := [(3, tRing)], dict := mset netDict [] (dkey 0x2000 0 2) (leBytes 4 5),
           tenants := [(0, { tenant := 5, rights := 7, parts := 0xFFFF, key := [] })], spares := { Spares.reset with owners := [(0, 5)] } }

def sPort : State := sNet tSess id

/-- The same with MACsec on: transmit association 1, receive association 2 with the lowest packet number 5. -/
def sSec : State :=
  let s := sPort
  { s with dict := mset s.dict [] (dkey (portIndex 16) 0 9) [1],
           slp := { s.slp with ports := [(16, { Port.reset with link := 2, txSa := some (1, [8], 77, 8), rxSas := [(2, [5], 66, 5, 0)] })] } }
/-- A frame under receive association 2. -/
def tWrap (pn : Nat) : Wrap := { vlan := none, sec := some (2, 66, pn, [5]) }

theorem witness_FramesComplete_addresses : let s := sPort
    portOk 16 = true ∧ s.portLive 16 = true ∧ s.portVal 16 6 = 0x0A000001 ∧ s.portV6 16 = List.replicate 16 9 ∧ frameBytes (tWrap 5) 48 ≤ s.portVal 16 8 + 54 ∧ s.macsecOn 16 = false ∧
      Wrap.none.sec = none ∧ s.vlanOk 16 Wrap.none = true ∧ (tWrap 5).sec ≠ none ∧ s.vlanOk 16 { Wrap.none with vlan := some 7 } = false := by decide +kernel
/-- A frame one byte too long: 18 bytes of the MAC, 20 of IPv4 and 8 of the echo stand before and after its data. -/
theorem witness_FramesComplete_long : sPort.portVal 16 8 + 54 < frameBytes Wrap.none (ipHeader (v4Bytes 0x0A000001) + 8 + (sPort.portVal 16 8 + 9)) := by decide +kernel
theorem witness_FramesComplete_macsec : let s := sSec
    s.portLive 16 = true ∧ s.portVal 16 6 ≠ 0 ∧ s.portV6 16 ≠ [] ∧ s.macsecOn 16 = true ∧ (s.port 16).txSa = some (1, [8], 77, 8) ∧
      (s.port 16).validates (tWrap 5) = true ∧ s.vlanOk 16 (tWrap 5) = true ∧ (s.port 16).validates (tWrap 4) = false ∧ (s.port 16).validates { tWrap 5 with sec := some (2, 66, 5, []) } = false ∧
      s.vlanOk 16 { tWrap 5 with vlan := some 7 } = false := by decide +kernel
theorem witness_FramesComplete_link : let s := { sPort with hub := { sPort.hub with startPhase := 11, warmCause := 2 } }
    s.hub.phase = .running ∧ s.portVal 16 1 ≠ 0 ∧ s.roleFits 16 2 = true ∧ s.portVal 16 2 = 0 ∧ sPort.hub.startPhase ≠ 11 ∧ s.roleFits 16 3 = false := by
  decide +kernel
theorem test_arp : after (.arpRequest 16 (tWrap 5) 0x0A000001) sSec (fun t => (t.slp.wire.map fun x => x.sec.map fun a => (a.2.1 == [8], a.1, a.2.2.2), (t.port 16).txSa.map fun a => a.2.2.2,
    (t.port 16).rxSas.map fun e => e.2.2.2.1)) = some ([some (true, 1, 8)], some 9, [6]) := by decide +kernel
theorem test_long_frame : after (.echoRequest 16 Wrap.none (v4Bytes 0x0A000001) (List.replicate (sPort.portVal 16 8 + 9) 0)) sPort
    (fun t => (t.slp.wire, (t.port 16).discarded)) = some ([], 1) := by decide +kernel
theorem test_replayed : after (.arpRequest 16 (tWrap 4) 0x0A000001) sSec (fun t => (t.slp.wire, (t.port 16).macsecDiscarded)) = some ([], 1) := by decide +kernel
theorem test_discard_counts : after (.discardedFrame 16 Wrap.none .fcs) sPort (fun t => (t.port 16).discarded) = some 1 := by decide +kernel

def sTime (f : AsTime → AsTime) : State := { sPort with hub := { sPort.hub with time := f AsTime.reset, tick := 12500009 } }

theorem witness_FramesComplete_time : let s := sTime fun t => { t with syncSeen := true, valid := true, lastSync := 9 }
    s.portLive 16 = true ∧ s.macsecOn 16 = false ∧ s.vlanOk 16 Wrap.none = true ∧ s.timePort = 16 ∧ s.hub.time.syncSeen = true ∧ s.hub.time.valid = true ∧
      s.hub.time.lastSync + 12500000 ≤ s.hub.tick ∧ portOk 3 = true ∧ s.portLive 3 = true ∧ s.macsecOn 3 = false ∧ s.vlanOk 3 Wrap.none = true ∧
      s.timePort ≠ 3 := by decide +kernel
theorem test_follow_up : after (.followUp 16 Wrap.none 1000) (sTime fun t => { t with syncSeen := true, lastSync := 9, linkDelay := 40 })
    (fun t => (t.hub.time.baseNs, t.hub.time.baseTick, t.hub.time.valid)) = some (1040, 9, true) := by decide +kernel
theorem test_peer_delay : after (.peerDelay 16 true Wrap.none Wrap.none 30) (sTime id) (fun t => (t.hub.time.linkDelay, t.slp.wire.map Sent.frame)) =
    some (30, [.peerDelayReq 16]) := by decide +kernel

/-! ### Requests of a session -/

/-- A request of type `type` with its length and its checks, over IPv4 without a UDP checksum. -/
def sealReq (type : Nat) (r : Req) : Req :=
  let a := { r with len := r.payload.length, pcrc := slpPcrc r.payload r.alive }
  { a with hcrc := crc32c (reqHeader a type) }

/-- A request of session 1 to 10.0.0.1. -/
def bareReq (payload : List Byte) : Req :=
  { port := 16, wrap := Wrap.none, addr := [10, 0, 0, 2], dst := [10, 0, 0, 1], udp := 9, dport := 49700, check := 0, head := 16, flags := 0, session := 1,
    seq := 1, ack := 0, len := 0, status := 0, alive := 7, pcrc := 0, hcrc := 0, payload := payload }
def tReq (type : Nat) (payload : List Byte) : Req := sealReq type (bareReq payload)

/-- The state and the session in which the device acts on a request that reaches its turn. -/
def turnAt (s : State) (type : Nat) (r : Req) : State := (s.takeMessage type r).1.acknowledge r.session r.ack
def turnP (s : State) (type : Nat) (r : Req) : Session := ((turnAt s type r).session r.session).getD Session.reset
def turnQ (s : State) (type : Nat) (r : Req) : Session :=
  { turnP s type r with rxNext := ((turnP s type r).rxNext + 1) % 2 ^ 32, ackDue := true }
def turnS (s : State) (type : Nat) (r : Req) : State := (turnAt s type r).setSession r.session (turnQ s type r)

def turnBool (s : State) (type : Nat) (r : Req) (q : Session) : Bool :=
  portOk r.port && (s.takeMessage type r).2 && decide (s.session r.session = some q) && decide (q.addr = r.addr ∧ q.udp = r.udp) &&
    decide (q.ahead r.seq = 0) && decide ((turnAt s type r).session r.session = some (turnP s type r)) &&
    decide ((turnAt s type r).sessionWaits r.session = false ∧ (turnP s type r).inbox = [] ∧ (turnP s type r).held = []) &&
    decide (pcrcOk r = true ∧ badReq r = false)

theorem turn_of {s : State} {type : Nat} {r : Req} {q : Session} (h : turnBool s type r q = true) :
    Turn s type r q (turnP s type r) (turnS s type r) (turnQ s type r) := by
  simp only [turnBool, Bool.and_eq_true, decide_eq_true_eq] at h
  obtain ⟨⟨⟨⟨⟨⟨⟨h1, h2⟩, h3⟩, h4⟩, h5⟩, h6⟩, h7⟩, h8⟩ := h
  exact ⟨h1, h2, h3, h4, h5, h6, h7, h8, rfl, rfl⟩

/-- The statuses and payloads of the replies of session 1. -/
def replies (t : State) : List (Nat × Nat × List Byte) := ((t.session 1).getD Session.reset).unacked.map fun e => (e.1.type, e.1.status, e.1.payload)

/-- An access header (Table 11.5): index, sub-index, offset, length. -/
def acc (index sub off len : Nat) : List Byte := leBytes 2 index ++ leBytes 1 sub ++ [0] ++ leBytes 4 off ++ leBytes 2 len ++ List.replicate 6 0

def dr (index sub len : Nat) : Req := tReq 0x10 (acc index sub 0 len)
def rd (r : Req) : Except Nat (List Byte) := (turnS sPort 0x10 r).readEntry (turnQ sPort 0x10 r) (accIndex r.payload) (accSub r.payload) (accOff r.payload) (accLen r.payload)

theorem witness_DictionaryAccessCompletes : let r := dr 0x1040 1 1
    Turn sPort 0x10 r tSess (turnP sPort 0x10 r) (turnS sPort 0x10 r) (turnQ sPort 0x10 r) ∧ r.payload.length = 16 ∧ badAccess r.payload = false ∧
      rd r = .ok [16] :=
  ⟨turn_of (by decide +kernel), by decide +kernel, by decide +kernel, ok_of (by decide +kernel)⟩
theorem witness_DictionaryAccessCompletes_log : let r := dr 0x7000 0x20 32
    Turn sPort 0x10 r tSess (turnP sPort 0x10 r) (turnS sPort 0x10 r) (turnQ sPort 0x10 r) ∧ isLog (accIndex r.payload) (accSub r.payload) = true ∧
      rd r = .ok [] ∧ r.payload.length = 16 ∧ badAccess r.payload = false :=
  ⟨turn_of (by decide +kernel), by decide +kernel, ok_of (by decide +kernel), by decide +kernel, by decide +kernel⟩
theorem witness_DictionaryAccessCompletes_refused : let r := dr 0x1041 1 1
    Turn sPort 0x10 r tSess (turnP sPort 0x10 r) (turnS sPort 0x10 r) (turnQ sPort 0x10 r) ∧ rd r = .error 0x0415 :=
  ⟨turn_of (by decide +kernel), err_of (by decide +kernel)⟩

def bTime : Block := (blockAt 0x1040).get (by decide +kernel)
def eTime : Entry := (bTime.entry 1).get (by decide +kernel)
def cTime : Entry := (bTime.entry 0xFF).get (by decide +kernel)
def dw (index sub : Nat) (v : List Byte) : Req := tReq 0x11 (acc index sub 0 v.length ++ v)

theorem witness_DictionaryAccessCompletes_write : let r := dw 0x1040 1 [3]; let s' := turnS sPort 0x11 r; let q' := turnQ sPort 0x11 r
    Turn sPort 0x11 r tSess (turnP sPort 0x11 r) s' q' ∧ badAccess r.payload = false ∧ r.payload.length = 16 + accLen r.payload ∧
      s'.resolve q' (accIndex r.payload) (accSub r.payload) true = .ok (bTime, eTime) ∧ eTime.access ≠ 2 ∧
      ∃ u, s'.stage r.session q' bTime eTime (accIndex r.payload) (accOff r.payload) ((r.payload.drop 16).take 1) = .ok u :=
  ⟨turn_of (by decide +kernel), by decide +kernel, by decide +kernel, ok_of (by decide +kernel), by decide +kernel, _,
    ok_or (a := State.reset) (by decide +kernel)⟩
theorem witness_DictionaryAccessCompletes_unwritten : let r := dw 0x1040 0xFF [2]; let s' := turnS sPort 0x11 r; let q' := turnQ sPort 0x11 r
    Turn sPort 0x11 r tSess (turnP sPort 0x11 r) s' q' ∧ badAccess r.payload = false ∧ s'.resolve q' 0x1040 0xFF true = .ok (bTime, cTime) ∧
      cTime.access = 2 ∧ accOff r.payload = 0 ∧ accLen r.payload = 1 ∧ 1 < numAt r.payload 16 1 ∧ s'.resolve q' 0x1008 0 true = .error 0x0413 :=
  ⟨turn_of (by decide +kernel), by decide +kernel, ok_of (by decide +kernel), by decide +kernel, by decide +kernel, by decide +kernel, by decide +kernel,
    err_of (by decide +kernel)⟩

/-- The value of an entry whose default is 16 (R329); an index that the table does not have is answered 0x0415 (R355). -/
theorem test_dread : after (.dread (dr 0x1040 1 1)) sPort replies = some [(0x90, 0, [16])] := by decide +kernel
theorem test_dread_no_entry : after (.dread (dr 0x1041 1 1)) sPort replies = some [(0x90, 0x0415, [])] := by decide +kernel

/-- In recovery mode, at the management port (R448). -/
def sRecovery : State :=
  let s := sPort
  { s with hub := { Hub.reset with phase := .recovery, ready := true } }
def openReq : Req := sealReq 0x01 { bareReq ([255, 0, 0, 0] ++ List.replicate 36 0) with session := 0, seq := 0 }

theorem witness_SessionsComplete : portOk openReq.port = true ∧ (sRecovery.takeMessage 0x01 openReq).2 = true ∧
    (sRecovery.takeMessage 0x01 openReq).1.openStatus openReq = 0 := by decide +kernel
theorem witness_SessionsComplete_refused : let r := { openReq with pcrc := 0 }; (sPort.takeMessage 0x01 (sealReq 0x01 { r with payload := [1] })).2 = true ∧
    (sPort.takeMessage 0x01 (sealReq 0x01 { r with payload := [1] })).1.openStatus (sealReq 0x01 { r with payload := [1] }) = 0x0603 := by decide +kernel
theorem witness_SessionsComplete_close : let r := tReq 0x02 []
    Turn sPort 0x02 r tSess (turnP sPort 0x02 r) (turnS sPort 0x02 r) (turnQ sPort 0x02 r) ∧ r.payload = [] ∧ tSess.part < 16 :=
  ⟨turn_of (by decide +kernel), rfl, by decide⟩
theorem test_close : after (.closeSession (tReq 0x02 [])) sPort (fun t => (t.session 1).isSome) = some false := by decide +kernel

/-- A `WRITE` of 64 bytes at 0x80 of window 0, and a `READ` of 8 (Table 11.6). -/
def bulk (off dlen : Nat) (data : List Byte) : List Byte := List.replicate 8 0 ++ leBytes 8 off ++ leBytes 8 0 ++ leBytes 4 dlen ++ leBytes 4 0 ++ data

def noHarm : Harm := Harm.none
def sBulk : State := sPort.suffer noHarm
def wrReq : Req := tReq 0x20 (bulk 0x80 0 (List.replicate 64 5))
def rdReq : Req := tReq 0x21 (bulk 0x80 8 [])

theorem witness_BulkAccessCompletes : let r := wrReq; let s' := turnS sBulk 0x20 r; let q' := turnQ sBulk 0x20 r; let b := readBulk r.payload
    let data := r.payload.drop 32; let w := s'.window q'.part b.win
    Turn (sPort.suffer noHarm) 0x20 r tSess (turnP sBulk 0x20 r) s' q' ∧ q'.part < 16 ∧ badBulk r.payload (s'.maxCb q') = false ∧ b.dlen = 0 ∧ b.cb = 0 ∧
      data.length = 64 ∧ noHarm.beat = none ∧ s'.windowAt 19 q'.part b.win b.off 64 rHWR = .ok [(0x80, 64)] ∧
      s'.bufferFault 3 0 = none ∧ s'.throughB4 q'.part 19 (dieOfAddr (firstAddr [(0x80, 64)])) (firstAddr [(0x80, 64)]) w
        (hostScales q'.part b.win b.off 64 w) (fun _ _ s => .ok s) data = (s', .ok data) ∧ s'.mem.badPart 0x80 64 = none :=
  ⟨turn_of (by decide +kernel), by decide +kernel, by decide +kernel, by decide +kernel, by decide +kernel, by decide +kernel, by decide +kernel,
    ok_of (by decide +kernel), by decide +kernel, if_pos (.inl (by decide +kernel)), by decide +kernel⟩
theorem witness_BulkAccessCompletes_read : let r := rdReq; let s' := turnS sBulk 0x21 r; let q' := turnQ sBulk 0x21 r; let b := readBulk r.payload
    let w := s'.window q'.part b.win
    Turn (sPort.suffer noHarm) 0x21 r tSess (turnP sBulk 0x21 r) s' q' ∧ badBulk r.payload (s'.maxCb q') = false ∧ b.cb = 0 ∧ r.payload.length = 32 ∧
      b.dlen ≤ s'.payloadLimit q'.port - 32 ∧ s'.windowAt 19 q'.part b.win b.off b.dlen rHRD = .ok [(0x80, 8)] ∧
      readExtents s'.mem [(0x80, 8)] = .ok (List.replicate 8 0) ∧
      s'.throughB4 q'.part (dieOfAddr (firstAddr [(0x80, 8)])) 19 (firstAddr [(0x80, 8)]) w (hostScales q'.part b.win b.off b.dlen w) (fun _ _ s => .ok s)
        (List.replicate 8 0) = (s', .ok (List.replicate 8 0)) ∧ s'.bufferFault 3 0 = none ∧ q'.part < 16 :=
  ⟨turn_of (by decide +kernel), by decide +kernel, by decide +kernel, by decide +kernel, by decide +kernel, ok_of (by decide +kernel),
    ok_of (by decide +kernel), if_pos (.inl (by decide +kernel)), by decide +kernel⟩
theorem tried_err {α : Type} {x : State × Except Nat α} {e : Nat} (h : errIs x.2 e = true) : ∃ u, x = (u, .error e) := ⟨x.1, Prod.ext rfl (err_of h)⟩
theorem tried_ok {α : Type} {x : State × Except Nat α} (h : isOk x.2 = true) : ∃ u v, x = (u, .ok v) := by
  obtain ⟨u, e | v⟩ := x
  · simp [isOk] at h
  · exact ⟨u, v, rfl⟩
theorem witness_BulkAccessCompletes_faults : let s' := turnS sBulk 0x21 rdReq; let q' := turnQ sBulk 0x21 rdReq; let b := readBulk (bulk 0x10000 8 [])
    (∃ u, s'.readBulkData q'.part b = (u, .error 0x0402)) ∧ ∃ u v, s'.readBulkData q'.part (readBulk rdReq.payload) = (u, .ok v) :=
  ⟨tried_err (by decide +kernel), tried_ok (by decide +kernel)⟩
theorem test_bulk_write : after (.bulkWrite wrReq noHarm) sPort (fun t => (t.mem.readN 0x7F 2, t.mem.readN 0xBF 2)) = some ([0, 5], [5, 0]) := by decide +kernel

def bell (kind i : Nat) : Req := tReq 0x30 (leBytes 2 3 ++ leBytes 1 kind ++ [0] ++ leBytes 4 i)

theorem witness_DoorbellsComplete : let r := bell 0 6; let s' := turnS sPort 0x30 r; let q' := turnQ sPort 0x30 r
    Turn sPort 0x30 r tSess (turnP sPort 0x30 r) s' q' ∧ badBells r.payload = false ∧ r.payload.length = 8 ∧ s'.bellStatus q' 3 0 6 = 0 :=
  ⟨turn_of (by decide +kernel), by decide +kernel⟩
theorem witness_DoorbellsComplete_head : let r := bell 1 3; let s' := turnS sPort 0x30 r; let q' := turnQ sPort 0x30 r
    Turn sPort 0x30 r tSess (turnP sPort 0x30 r) s' q' ∧ s'.bellStatus q' 3 1 3 = 0 ∧ (sPort.part (s'.ring 3).part).flushing = false :=
  ⟨turn_of (by decide +kernel), by decide +kernel⟩
theorem witness_DoorbellsComplete_refused : let r := bell 0 11; let s' := turnS sPort 0x30 r; let q' := turnQ sPort 0x30 r
    Turn sPort 0x30 r tSess (turnP sPort 0x30 r) s' q' ∧ s'.bellStatus q' 3 0 11 ≠ 0 :=
  ⟨turn_of (by decide +kernel), by decide +kernel⟩
theorem test_bell : after (.doorbellSubTail (bell 0 6)) sPort (fun t => (t.ring 3).subTail) = some 6 := by decide +kernel
theorem test_bell_refused : after (.doorbellSubTail (bell 0 11)) sPort (fun t => ((t.ring 3).subTail, replies t)) = some (4, [(0xB0, 0x0707, [])]) := by
  decide +kernel

theorem witness_RequestsRefused : let r := tReq 0x02 [1]
    Turn sPort 0x02 r tSess (turnP sPort 0x02 r) (turnS sPort 0x02 r) (turnQ sPort 0x02 r) ∧ r.payload ≠ [] :=
  ⟨turn_of (by decide +kernel), by decide +kernel⟩
def noPart : State := sNet { tSess with part := 255 } id
theorem witness_RequestsRefused_bulk : let r := rdReq; let s := noPart.suffer noHarm
    Turn s 0x21 r { tSess with part := 255 } (turnP s 0x21 r) (turnS s 0x21 r) (turnQ s 0x21 r) ∧ 16 ≤ (turnQ s 0x21 r).part :=
  ⟨turn_of (by decide +kernel), by decide +kernel⟩
theorem witness_RequestsRefused_dlen : let r := tReq 0x20 (bulk 0x80 64 []); let s := sBulk
    Turn (sPort.suffer noHarm) 0x20 r tSess (turnP s 0x20 r) (turnS s 0x20 r) (turnQ s 0x20 r) ∧ (readBulk r.payload).dlen ≠ 0 :=
  ⟨turn_of (by decide +kernel), by decide +kernel⟩
theorem witness_RequestsRefused_turn : let r := sealReq 0x02 { bareReq [] with session := 4 }; let e := sealReq 0x02 { bareReq [] with seq := 3 }
    let o := sealReq 0x02 { bareReq [] with seq := 0 }
    portOk r.port = true ∧ (sPort.takeMessage 0x02 r).2 = true ∧ sPort.session r.session = none ∧
      (sPort.takeMessage 0x02 e).2 = true ∧ sPort.session e.session = some tSess ∧ tSess.addr = e.addr ∧ tSess.udp = e.udp ∧
      (turnAt sPort 0x02 e).session e.session = some tSess ∧
      0 < tSess.ahead e.seq ∧ tSess.ahead e.seq ≤ 63 ∧ (sPort.takeMessage 0x02 o).2 = true ∧ 2 ^ 31 ≤ tSess.ahead o.seq := by decide +kernel
theorem test_held : after (.closeSession (sealReq 0x02 { bareReq [] with seq := 3 })) sPort (fun t => ((t.session 1).getD Session.reset).held.length) = some 1 := by
  decide +kernel

def tMsg : Msg := { port := 16, addr := [10, 0, 0, 2], udp := 9, type := 0x40, session := 1, seq := 0, ack := 0, status := 0, alive := 0, loss := false, payload := [] }

theorem witness_TransportCompletes : let q := { tSess with unacked := [(tMsg, 1)], ackDue := true }; let s := sNet q id; let r := tReq 0x7F []
    portOk r.port = true ∧ (s.takeMessage 0x7F r).2 = true ∧ s.session 1 = some q ∧ q.addr = r.addr ∧ q.udp = r.udp ∧ q.ackDue = true ∧
      s.portSpeaks q.port = true ∧ q.unacked.drop 0 = (tMsg, 1) :: q.unacked.drop 1 ∧ s.portSpeaks tMsg.port = true := by decide +kernel
theorem witness_TransportCompletes_last : let q := { tSess with unacked := [(tMsg, 8)] }
    (sNet q id).session 1 = some q ∧ q.unacked.drop 0 = (tMsg, 8) :: q.unacked.drop 1 := by decide +kernel
theorem witness_TransportCompletes_records : let q := { tSess with completes := [List.replicate 32 1] }
    (sNet q id).session 1 = some q ∧ q.unacked.length < 64 ∧ q.completes ≠ [] := by decide +kernel
def tLog : LogRing := { LogRing.reset with recs := [{ cls := 5, part := 255, code := 1, seq := 0, tick := 8, data := List.replicate 16 0 }], next := 1 }
def sStream : State :=
  let s := sNet tSess fun q => { q with log := tLog }
  { s with dict := mset (mset s.dict [] (dkey 0x7000 0 3) (leBytes 4 1)) [] (dkey 0x7020 0 1) (leBytes 4 1), hub := { s.hub with log := tLog } }
theorem witness_TransportCompletes_stream : let s := sStream
    s.dval 0x7000 0 3 0 = 1 ∧ (s.hub.log.stream 255 s.hub.stream (s.perMessage tSess)).1 ≠ [] ∧ s.dval 0x7020 0 1 0 = 1 ∧
      ((s.part 0).log.stream 0 (s.part 0).stream (s.perMessage tSess)).1 ≠ [] := by decide +kernel
theorem test_ack : after (.ackMessage (tReq 0x7F [])) (sNet { tSess with unacked := [(tMsg, 1)] } id) replies = some [] := by decide +kernel
theorem test_retransmission_eighth : after (.retransmission 1 0) (sNet { tSess with unacked := [(tMsg, 8)] } id) (fun t => (t.session 1).isSome) = some false := by
  decide +kernel
/-- The checksum of a datagram is the one's complement of a sum to which it adds up to 65,535 (R328). -/
theorem test_udp_check : (wordSum [10, 0, 0, 1] + wordSum [10, 0, 0, 2] + 17 + 2 * (8 + 3) + 7 + 9 + wordSum [1, 2, 3] +
    udpCheck [10, 0, 0, 1] [10, 0, 0, 2] 7 9 [1, 2, 3]) % 65535 = 0 := by decide

/-! ### Commits -/

def bk (index : Nat) : Block := (blockAt index).getD bTime

/-- Session 1 with one staged copy, on a device that `f` makes. -/
def cSess (c : Staged) : Session := { tSess with staged := [c] }
def cState (c : Staged) (f : State → State) : State := f (sNet (cSess c) id)

/-- The session and the state that the hub samples. -/
def cQ' (q : Session) : Session := { q with rxNext := (q.rxNext + 1) % 2 ^ 32, ackDue := true }
def cS' (c : Staged) (f : State → State) : State := (cState c f).setSession 1 (cQ' (cSess c))

def sampBool (c : Staged) (test : Staged → Bool) (f : State → State) : Bool :=
  let s := cState c f
  let q := cSess c
  let b := bk c.block
  decide (s.session 1 = some q) && decide (blockAt c.block = some b) && decide (s.sessionFree 1 q = true) &&
    decide (s.copyFor q b c.block (b.inst q) = c) && test c && decide ((cS' c f).copyFor (cQ' q) b c.block (b.inst (cQ' q)) = c) &&
    decide (c.inst = b.inst (cQ' q)) && decide (c.vals.map Prod.fst).Nodup && (c.vals.all fun e => b.staged.any fun x => x.sub == e.1) &&
    (match (cS' c f).resolve (cQ' q) c.block 0xFF true with | .ok r => decide (r.1 = b) && r.2.access == 2 | .error _ => false) &&
    decide ((cS' c f).atWork c.block (b.inst (cQ' q)) = false ∧ (cS' c f).queuedBefore b c.block (b.inst (cQ' q)) = false)

/-- The hub samples session 1's copy. -/
abbrev Samp (c : Staged) (test : Staged → Bool) (f : State → State) : Prop :=
  Samples (cState c f) 1 c.block test (cSess c) (bk c.block) c (cS' c f) (cQ' (cSess c))

theorem samples_of {c : Staged} {test : Staged → Bool} {f : State → State} (h : sampBool c test f = true) : Samp c test f := by
  simp only [sampBool, Bool.and_eq_true, decide_eq_true_eq] at h
  obtain ⟨⟨⟨⟨⟨⟨⟨⟨⟨⟨h1, h2⟩, h3⟩, h4⟩, h5⟩, h6⟩, h7⟩, h8⟩, h9⟩, h10⟩, h11⟩ := h
  refine ⟨h1, h2, ⟨h3, rfl⟩, h4, h5, rfl, rfl, h6, ⟨rfl, h7⟩, ⟨h8, fun e he => ?_⟩, ?_, h11⟩
  · simp only [List.all_eq_true] at h9
    obtain ⟨x, hx⟩ := List.any_eq_true.mp (h9 e he)
    exact ⟨x, hx.1, beq_iff_eq.mp hx.2⟩
  · cases hr : (cS' c f).resolve (cQ' (cSess c)) c.block 0xFF true with
    | error e => simp [hr] at h10
    | ok r =>
      simp only [hr, Bool.and_eq_true, decide_eq_true_eq, beq_iff_eq] at h10
      exact ⟨r.2, by rw [← h10.1], h10.2⟩

def cp (index : Nat) (vals : Map (List Byte)) : Staged := { block := index, inst := 0, vals := vals }
def isErr (x : Verdict) (e : Nat) : Bool := match x with | .ok _ => false | .error d => d == e
/-- The outcome of the copy's rules: the refusal, 0 for none. -/
def verdictOf (c : Staged) (f : State → State) : Nat := match (cS' c f).verdict (cQ' (cSess c)) c with | .ok _ => 0 | .error e => e

def holdC : Staged := cp 0x2010 [(1, [3])]
theorem witness_CommitsComplete : Samp holdC (asks 1 3) id ∧ ∃ u, (cS' holdC id).verdict (cQ' (cSess holdC)) holdC = .ok u ∧ (u.1.session 1).isSome = true :=
  ⟨samples_of (by decide +kernel), _, ok_or (a := (State.reset, [])) (by decide +kernel), by decide +kernel⟩
def lowC : Staged := cp 0x3000 [(1, leBytes 2 399)]
theorem witness_CommitsComplete_refused : Samp lowC anyCopy id ∧ (cS' lowC id).verdict (cQ' (cSess lowC)) lowC = .error 0x0104 :=
  ⟨samples_of (by decide +kernel), err_of (by decide +kernel)⟩
theorem witness_CommitsComplete_discard : let s := cState holdC id; let q := cSess holdC; let b := bk 0x2010
    s.session 1 = some q ∧ blockAt 0x2010 = some b ∧ s.sessionFree 1 q = true ∧ q.held = [] ∧ (b.entry 0xFF).isSome = true ∧
      (s.setSession 1 (cQ' q)).resolve (cQ' q) 0x2010 0xFF true = .ok (b, commitEntry) ∧ commitEntry.access = 2 :=
  ⟨by decide +kernel, by decide +kernel, by decide +kernel, rfl, by decide +kernel, ok_of (by decide +kernel), rfl⟩
theorem test_hold : after (.hold 1) (cState holdC id) (fun t => ((t.part 0).held, ((t.session 1).getD Session.reset).staged)) = some (true, []) := by decide +kernel
theorem test_budget_refused : after (.budgetCommit 1) (cState lowC id) (fun t => (replies t, t.dict == (cState lowC id).dict)) =
    some ([(0x91, 0x0104, [])], true) := by decide +kernel

def wtC (v : Nat) : Staged := cp 0x3010 [(1, leBytes 2 v)]
theorem witness_SettingsCommitted : Samp (wtC 1000) anyCopy id ∧ 1 ≤ (wtC 1000).num 1 ∧ (wtC 1000).num 1 ≤ 1000 ∧ 0 ∈ (cState (wtC 1000) id).partsHere :=
  ⟨samples_of (by decide +kernel), by decide +kernel⟩
theorem witness_SettingsCommitted_refused : Samp (wtC 1001) anyCopy id ∧ 1000 < (wtC 1001).num 1 := ⟨samples_of (by decide +kernel), by decide +kernel⟩
def highDev (s : State) : State := { s with parts := [(0, { tPart with level := 15 })] }
theorem witness_SettingsCommitted_pace : let c := cp 0x3020 [(1, [0])]; let s := cState c highDev
    Samp c anyCopy highDev ∧ c.num 1 ≤ 7 ∧ (s.store c fun _ => true).hostCap 0 < (s.part 0).level ∧ s.clampActive 0 = false :=
  ⟨samples_of (by decide +kernel), by decide +kernel⟩
theorem test_pace : after (.paceCommit 1) (cState (cp 0x3020 [(1, [0])]) highDev) (fun t => ((t.part 0).decided, t.dval 0x3020 0 1 7)) = some (some 12, 0) := by
  decide +kernel

/-- The port block of the management port, in mode `m`. -/
def portC (m mtu : Nat) : Staged := cp 0x1110 [(1, [BitVec.ofNat 8 m]), (2, [0]), (3, leBytes 8 1), (8, leBytes 2 mtu)]
theorem witness_SettingsCommitted_port : Samp (portC 1 9000) anyCopy id ∧ portIndex 16 = (portC 1 9000).block ∧ badPort 16 (portC 1 9000) = false ∧
    (cState (portC 1 9000) id).portVal 16 8 ≠ 9000 := ⟨samples_of (by decide +kernel), by decide +kernel⟩
theorem witness_SettingsCommitted_badPort : Samp (portC 3 1500) anyCopy id ∧ badPort 16 (portC 3 1500) = true := ⟨samples_of (by decide +kernel), by decide +kernel⟩
def keyC (act : Nat) : Staged := cp 0x6203 [(1, [0]), (2, [2]), (3, List.replicate 32 8), (4, leBytes 8 77), (5, leBytes 4 9), (7, [BitVec.ofNat 8 act])]
theorem witness_SettingsCommitted_keys : Samp (keyC 1) (asks 7 1) id ∧ Samp (keyC 2) (asks 7 2) id ∧ keyIndex 3 = (keyC 1).block ∧ (keyC 1).num 1 ≤ 1 ∧
    (keyC 1).num 2 ≤ 3 ∧ ((keyC 1).bytes 3).length = 32 ∧ (keyC 1).num 5 ≠ 0 := ⟨samples_of (by decide +kernel), samples_of (by decide +kernel), by decide +kernel⟩
def railC : Staged := cp 0x3040 [(1, leBytes 4 0x15)]
theorem witness_SettingsCommitted_rails : Samp railC anyCopy id ∧ ∀ r, r < 24 → badRail r (railC.num (r + 1)) = false := ⟨samples_of (by decide +kernel), by decide +kernel⟩
def alarmC : Staged := cp 0x7000 [(2, leBytes 4 0x1008), (3, leBytes 4 1)]
theorem witness_SettingsCommitted_alarms : Samp alarmC anyCopy id ∧ alarmC.num 2 < 2 ^ 15 ∧ (cS' alarmC id).streamOk (alarmC.num 3) (cS' alarmC id).isAdmin = true :=
  ⟨samples_of (by decide +kernel), by decide +kernel⟩
def traceC : Staged := cp 0x7020 [(1, leBytes 4 1), (2, [31])]
theorem witness_SettingsCommitted_trace : Samp traceC anyCopy id ∧ traceC.num 2 < 32 ∧ (cS' traceC id).streamOk (traceC.num 1) (fun x => x.part == 0) = true :=
  ⟨samples_of (by decide +kernel), by decide +kernel⟩
theorem test_port : after (.portCommit 1 16) (cState (portC 1 9000) id) (fun t => ((t.port 16).link, t.portVal 16 8, (t.port 3).link)) = some (0, 9000, 2) := by
  decide +kernel
theorem test_install : after (.install 1 3) (cState (keyC 1) id) (fun t => (t.port 3).txSa.map fun a => (a.1, a.2.2)) = some (some (2, 77, 9)) := by decide +kernel

/-- Partition 0 with the job `j` in hand, with `fs` reported. -/
def jobDev (j : Option Job) (fs : List FaultRec) (rings : Map Ring) (s : State) : State :=
  { s with parts := [(0, { tPart with job := j, faults := fs })], rings := rings }
def jobC (n : Nat) : Staged := cp 0x2010 [(1, [BitVec.ofNat 8 n])]
def tFault (u st : Nat) : FaultRec := { FaultRec.reset with unit := u, status := st }

theorem witness_JobControl : let f := jobDev (some tJob) [] []; Samp (jobC 1) (asks 1 1) f ∧ ((cState (jobC 1) f).part 0).job = some tJob ∧ tJob.state = 2 ∧
    ((cState (jobC 1) f).part 0).faults = [] := ⟨samples_of (by decide +kernel), by decide +kernel⟩
theorem witness_JobControl_none : let f := jobDev none [] []; Samp (jobC 1) (asks 1 1) f ∧ ((cState (jobC 1) f).part 0).job = none :=
  ⟨samples_of (by decide +kernel), by decide +kernel⟩
theorem witness_JobControl_fault : let f := jobDev (some tJob) [tFault 2 0x0106] []; Samp (jobC 1) (asks 1 1) f ∧
    ((cState (jobC 1) f).part 0).faults = [tFault 2 0x0106] := ⟨samples_of (by decide +kernel), by decide +kernel⟩
theorem witness_JobControl_late : let j := { tJob with state := 4, cleared := true }; let f := jobDev (some j) [] []; Samp (jobC 1) (asks 1 1) f ∧
    ((cState (jobC 1) f).part 0).job = some j ∧ 3 ≤ j.state := ⟨samples_of (by decide +kernel), by decide +kernel⟩
theorem witness_JobControl_flush : let f := jobDev (some tJob) [] []; let g := jobDev none [] [(3, { tRing with subTail := 2 })]; Samp (jobC 2) (asks 1 2) f ∧
    Samp (jobC 2) (asks 1 2) g ∧ ∀ e ∈ (cState (jobC 2) g).ringsOf 0, e.2.waiting = 0 :=
  ⟨samples_of (by decide +kernel), samples_of (by decide +kernel), by decide +kernel⟩
/-- One descriptor waits in ring 3, whose areas lie in window 0. -/
def oneRing : Ring := { tRing with subTail := 3, cmpOff := 0x1000 }
def oneF : State → State := jobDev none [] [(3, oneRing)]
theorem witness_JobControl_waiting : let s := cState (jobC 2) oneF
    Samp (jobC 2) (asks 1 2) oneF ∧ s.ringsOf 0 = [(3, oneRing)] ∧ s.ring 3 = oneRing ∧ oneRing.waiting = 1 ∧
      s.descriptor 0 oneRing (oneRing.subHead % oneRing.size) = .ok (List.replicate 64 0) ∧ s.recordRoom 0 oneRing 0x1060 :=
  ⟨samples_of (by decide +kernel), by decide +kernel, by decide +kernel, by decide +kernel, ok_of (by decide +kernel), ok_of (by decide +kernel), by decide +kernel⟩
theorem witness_CommitsComplete_flush : let f := jobDev none [] []; Samp (jobC 2) (asks 1 2) f ∧
    ∃ u, (cS' (jobC 2) f).verdict (cQ' (cSess (jobC 2))) (jobC 2) = .ok u :=
  ⟨samples_of (by decide +kernel), _, ok_or (a := (State.reset, [])) (by decide +kernel)⟩
theorem test_kill : after (.kill 1) (cState (jobC 1) (jobDev (some tJob) [] [])) (fun t => (t.part 0).job.map fun j => (j.state, j.status, j.killed)) =
    some (some (3, 0x0701, true)) := by decide +kernel
theorem test_flush : after (.flush 1 Harm.none) (cState (jobC 2) oneF) (fun t => (t.mem.readN 0x1060 2, (t.ring 3).subHead, (t.part 0).held)) = some ([1, 7], 3, true) := by
  decide +kernel

/-- A window of one 64 KiB page at tower 0, rights `r`, credits `cr`. -/
def winC (n size r cr : Nat) : Staged :=
  cp 0x8400 [(1, [BitVec.ofNat 8 n]), (2, [1]), (3, [0]), (4, leBytes 2 0), (5, leBytes 8 size), (6, [0]), (7, [BitVec.ofNat 8 r]), (8, [0]), (9, leBytes 2 cr)]
/-- The partition has 1 GiB of DRAM at engine die 0 and no job; ring 3 names window 0. -/
def winDev (s : State) : State :=
  { s with parts := [(0, { tPart with job := none })], rings := [(3, { tRing with rwin := 0, size := 8 })], dict := mset s.dict [] (dkey 0x2000 0 7) (leBytes 2 1),
           spares := { s.spares with plazaHeld := [] } }
theorem witness_WindowsAndRings : let s := cState (winC 2 0x10000 3 4) winDev; let new := stagedWindow (winC 2 0x10000 3 4).num
    Samp (winC 2 0x10000 3 4) (asks 2 1) winDev ∧ new.badField = false ∧ s.badUnit 0 new = false ∧ s.ringNames 0 2 = false ∧
      (∃ pages, s.allocate 0 2 new = some pages ∧ s.entriesUsed 0 2 + pages.length ≤ 262144 ∧ s.noCredits 0 2 { new with pages := pages } = false) :=
  ⟨samples_of (by decide +kernel), by decide +kernel, by decide +kernel, by decide +kernel, [0x10000], by decide +kernel, by decide +kernel, by decide +kernel⟩
theorem witness_WindowsAndRings_refused :
    ((stagedWindow (winC 2 0x10000 32 4).num).badField = true ∧ Samp (winC 2 0x10000 32 4) (asks 2 1) winDev) ∧
      ((cState (winC 2 1 3 4) winDev).badUnit 0 (stagedWindow (winC 2 1 3 4).num) = true ∧ Samp (winC 2 1 3 4) (asks 2 1) winDev) ∧
      ((cState (winC 0 0x10000 3 4) winDev).ringNames 0 0 = true ∧ Samp (winC 0 0x10000 3 4) (asks 2 1) winDev) ∧
      ((cState (winC 2 0x10000 3 4) id).allocate 0 2 (stagedWindow (winC 2 0x10000 3 4).num) = none ∧ Samp (winC 2 0x10000 3 4) (asks 2 1) id) ∧
      ((cState (winC 2 0x10000 16 4096) winDev).noCredits 0 2 { stagedWindow (winC 2 0x10000 16 4096).num with pages := [0x10000] } = true) :=
  ⟨⟨by decide +kernel, samples_of (by decide +kernel)⟩, ⟨by decide +kernel, samples_of (by decide +kernel)⟩, ⟨by decide +kernel, samples_of (by decide +kernel)⟩,
    ⟨by decide +kernel, samples_of (by decide +kernel)⟩, by decide +kernel⟩
def closeC (n : Nat) : Staged := cp 0x8400 [(1, [BitVec.ofNat 8 n]), (2, [2])]
theorem witness_WindowsAndRings_close : Samp (closeC 0) (asks 2 2) winDev ∧ Samp (closeC 1) (asks 2 2) winDev ∧ (cState (closeC 0) winDev).ringNames 0 0 = true ∧
    (cState (closeC 1) winDev).ringNames 0 1 = false := ⟨samples_of (by decide +kernel), samples_of (by decide +kernel), by decide +kernel⟩
def ringC (part win : Nat) : Staged :=
  cp 0x8100 [(1, leBytes 2 9), (2, [BitVec.ofNat 8 part]), (3, leBytes 2 16), (4, [BitVec.ofNat 8 win]), (5, leBytes 8 0), (6, leBytes 8 0x400), (7, [3]), (9, leBytes 4 5)]
def ringDev (s : State) : State := { winDev s with rings := [] }
theorem witness_WindowsAndRings_ring : let s := cState (ringC 0 0) ringDev
    let v : Nat → Nat := fun sub => if sub = 2 then (if s.isAdmin (cSess (ringC 0 0)) then 0 else (s.ring 9).part) else (ringC 0 0).num sub
    Samp (ringC 0 0) anyCopy ringDev ∧ s.isAdmin (cSess (ringC 0 0)) = true ∧ s.ringBusy 9 = false ∧ s.badArea v = false ∧
      (s.badArea fun sub => if sub = 4 then 7 else v sub) = true := ⟨samples_of (by decide +kernel), by decide +kernel⟩
theorem test_window : after (.windowOpen 1) (cState (winC 2 0x10000 3 4) winDev) (fun t => ((t.part 0).newWindows.map fun m => (mget m Window.reset 2).pages,
    (t.part 0).building)) = some (some [0x10000], [0x8400]) := by decide +kernel
theorem test_ring : after (.ringCommit 1) (cState (ringC 0 0) ringDev) (fun t => ((t.ring 9).size, (t.ring 9).prio, (t.ring 9).nextAlive)) = some (16, 3, 5) := by
  decide +kernel

/-- A partition block: dies, tenant, action. -/
def partC (dies tenant act : Nat) : Staged :=
  cp 0x2000 [(1, leBytes 2 dies), (2, leBytes 4 tenant), (3, [2]), (4, [0]), (5, leBytes 2 0), (6, leBytes 2 0), (7, leBytes 2 0), (8, leBytes 2 0), (9, [1]),
    (0xA, [BitVec.ofNat 8 act])]
/-- Partition 0 is absent; partition 1 holds die 5. -/
def absent (s : State) : State :=
  { s with parts := [(1, { Partition.reset with state := 2 })], rings := [], dict := mset netDict [] (dkey 0x2000 1 1) (leBytes 2 0x20) }
/-- Partition 0 is there, without a job. -/
def present (s : State) : State := { s with parts := [(0, { tPart with job := none })], rings := [(4, { tRing with subTail := 2 })] }

theorem witness_PartitionCommits : let s := cState (partC 0x11 5 1) absent; let v := (partC 0x11 5 1).num
    Samp (partC 0x11 5 1) (asks 0xA 1) absent ∧ badPartition v = false ∧ (s.slotOf (v 2)).isSome = true ∧ v 1 ≠ 0 ∧ s.taken 0 v = false ∧ s.exists_ 0 = false :=
  ⟨samples_of (by decide +kernel), by decide +kernel⟩
theorem witness_PartitionCommits_refused : Samp (partC 0 5 1) (asks 0xA 1) absent ∧ (partC 0 5 1).num 1 = 0 ∧ Samp (partC 0x20 5 1) (asks 0xA 1) absent ∧
    (cState (partC 0x20 5 1) absent).taken 0 (partC 0x20 5 1).num = true ∧ Samp (partC 1 5 1) (asks 0xA 1) id ∧ (cState (partC 1 5 1) id).partBusy 0 = true ∧
    Samp (partC 1 6 2) (asks 0xA 2) present ∧ (cState (partC 1 6 2) present).slotOf 6 = none :=
  ⟨samples_of (by decide +kernel), by decide +kernel, samples_of (by decide +kernel), by decide +kernel, samples_of (by decide +kernel), by decide +kernel,
    samples_of (by decide +kernel), by decide +kernel⟩
theorem witness_PartitionCommits_change : let s := cState (partC 3 5 1) present
    Samp (partC 3 5 1) (asks 0xA 1) present ∧ s.exists_ 0 = true ∧ s.partBusy 0 = false ∧ s.taken 0 (partC 3 5 1).num = false ∧ s.owner 0 = 5 :=
  ⟨samples_of (by decide +kernel), by decide +kernel⟩
theorem witness_PartitionCommits_remove : let s := cState (partC 1 5 2) present
    Samp (partC 1 5 2) (asks 0xA 2) present ∧ badPartition (partC 1 5 2).num = false ∧ (s.slotOf 5).isSome = true ∧ s.exists_ 0 = true ∧ s.partBusy 0 = false :=
  ⟨samples_of (by decide +kernel), by decide +kernel⟩
def placeC (act n : Nat) : Staged := cp 0x2100 [(3, List.replicate n 0), (4, [BitVec.ofNat 8 act])]
theorem witness_PartitionCommits_placement : Samp (placeC 1 0) (asks 4 1) present ∧ Samp (placeC 1 1) (asks 4 1) present ∧ Samp (placeC 2 0) (asks 4 2) present ∧
    ¬((placeC 1 1).bytes 3).length = 512 * ((cState (placeC 1 1) present).partDies 0).length + 4 :=
  ⟨samples_of (by decide +kernel), samples_of (by decide +kernel), samples_of (by decide +kernel), by decide +kernel⟩
/-- Partition 0 is there, without a job, and partition 1 holds die 5. -/
def beside (s : State) : State :=
  let t := present s
  { t with parts := t.parts ++ [(1, { Partition.reset with state := 2 })], dict := mset t.dict [] (dkey 0x2000 1 1) (leBytes 2 0x20) }
theorem witness_PartitionCommits_remove_taken : let s := cState (partC 0x20 5 2) beside; let v := (partC 0x20 5 2).num
    Samp (partC 0x20 5 2) (asks 0xA 2) beside ∧ badPartition v = false ∧ (s.slotOf (v 2)).isSome = true ∧ s.exists_ 0 = true ∧ s.partBusy 0 = false ∧
      s.taken 0 v = true := ⟨samples_of (by decide +kernel), by decide +kernel⟩
/-- Partition 0 goes from tenant 5 to tenant 6. -/
def twoTenants (s : State) : State := let t := present s; { t with tenants := t.tenants ++ [(1, { tenant := 6, rights := 7, parts := 0xFFFF, key := [] })] }
theorem witness_PartitionCommits_owner : let s := cState (partC 1 6 1) twoTenants; let v := (partC 1 6 1).num
    Samp (partC 1 6 1) (asks 0xA 1) twoTenants ∧ badPartition v = false ∧ (s.slotOf (v 2)).isSome = true ∧ s.exists_ 0 = true ∧ s.partBusy 0 = false ∧
      s.taken 0 v = false ∧ v 2 ≠ s.owner 0 := ⟨samples_of (by decide +kernel), by decide +kernel⟩
theorem test_create : after (.partitionCreate 1) (cState (partC 0x11 5 1) absent) (fun t => ((t.part 0).state, t.partDies 0, (t.part 0).level)) =
    some (1, [0, 4], 12) := by decide +kernel
theorem test_remove : after (.partitionRemove 1) (cState (partC 1 5 2) present) (fun t => ((t.part 0).state, (t.part 0).removing, (t.ring 4).part)) =
    some (3, true, 255) := by decide +kernel

/-- Slot 1 takes tenant 6; slot 64 does not exist. -/
def tenantC (slot : Nat) : Staged := cp 0x6010 [(1, leBytes 1 slot), (2, leBytes 4 6), (3, [1]), (4, leBytes 2 1), (5, 1 :: List.replicate 32 7)]
theorem witness_SecurityCommits : Samp (tenantC 1) anyCopy id ∧ Samp (tenantC 64) anyCopy id ∧ (cState (tenantC 1) id).tenantRefusal (tenantC 1) = none ∧
    (cState (tenantC 64) id).tenantRefusal (tenantC 64) = some 0x0104 := ⟨samples_of (by decide +kernel), samples_of (by decide +kernel), by decide +kernel⟩
def fwC (act off : Nat) (chunk : List Byte) : Staged := cp 0x6100 [(1, leBytes 4 off), (2, chunk), (3, [BitVec.ofNat 8 act])]
def fwDev (s : State) : State := { s with hub := { s.hub with verified := [1], fwHash := [1], svn := 4 } }
def recDev (s : State) : State := { s with hub := { s.hub with phase := .recovery } }
theorem witness_SecurityCommits_firmware : Samp (fwC 4 0 []) (asks 3 4) fwDev ∧ (cState (fwC 4 0 []) fwDev).hub.verified = (cState (fwC 4 0 []) fwDev).hub.fwHash ∧
    Samp (fwC 4 0 []) (asks 3 4) id ∧ (cState (fwC 4 0 []) id).hub.fwHash = [] ∧ Samp (fwC 3 0 []) (asks 3 3) recDev ∧
    (cState (fwC 3 0 []) recDev).hub.phase = .recovery ∧ (cState (fwC 3 0 []) recDev).hub.straps.testBit 3 = false ∧ Samp (fwC 3 0 []) (asks 3 3) id ∧
    (cState (fwC 3 0 []) id).hub.phase ≠ .recovery ∧ Samp (fwC 4 1 []) (asks 3 4) id ∧ Samp (fwC 3 1 []) (asks 3 3) id ∧ (fwC 4 1 []).num 1 % 4096 ≠ 0 :=
  ⟨samples_of (by decide +kernel), by decide +kernel, samples_of (by decide +kernel), by decide +kernel, samples_of (by decide +kernel), by decide +kernel,
    by decide +kernel, samples_of (by decide +kernel), by decide +kernel, samples_of (by decide +kernel), samples_of (by decide +kernel), by decide +kernel⟩
def quoteC : Staged := cp 0x6030 [(1, List.replicate 32 1), (2, [])]
def epochDev (used st : Nat) (s : State) : State := { s with hub := { s.hub with rootUsed := used, epochState := st, epochUsed := 4 } }
theorem witness_SecurityCommits_quote : Samp quoteC anyCopy (epochDev 1 2) ∧ Samp quoteC anyCopy (epochDev 1 3) ∧ Samp quoteC anyCopy (epochDev 1 1) ∧
    Samp quoteC anyCopy (epochDev 32768 2) ∧ (quoteC.bytes 1).length = 32 ∧ (quoteC.bytes 2).length = 0 ∧ (cState quoteC (epochDev 1 2)).hub.epochState = 2 :=
  ⟨samples_of (by decide +kernel), samples_of (by decide +kernel), samples_of (by decide +kernel), samples_of (by decide +kernel), by decide +kernel⟩
def debugC (v : Nat) : Staged := cp 0x6040 [(1, [BitVec.ofNat 8 v])]
theorem witness_SecurityCommits_debug : Samp (debugC 1) anyCopy id ∧ Samp (debugC 2) anyCopy id ∧ Samp (debugC 0) anyCopy present ∧
    (cState (debugC 1) id).ofTenant (cSess (debugC 1)) = true ∧ (cState (debugC 1) id).hasDebug (cSess (debugC 1)) = true :=
  ⟨samples_of (by decide +kernel), samples_of (by decide +kernel), samples_of (by decide +kernel), by decide +kernel⟩
theorem test_tenant : after (.tenantCommit 1) (cState (tenantC 1) id) (fun t => ((mget t.tenants Tenant.reset 1).tenant, (mget t.tenants Tenant.reset 0).tenant)) =
    some (6, 5) := by decide +kernel
theorem test_raise : after (.raiseMinimum 1) (cState (fwC 4 0 []) fwDev) (fun t => t.hub.svnMin) = some 4 := by decide +kernel

/-- Logical macro 0 of partition 0 stands at macro 0, whose page 3 is valid, its CRC 0x1234. -/
def pageDev (page : Page) (s : State) : State :=
  { s with parts := [(0, { tPart with job := none, debug := 1, placement := { Placement.reset with dies := [0], cores := [(0, 0)], maps := [(0, [0])] } })],
           dict := mset s.dict [] (dkey 0x2000 0 1) (leBytes 2 1), macros := [(0, { Macro.reset with pages := [(3, page)], acc := [(0, 5), (1, -1)] })] }
def vPage : Page := { Page.reset with valid := true, crc := 0x1234, gen := 7 }
def queryC (mode n : Nat) : Staged := cp 0x5130 [(1, leBytes 4 n), (2, [BitVec.ofNat 8 mode]), (3, [1])]
theorem witness_QueriesComplete : let v := (cS' (queryC 0 3) (pageDev vPage)).store (queryC 0 3) fun _ => true
    Samp (queryC 0 3) (asks 2 0) (pageDev vPage) ∧ v.queryPage 0 = .ok (0, 3) ∧ v.dval 0x5130 0 2 0 = 0 :=
  ⟨samples_of (by decide +kernel), ok_of (by decide +kernel), by decide +kernel⟩
theorem witness_QueriesComplete_remeasure : let s := cState (queryC 1 3) (pageDev vPage); let v := (cS' (queryC 1 3) (pageDev vPage)).store (queryC 1 3) fun _ => true
    Samp (queryC 1 3) (asks 2 1) (pageDev vPage) ∧ v.queryPage 0 = .ok (0, 3) ∧ (s.mac 0).betweenProducts = true ∧ ((s.mac 0).page 3).suspects = [] :=
  ⟨samples_of (by decide +kernel), ok_of (by decide +kernel), by decide +kernel⟩
theorem witness_QueriesComplete_refused : let v := (cS' (queryC 0 3) (pageDev Page.reset)).store (queryC 0 3) fun _ => true
    Samp (queryC 0 3) (asks 2 0) (pageDev Page.reset) ∧ v.queryPage 0 = .error 0x0110 ∧ Samp (queryC 0 64) (asks 2 0) (pageDev vPage) ∧
      (queryC 0 64).num 3 = 1 ∧ (queryC 0 64).num 1 / 64 % 1024 ≠ 0 :=
  ⟨samples_of (by decide +kernel), err_of (by decide +kernel), samples_of (by decide +kernel), by decide +kernel⟩
def peekC (len : Nat) : Staged := cp 0xA020 [(1, leBytes 4 0), (2, [0]), (3, leBytes 4 0), (4, leBytes 4 len)]
theorem witness_QueriesComplete_debug : let s := cState (peekC 1024) (pageDev vPage); let v := (cS' (peekC 1024) (pageDev vPage)).store (peekC 1024) fun _ => true
    Samp (peekC 1024) anyCopy (pageDev vPage) ∧ (s.part 0).debug = 1 ∧ v.peekTarget 0 = some 0 ∧ s.unitIdle 0 = true ∧ s.unclean 0 = false ∧
      Samp (peekC 1028) anyCopy (pageDev vPage) ∧ (peekC 1028).num 4 > 1024 :=
  ⟨samples_of (by decide +kernel), by decide +kernel, by decide +kernel, by decide +kernel, by decide +kernel, samples_of (by decide +kernel), by decide +kernel⟩
theorem test_query : after (.queryStored 1) (cState (queryC 0 3) (pageDev vPage)) (fun t => (t.dbytes 0x5130 0 0x10, t.dbytes 0x5130 0 0x11)) =
    some ([0x34, 0x12, 0, 0], [7]) := by decide +kernel
theorem test_peek : after (.accumulatorRead 1) (cState (peekC 8) (pageDev vPage)) (fun t => t.dbytes 0xA020 0 0x10) =
    some [5, 0, 0, 0, 255, 255, 255, 255] := by decide +kernel

/-- A sound image without a body, its signature of one level with LMS type 7 and LMOTS type 4, 1,616 bytes (Table 16.1, R446), as flash cells. -/
def imageHead : List Byte :=
  leBytes 4 0x46571620 ++ leBytes 4 0 ++ leBytes 4 3 ++ leBytes 4 0 ++ leBytes 4 1616 ++ List.replicate 12 0 ++ sha256 []
def tFlash : Map Byte := (List.range 64).zip imageHead ++ [(75, 4), (1199, 7)]
/-- What the ROM finds of it: it verifies under ROM key 0. -/
def tImage : ImageRead := { verifies := [0] }

/-- Session 1's firmware action `a` goes on (R449). -/
def sAction (a : Nat) (chunk : List Byte) : State :=
  let s := sNet tSess id
  { s with slp := { s.slp with waits := [(1, firmwareGoesOn)] }, dict := [(dkey 0x6100 0 1, leBytes 4 0x2000), (dkey 0x6100 0 2, chunk), (dkey 0x6100 0 3, [BitVec.ofNat 8 a])],
           hub := { s.hub with flash := tFlash } }

theorem witness_FirmwareCompletes : let s := sAction 1 (List.replicate 4096 7)
    s.session 1 = some tSess ∧ tSess.inbox = [] ∧ s.actionOf 1 1 = true ∧ (s.dbytes 0x6100 0 2).length = 4096 := by decide +kernel
theorem witness_FirmwareCompletes_committed : let c := fwC 2 0x1000 []; Samp c (asks 3 2) id ∧ (cState c id).actionOf 1 2 = false ∧ c.num 1 % 4096 = 0 ∧
    (c.bytes 2).length ≤ 4096 := ⟨samples_of (by decide +kernel), by decide +kernel⟩
theorem witness_FirmwareCompletes_finish : (sAction 2 []).session 1 = some tSess ∧ (sAction 2 []).actionOf 1 2 = true := by decide +kernel
theorem witness_FirmwareCompletes_statuses : (sAction 2 []).imageStatus tImage = 0 ∧ (sAction 2 []).imageStatus { verifies := [1] } = 0x0420 := by decide +kernel
theorem test_finish : after (.finish 1 (some tImage)) (sAction 2 []) (fun t => (t.hub.finished, t.slp.waits)) = some (true, []) := by decide +kernel

/-! ### Jobs and partitions -/

/-- A program image (Table 9.1): one segment of one instruction, one assignment of logical core 0, one handle set, no page. -/
def imageBytes : List Byte :=
  leBytes 4 0x53541620 ++ [0x10, 1, 0, 0] ++ leBytes 2 1 ++ leBytes 2 1 ++ leBytes 4 0 ++ leBytes 4 0x80 ++ leBytes 4 0x90 ++ leBytes 4 0x100 ++
    leBytes 4 0x600 ++ leBytes 2 1 ++ leBytes 2 0 ++ leBytes 4 0x100 ++ List.replicate 24 0 ++
    (List.range 4).flatMap (fun l => [BitVec.ofNat 8 l, 0] ++ leBytes 2 0x7FFF ++ List.replicate 12 0) ++
    (leBytes 4 0x500 ++ leBytes 4 1) ++ List.replicate 8 0 ++ List.replicate 8 0

/-- A descriptor (Table 11.10) of that image in window 0, `IN_ALIVE` 1, `TAG` 0x77; `bad` spoils a reserved field. -/
def jobBytes (bad : Bool) : List Byte :=
  let b := [if bad then 4 else 0, 0, 0, 0, 0, 0, 0, 0] ++ leBytes 8 0 ++ leBytes 8 0 ++ leBytes 8 0 ++ leBytes 4 0 ++ leBytes 4 1 ++ leBytes 4 0 ++ leBytes 4 0 ++
    leBytes 4 0 ++ leBytes 8 0x77
  b ++ leBytes 4 (crc32c b)

/-- Ring 3 of partition 0 lies in window 1, whose page is at 0x10000. -/
def sSelect (bad marked : Bool) : State :=
  { State.reset with
    hub := { Hub.reset with phase := .running, ready := true }, rings := [(3, { tRing with rwin := 1, cmpOff := 0x1000 })],
    parts := [(0, { Partition.reset with state := 2, marked := marked, windows := [(0, tWin), (1, { tWin with pages := [0x10000] })],
                                         placement := { Placement.reset with dies := [0], cores := [(0, 0)] } })],
    cores := [(0, { Core.reset with part := some 0 })],
    mem := (Memory.reset.write 0 imageBytes).write 0x10080 (jobBytes bad) }

def sSelected (bad marked : Bool) : State :=
  let s := sSelect bad marked
  let j := { Job.reset with state := 1, ring := 3, slot := 2 }
  ((s.updPart 0 fun q => { q with lastRing := 3, preempted := q.marked, job := some j }).logJob 0 j 1 0).trace 0 1 j.place

theorem witness_SelectionCompletes : let s := sSelect false false; let s' := sSelected false false
    partOk 0 = true ∧ s.maySelect 0 = true ∧ s.chooseRing 0 = some (3, s.ring 3) ∧ (s.part 0).marked = false ∧
      s'.descriptor 0 (s.ring 3) 2 = .ok (jobBytes false) ∧ ∃ g, s'.crossed.checkJob 0 (jobBytes false) (some (s.ring 3).nextAlive) = (true, .ok g) :=
  ⟨by decide, by decide +kernel, by decide +kernel, by decide +kernel, ok_of (by decide +kernel),
    _, Prod.ext (by decide +kernel) (ok_or (a := ⟨[], [], [], [], false, []⟩) (by decide +kernel))⟩
def recordAt : Nat := 0x10000 + 0x1000 + 32 * 3

theorem room_select (bad marked : Bool) (h : okIs ((sSelect bad marked).windowAt 18 0 1 (0x1000 + 32 * 3) 32 rWR) [(recordAt, 32)] = true)
    (h2 : (sSelect bad marked).mem.badPart recordAt 32 = none) : (sSelect bad marked).recordRoom 0 { tRing with rwin := 1, cmpOff := 0x1000 } recordAt :=
  ⟨ok_of h, h2⟩
theorem witness_SelectionCompletes_refused : let s := sSelect true false; let s' := sSelected true false
    s.maySelect 0 = true ∧ s.chooseRing 0 = some (3, s.ring 3) ∧ (s.part 0).marked = false ∧ s'.descriptor 0 (s.ring 3) 2 = .ok (jobBytes true) ∧
      (∃ aged, s'.crossed.checkJob 0 (jobBytes true) (some (s.ring 3).nextAlive) = (aged, .error 0x0700)) ∧ s.recordRoom 0 (s.ring 3) recordAt :=
  ⟨by decide +kernel, by decide +kernel, by decide +kernel, ok_of (by decide +kernel),
    ⟨false, Prod.ext (by decide +kernel) (err_of (by decide +kernel))⟩, room_select true false (by decide +kernel) (by decide +kernel)⟩
theorem witness_SelectionCompletes_marked : let s := sSelect false true
    s.maySelect 0 = true ∧ s.chooseRing 0 = some (3, s.ring 3) ∧ (s.part 0).marked = true ∧ (s.part 0).preempted = false ∧
      (sSelected false true).descriptor 0 (s.ring 3) 2 = .ok (jobBytes false) ∧ s.recordRoom 0 (s.ring 3) recordAt :=
  ⟨by decide +kernel, by decide +kernel, by decide +kernel, by decide +kernel, ok_of (by decide +kernel), room_select false true (by decide +kernel) (by decide +kernel)⟩

/-- The descriptors of the ring lie past the end of its window. -/
def sUnread (marked : Bool) : State := { sSelect false marked with rings := [(3, { tRing with rwin := 1, subOff := 0x20000, cmpOff := 0x1000 })] }
def sUnreadIn (marked : Bool) : State :=
  let s := sUnread marked
  let j := { Job.reset with state := 1, ring := 3, slot := 2 }
  ((s.updPart 0 fun q => { q with lastRing := 3, preempted := q.marked, job := some j }).logJob 0 j 1 0).trace 0 1 j.place
theorem witness_SelectionCompletes_unread : ∀ marked : Bool, let s := sUnread marked
    s.maySelect 0 = true ∧ s.chooseRing 0 = some (3, s.ring 3) ∧ (s.part 0).marked = marked ∧ (s.part 0).preempted = false ∧
      errIs ((sUnreadIn marked).descriptor 0 (s.ring 3) 2) 0x0402 = true ∧
      okIs (s.windowAt 18 0 1 (0x1000 + 32 * 3) 32 rWR) [(recordAt, 32)] = true ∧ s.mem.badPart recordAt 32 = none := by decide +kernel
theorem test_selection_unread : after (.jobSelection 0 Harm.none) (sUnread false) (fun t => (t.mem.readN recordAt 2, (t.part 0).job.isSome)) =
    some ([2, 4], false) := by decide +kernel

/-- The job of a sound descriptor is in hand; an unsound one completes with 0x0700 and its record (R347, R349). -/
theorem test_selection : after (.jobSelection 0 Harm.none) (sSelect false false) (fun t => (t.part 0).job.map fun j => (j.tag, j.assign)) =
    some (some (0x77, [(0, 0x500, 1)])) := by decide +kernel
theorem test_selection_refused : after (.jobSelection 0 Harm.none) (sSelect true false) (fun t => (t.mem.readN recordAt 16, (t.ring 3).cmpTail)) =
    some ([0, 7, 0, 0, 3, 0, 2, 0, 0x77, 0, 0, 0, 0, 0, 0, 0], 4) := by decide +kernel

/-- Partition 0 with a job as given, on core 0. -/
def sJob (j : Job) (f : Partition → Partition) : State := { tS 0 id with parts := [(0, f { tPart with job := some j })] }

theorem witness_JobStartCompletes : let j := { tJob with state := 1, ready := true, assign := [(0, 0x500, 1)] }; let s := sJob j id
    partOk 0 = true ∧ (s.part 0).job = some j ∧ j.state = 1 ∧ j.ready = true ∧ ((s.partMacros 0).any fun e => e.2.holdsStart) = false ∧
      (j.assign.map Prod.fst).Nodup ∧ (s.core 0).part = some 0 := by decide +kernel
theorem witness_JobStartCompletes_held : let s := { sJob { tJob with state := 1, ready := true } id with
      macros := [(0, { Macro.reset with cfg := { Macro.reset.cfg with enable := true }, bankB := { Bank.reset with due := true } })] }
    ((s.partMacros 0).any fun e => e.2.holdsStart) = true := by decide +kernel
theorem test_start : after (.jobStart 0) (sJob { tJob with state := 1, ready := true, assign := [(0, 0x500, 1)] } id)
    (fun t => ((t.core 0).segStart, (t.core 0).segCount, (t.core 0).pc, (t.core 0).inJob, t.jobState 0)) = some (0x500, 1, 0, true, 2) := by decide +kernel

theorem witness_FaultedJobCompletes_limit : let j := { tJob with tlimit := 1 }
    let s := { sJob j id with hub := { Hub.reset with phase := .running, tick := 4167 } }
    j.state = 2 ∧ j.tlimit ≠ 0 ∧ j.tlimit * 10 ^ 6 ≤ (s.hub.tick - j.startTick) * 240 ∧ ∀ f ∈ (s.part 0).faults, f.status ≠ 0x0706 := by decide +kernel
theorem witness_FaultedJobCompletes : let s := sJob tJob fun q => { q with faults := [tFault 2 0x0106] }
    (s.part 0).job = some tJob ∧ tJob.state = 2 ∧ (s.part 0).faults = tFault 2 0x0106 :: [] ∧ (tFault 2 0x0106).charge = 0 := by decide +kernel
theorem witness_FaultedJobCompletes_stop : (sJob { tJob with state := 3 } id).jobState 0 = 3 := by decide +kernel
theorem witness_FaultedJobCompletes_clear : let j := { tJob with state := 4 }; let s := sJob j id
    (s.part 0).job = some j ∧ j.state = 4 ∧ j.cleared = false ∧ ((s.partMacros 0).any fun e => e.2.testPage.isSome) = false ∧ j.wrote = [] := by decide +kernel
theorem test_fault : after (.fault 0) (sJob tJob fun q => { q with faults := [tFault 2 0x0106] }) (fun t => (t.part 0).job.map fun j => (j.state, j.status)) =
    some (some (3, 0x0106)) := by decide +kernel

/-- A job whose one core has ended; its ring lies in window 1. -/
def endJob : Job := { tJob with ring := 3, slot := 2 }
def sEnd : State :=
  let s := tS 0 fun k => { k with ended := true, state := 0 }
  { s with rings := [(3, { tRing with rwin := 1, cmpOff := 0x1000 })],
           parts := [(0, { tPart with job := some endJob, windows := [(0, tWin), (1, { tWin with pages := [0x10000] })] })] }
def uEnd : State := (sEnd.boundary 0).1

theorem witness_BoundaryCompletes : let s := sEnd; let u := uEnd
    partOk 0 = true ∧ (s.part 0).job = some endJob ∧ s.atEnd 0 endJob = true ∧ s.hub.phase ≠ .tripped ∧ s.boundary 0 = (u, false) ∧ endJob.again false = false ∧ (u.part 0).flushing = false ∧
      u.struck = none ∧ u.recordRoom 0 (u.ring endJob.ring) recordAt :=
  ⟨by decide, by decide +kernel, by decide +kernel, by decide +kernel, Prod.ext rfl (by decide +kernel), by decide, by decide +kernel, by decide +kernel,
    show _ = _ from ok_of (by decide +kernel), by decide +kernel⟩
/-- Its restart is granted; the descriptor names the program at window 0. -/
def againJob : Job := { endJob with state := 4, status := 0x0302, restartable := true, cleared := true }
def sAgain : State := { sSelect false false with
  parts := [(0, { ((sSelect false false).part 0) with job := some againJob })] }
def uAgain : State := (sAgain.boundary 0).1
def vAgain : State := (uAgain.count 0 cRestarts 1 0xFFFFFFFF).trace 0 1 againJob.place
theorem witness_BoundaryCompletes_again : ∃ r, sAgain.boundary 0 = (uAgain, r) ∧ (sAgain.part 0).job = some againJob ∧ sAgain.atEnd 0 againJob = true ∧
    againJob.again r = true ∧ againJob.restarts < 3 ∧ (uAgain.part 0).reload = [] ∧ vAgain.descriptor 0 (vAgain.ring 3) 2 = .ok (jobBytes false) ∧
      ∃ aged g, vAgain.crossed.checkJob 0 (jobBytes false) none = (aged, .ok g) :=
  ⟨(sAgain.boundary 0).2, Prod.ext rfl rfl, by decide +kernel, by decide +kernel, by decide +kernel, by decide, by decide +kernel, ok_of (by decide +kernel),
    false, _, Prod.ext (by decide +kernel) (ok_or (a := ⟨[], [], [], [], false, []⟩) (by decide +kernel))⟩
theorem witness_BoundaryCompletes_plain : sEnd.pendingOf 0 = ([], [], []) ∧ (sEnd.part 0).waiting = none ∧ (sEnd.part 0).newWindows = none ∧
    (sJob tJob id).atEnd 0 tJob = false := by decide +kernel
/-- The record's status, phase, ring, slot and `TAG` (Table 11.11). -/
theorem test_boundary : after (.jobBoundary 0 Harm.none) sEnd (fun t => (t.mem.readN recordAt 9, (t.part 0).job.isSome, (t.ring 3).subHead)) =
    some ([0, 0, 0, 0, 3, 0, 2, 0, 5], false, 3) := by decide +kernel

theorem witness_BuildsComplete_erasure : let s := sJob tJob fun q => { q with erasing := [4] }
    arrayDieOk 4 = true ∧ (List.range 16).find? (fun q => (s.part q).erasing.contains 4) = some 0 := by decide +kernel
theorem witness_BuildsComplete_ready : let s := sJob tJob fun q => { q with state := 1 }
    ((s.part 0).state = 1 ∨ (s.part 0).state = 3) ∧ (s.part 0).erasing = [] ∧ (s.part 0).removing = false := by decide +kernel
theorem witness_BuildsComplete_removed : let s := sJob tJob fun q => { q with state := 3, removing := true }
    (s.part 0).state = 3 ∧ (s.part 0).erasing = [] ∧ (s.part 0).removing = true := by decide +kernel
theorem witness_BuildsComplete_version : let s := sJob tJob fun q => { q with building := [0x8400], job := none }; let u := sJob tJob fun q => { q with building := [0x8400] }
    (s.part 0).building = [0x8400] ∧ (s.part 0).job = none ∧ (s.part 0).waiting = none ∧ (u.part 0).building = [0x8400] ∧ (u.part 0).job ≠ none := by
  decide +kernel
theorem witness_BuildsComplete_placement : let s := sJob tJob fun q => { q with building := [0x2100, 0x8400] }
    0x2100 ∈ (s.part 0).building := by decide +kernel
theorem witness_BuildsComplete_windows : let s := sJob tJob fun q => { q with newWindows := some [(1, tWin)] }
    (s.part 0).newWindows = some [(1, tWin)] ∧ (s.part 0).waiting = none ∧ (s.part 0).building = [] := by decide +kernel
theorem test_removed : after (.partitionReady 0) (sJob tJob fun q => { q with state := 3, removing := true, job := none }) (fun t => ((t.part 0).state, (t.part 0).windows)) =
    some (0, []) := by decide +kernel

/-! ### Power -/

/-- Partition 0 on die 4, at level 12, as `f` makes it. -/
def sPower (f : Partition → Partition) : State :=
  { State.reset with hub := { Hub.reset with phase := .running, tick := 100 }, dict := [(dkey 0x2000 0 1, leBytes 2 0x10)],
                     parts := [(0, f { Partition.reset with state := 2, placement := { Placement.reset with dies := [4] } })] }

theorem witness_LevelChangeCompletes : let s := sPower fun q => { q with decided := some 7, raise := some (14, 60) }
    targetOk 0 = true ∧ s.decidedOf 0 = some 7 ∧ 7 < s.levelOf 0 ∧ (sPower id).decidedOf 0 = none := by decide +kernel
theorem witness_LevelChangeCompletes_raise : let s := sPower fun q => { q with decided := some 14, level := 12 }
    let u := sPower fun q => { q with decided := some 11, level := 3 }; let v := sPower fun q => { q with decided := some 14, level := 12, raise := some (13, 90) }
    s.decidedOf 0 = some 14 ∧ s.levelOf 0 < 14 ∧ s.raiseOf 0 = none ∧ pacePoint 14 ≠ pacePoint (s.levelOf 0) ∧ u.decidedOf 0 = some 11 ∧ u.levelOf 0 < 11 ∧
      pacePoint 11 = pacePoint (u.levelOf 0) ∧ v.levelOf 0 < 14 ∧ (v.raiseOf 0).isSome = true := by decide +kernel
theorem witness_LevelChangeCompletes_rails : let s := sPower fun q => { q with raise := some (14, 60) }; let u := sPower fun q => { q with raise := some (14, 61) }
    s.raiseOf 0 = some (14, 60) ∧ 60 + 40 ≤ s.hub.tick ∧ railOk 5 = true ∧ u.raiseOf 0 = some (14, 61) ∧ u.hub.tick < 61 + 40 := by decide +kernel
theorem test_level_raise : after (.levelChange 0) (sPower fun q => { q with decided := some 14 }) (fun t => (t.levelOf 0, t.raiseOf 0)) = some (12, some (14, 100)) := by
  decide +kernel
theorem test_level_reached : after (.railTargetReached 0) (sPower fun q => { q with raise := some (14, 60) }) (fun t => (t.levelOf 0, t.raiseOf 0)) = some (14, none) := by
  decide +kernel


/-- Events on rail 20 for partition 0, which draw 5,000 W for each fJ of one. -/
def tActs : List Activity := [{ rail := 20, part := some 0, kind := 0, count := 240000 * 5000000 }]

theorem le_foldl_fst {α : Type} {f : Nat × Nat → α → Nat × Nat} (hf : ∀ a x, a.1 ≤ (f a x).1) (l : List α) : ∀ a, a.1 ≤ (l.foldl f a).1 := by
  induction l with
  | nil => exact fun a => Nat.le_refl _
  | cons x l ih => exact fun a => Nat.le_trans (hf a x) (ih _)

theorem le_foldl_mem {α : Type} {f : Nat × Nat → α → Nat × Nat} (hf : ∀ a x, a.1 ≤ (f a x).1) {l : List α} {x : α} (hx : x ∈ l) {g : Nat}
    (hg : ∀ a, g ≤ (f a x).1) (a : Nat × Nat) : g ≤ (l.foldl f a).1 := by
  obtain ⟨u, v, rfl⟩ := List.append_of_mem hx
  rw [List.foldl_append, List.foldl_cons]
  exact Nat.le_trans (hg _) (le_foldl_fst hf v _)

theorem eventMw_tActs (s : State) : s.eventMw 20 tActs = 5000000 * Config.energyFj 20 0 := by
  have v : s.railMv 20 = 750 := if_neg (by decide)
  simp only [State.eventMw, tActs, List.map_cons, List.map_nil, List.sum_cons, List.sum_nil, v, Nat.add_zero]
  rw [show 240000 * 5000000 * Config.energyFj 20 0 * (750 * 750) = 5000000 * Config.energyFj 20 0 * (750 * 750 * 240000) by omega]
  exact Nat.mul_div_cancel _ (by decide)

theorem railRaw_tActs {s : State} {acts : List Activity} (here : s.partsHere = [0])
    (h : ((acts.filter fun a => a.rail == 20).filter fun a => a.part == some 0) = tActs) :
    (s.railRaw acts 20).rail = 20 ∧ ∃ l, (s.railRaw acts 20).parts = [(0, s.eventMw 20 tActs, l)] :=
  ⟨rfl, _, by simp only [State.railRaw, here, List.map_cons, List.map_nil, h]; rfl⟩

/-- At any cost of an event but 0, partition 0 draws more than 4,000 W. -/
theorem drawn_tActs {s : State} (here : s.partsHere = [0]) (k : (mget s.power.rails Rail.reset 20).k4096 = 4096)
    (acts : (((s.activities tActs).filter fun a => a.rail == 20).filter fun a => a.part == some 0) = tActs) (h : 0 < Config.energyFj 20 0) :
    4000000 < (s.drawn (s.railRaws tActs) 0).1 := by
  have step : ∀ (a : Nat × Nat) (r : RailRaw), a.1 ≤ ((r.parts.filter fun e => e.1 == 0).foldl (fun a e =>
      (a.1 + s.calibratedMw r.rail e.2.1, a.2 + s.calibratedMw r.rail e.2.2)) a).1 :=
    fun a r => le_foldl_fst (fun _ _ => Nat.le_add_right _ _) _ a
  have mem : s.railRaw (s.activities tActs) 20 ∈ s.railRaws tActs := List.mem_map_of_mem (by decide)
  obtain ⟨rail, _, part⟩ := railRaw_tActs here acts
  have most : 5000000 * Config.energyFj 20 0 ≤ (s.drawn (s.railRaws tActs) 0).1 := by
    refine le_foldl_mem step mem (fun a => ?_) (0, 0)
    rw [part, rail]
    simp only [List.filter, State.calibratedMw, k, List.foldl, BEq.rfl, eventMw_tActs]
    rw [Nat.mul_div_cancel _ (by decide)]
    exact Nat.le_add_left _ _
  omega

/-- What the events of rail 20 cost is the implementation's: at any cost but 0, the partition draws more than its share and the device more than 4,000 W. -/
theorem witness_LevelControlCompletes (h : 0 < Config.energyFj 20 0) : let s := sPower id; let r := s.railRaws tActs
    tActs.all activityOk = true ∧ 0 ∈ s.partsHere ∧ s.forced = false ∧ s.thermalForced 0 = false ∧ s.clampActive 0 = false ∧
      (s.part 0).share < (s.drawn r 0).1 + (s.drawn r 0).2 ∧ 0 < (s.part 0).level ∧
      4000000 < s.overheadDrawn r + (s.partsHere.map fun q => (s.drawn r q).1 + (s.drawn r q).2).sum := by
  have here : (sPower id).partsHere = [0] := by decide +kernel
  have e := drawn_tActs here (by decide +kernel) (by decide +kernel) h
  have share : ((sPower id).part 0).share = 0 := by decide +kernel
  refine ⟨by decide +kernel, by decide +kernel, by decide +kernel, by decide +kernel, by decide +kernel, ?_, by decide +kernel, ?_⟩
  · rw [share]; omega
  · rw [here, List.map_cons, List.map_nil, List.sum_cons, List.sum_nil]; omega
/-- A partition at rest draws nothing beyond its leakage; a force decides level 0. -/
theorem witness_LevelControlCompletes_forced : let s := { sPower id with power := { Power.reset with forceEnd := 200 } }
    ([] : List Activity).all activityOk = true ∧ s.forced = true ∧ 0 < (s.part 0).level ∧ s.clampActive 0 = false := by decide +kernel

/-- Rail 4 at address 0x21, which has failed twice. -/
def sRail (f : Power → Power) : State :=
  { sPower id with dict := [(dkey 0x3040 0 5, leBytes 4 (0x21 * 2 ^ 16))],
                   power := f { Power.reset with rails := [(4, { Rail.reset with fails := 2, rawSum := 4000, rawTicks := 2 })] } }
/-- The answer 0x0014, 20 W in LINEAR11, with its check. -/
def tReply : BusReply := { word := 0x0014, pec := pmbusPec 0x21 0x0014 }
theorem witness_TelemetryCompletes : let s := sRail id
    railOk 4 = true ∧ s.power.newRails = none ∧ s.pmbus 4 ≠ 0 ∧ s.pmbus 5 = 0 ∧ readingOf (s.pmbus 4) (some tReply) = some 20000 ∧
      readingOf (s.pmbus 4) none = none ∧ (mget s.power.rails Rail.reset 4).fails = 2 ∧ 0 ∈ s.partsHere := by decide +kernel
theorem witness_TelemetryCompletes_rails : let ws := List.replicate 24 0; (sRail fun w => { w with newRails := some ws }).power.newRails = some ws ∧
    ws.length = 24 ∧ (∀ w ∈ ws, w < 2 ^ 32) ∧ ws.getD 4 0 / 2 ^ 16 % 128 = 0 := by decide +kernel
/-- 20 W measured against a mean raw estimate of 2 W: k rises by an eighth of the way to 10, and is held at 2 (R400). -/
theorem test_read_pout : after (.readPout 4 (some tReply)) (sRail id) (fun t => ((mget t.power.rails Rail.reset 4).pout, (mget t.power.rails Rail.reset 4).k4096,
    t.power.measured)) = some (20, 8192, 20) := by decide +kernel
/-- The check of the PMBus over no bytes but zeros is 0, and over 1 the polynomial. -/
theorem test_pec : pecByte 0 0 = 0 ∧ pecByte 0 1 = 7 := by decide
theorem witness_TelemetryCompletes_shortfall : let s := { sPower fun q => { q with zeroTicks := 16 } with power := { Power.reset with overTicks := 41667, estimate := 3500000 } }
    41667 ≤ s.power.overTicks ∧ s.budget < s.power.estimate ∧ s.shortNow = true ∧ s.power.shortfall = false ∧ s.nextMarked = some 0 := by decide +kernel
theorem witness_TelemetryCompletes_shortfall_unmark : let s := { sPower fun q => { q with marked := true } with power := { Power.reset with underTicks := 4167 } }
    Config.msTicks ≤ s.power.underTicks ∧ s.nextUnmarked = some 0 := by decide +kernel
theorem test_shortfall : after .budgetShortfall (sPower fun q => { q with zeroTicks := 16 }) (fun t => ((t.part 0).marked, (mget t.hub.alarms Alarm.reset 4).raised)) =
    some (true, true) := by decide +kernel

theorem witness_DieLimitsComplete : let s := { sPower id with power := { Power.reset with shortTicks := [(9, 4166667)] } }
    arrayDieOk 4 = true ∧ s.dieOwner 4 = some 0 ∧ s.byCeilings 0 = false ∧ (s.part 0).raise = none ∧ (s.die 4).trim < 20 ∧ coreOk 9 = true ∧
      9 ∉ s.spares.cores ∧ 4166667 ≤ mget s.power.shortTicks 0 9 ∧ mget s.power.ceilLast 0 9 = 0 ∧ s.ceiling 9 ≠ 0 ∧ s.ceiling 9 ≤ 7 ∧ pacedOk 4 = true ∧
      (s.die 4).quarters.testBit 2 = false := by decide +kernel
theorem witness_DieLimitsComplete_three : let s := sPower fun q => { q with placement := { Placement.reset with dies := [4, 5, 6] } }
    s.dieOwner 4 = some 0 ∧ s.byCeilings 0 = true := by decide +kernel
def sFloor : State :=
  { sPower id with
    power := { Power.reset with ceilings := [(9, 0)], shortTicks := [(9, 4166667)],
                                dies := [(4, { PacedDie.reset with quarters := 4, trim := 20, goodTicks := 63 })] } }
theorem witness_DieLimitsComplete_floor : let s := sFloor
    s.ceiling 9 = 0 ∧ 9 ∉ s.spares.pendingCores ∧ (s.die 4).quarters.testBit 2 = true ∧ 20 ≤ (s.die 4).trim ∧ (s.die 4).goodTicks = 63 := by decide +kernel
theorem test_droop : after (.droop 4 2) (sPower id) (fun t => ((t.die 4).quarters, (mget t.hub.alarms Alarm.reset 1).detail)) = some (4, 2) := by decide +kernel

theorem witness_AlertsComplete : let s := sPower id
    wireOk 3 = true ∧ s.power.wires.testBit 3 = false ∧ s.alertMask.testBit 3 = true := by decide +kernel
theorem witness_AlertsComplete_held : State.reset.hub.phase ≠ .running ∧ State.reset.power.wires.testBit 3 = false := by decide
theorem witness_AlertsComplete_masked : ({ sPower id with dict := [(dkey 0x3050 0 5, [0xF7])] } : State).alertMask.testBit 3 = false := by decide +kernel
theorem witness_AlertsComplete_end : let s := { sPower id with power := { Power.reset with wires := 8 } }
    let u := { sPower id with power := { Power.reset with forceEnd := 90 } }
    s.power.wires.testBit 3 = true ∧ u.forced = true ∧ u.power.wires &&& u.alertMask = 0 ∧ u.power.forceEnd ≤ u.hub.tick := by decide +kernel
theorem test_alert : after (.alertWire 3 true) (sPower id) (fun t => ((t.part 0).level, (t.die 16).level, t.power.forceEnd)) = some (0, 0, 4267) := by decide +kernel

theorem witness_AlertsComplete_temperature : (sPower id).hub.phase = .running ∧ (List.replicate 20 (10500 : Int)).length = 20 ∧
    (List.replicate 8 (9500 : Int)).length = 8 ∧ State.reset.hub.phase = .porst ∧ sRecovery.hub.phase = .recovery := by decide +kernel
theorem test_hot : after (.temperatureSample (List.replicate 20 10500) (List.replicate 8 9500)) (sPower id) (fun t => ((t.part 0).decided, (t.tower 3).throttled)) =
    some (some 0, true) := by decide +kernel
theorem test_trip : after (.temperatureSample (List.replicate 20 11000) (List.replicate 8 9500)) sRecovery (fun t => (t.hub.thermtrip, t.hub.phase, t.hub.ready)) =
    some (true, .tripped, true) := by decide +kernel

/-! ### Upkeep, resets and start-up -/

theorem witness_UpkeepCompletes : let s := sPower id
    sramWord (storeBase 3 + 64) = true ∧ storeBase 3 + 64 ∉ s.mem.bad ∧ s.works = true ∧ bufWord (skinkBase 0) = false ∧ sramWord (skinkBase 0) = true ∧ skinkBase 0 < hubWords ∧ s.hub.phase ≠ .porst ∧
      s.hub.tick % Config.msTicks ≠ 0 := by decide +kernel
/-- A word that cannot be corrected already; and a word of a buffer, which keeps no pattern (log entry 86). -/
def sBad : State := { sPower id with mem := { Memory.reset with bad := [storeBase 3 + 64] } }
theorem witness_UpkeepCompletes_bad : storeBase 3 + 64 ∈ sBad.mem.bad ∧ sBad.works = true ∧ sramWord (bufBase 0 0) = true ∧ bufBase 0 0 < hubWords ∧
    bufWord (bufBase 0 0) = true := by decide +kernel
theorem test_patrol_bad : after (.sramPatrol (storeBase 3 + 64) []) sBad (fun t => (t.spares.sramUncorr, (mget t.hub.alarms Alarm.reset 6).raised)) =
    some (1, true) := by decide +kernel
theorem witness_UpkeepCompletes_column : let p := sramPlace (storeBase 3 + 64); let col := columnKey p 5
    let s := { sPower id with spares := { Spares.reset with columns := [(col, [(7, 90), (9, 95)])] } }
    storeBase 3 + 64 ∉ s.mem.bad ∧ col ∉ s.spares.columnsDue ∧ col ∉ s.spares.repaired ∧ p.row ≠ 7 ∧ p.row ≠ 9 ∧
      2 ≤ ((mget s.spares.columns [] col).filter fun e => e.1 != p.row && decide (s.hub.tick < e.2 + ticks24h)).length := by decide +kernel
theorem witness_UpkeepCompletes_loss : let s := sPower fun q => { q with log := { LogRing.reset with lostCount := 3, lostMask := 16, lostLast := 40, next := 9 } }
    (s.part 0).log.lostCount ≠ 0 ∧ (s.part 0).log.recs.length < 1024 := by decide +kernel
theorem witness_UpkeepCompletes_time : ({ sPower id with hub := { Hub.reset with phase := .running, tick := 8334 } } : State).hub.tick % Config.msTicks = 0 := by decide +kernel
theorem test_patrol_column : let col := columnKey (sramPlace (storeBase 3 + 64)) 5
    after (.sramPatrol (storeBase 3 + 64) [5]) { sPower id with spares := { Spares.reset with columns := [(col, [(7, 90), (9, 95)])] } }
      (fun t => (t.spares.columnsDue, t.inventory 6)) = some ([col], 1) := by decide +kernel
theorem test_patrol : after (.sramPatrol (storeBase 3 + 64) [5]) (sPower id) (fun t => (t.mem.soft, t.spares.sramCorrected)) = some ([storeBase 3 + 64], 1) := by decide +kernel

theorem witness_ResetsComplete : (sPower id).works = true ∧ sramWord hubWords = true ∧ hubWords ∉ (sPower id).mem.bad ∧ State.reset.works = false := by decide +kernel
theorem test_warm : after .watchdog (sPower id) (fun t => (t.hub.resetCause, t.hub.phase, t.hub.ready, t.hub.tick)) = some (2, .warmHeld, false, 100) := by decide +kernel
theorem test_porst : after (.porstNLow true) (sPower id) (fun t => (t.hub.phase, t.hub.tick, (t.part 0).state)) = some (.porst, 0, 0) := by decide +kernel

/-- The straps of a plain start. -/
def tTests : SelfTest := { macros := [], cores := [], skinks := [], lanes := [], corrected := [], columns := [], rows := [], channels := [], lanesDown := [] }
def tBoot (im : Option ImageRead) (rec0 ten : Bool) : Boot :=
  { mmode := 0, mrole := 0, recoveryN := rec0, testEn := ten, hubOk := true, image := im, tests := tTests, badLeaves := 0, epochOk := true, badRings := [],
    micros := 9, cut := none }
/-- With a sound image in flash. -/
def sFlash (p : Phase) : State := { State.reset with hub := { Hub.reset with phase := p, straps := 8, flash := tFlash } }

theorem witness_StartUpCompletes : let s := sFlash .porst; let b := tBoot (some tImage) true false
    s.hub.phase = .porst ∧ b.testEn = false ∧ b.hubOk = true ∧ b.cut = none ∧ b.recoveryN = true ∧ b.image = some tImage ∧ s.imageStatus tImage = 0 ∧
      b.badLeaves + s.hub.rootUsed < 32767 ∧ 32767 ≤ { b with badLeaves := 32767 }.badLeaves + s.hub.rootUsed := by decide +kernel
theorem witness_StartUpCompletes_other : (tBoot none true false).image = none ∧ (tBoot none true true).testEn = true := by decide
/-- A watchdog's warm reset after the first two steps. -/
theorem witness_StartUpCompletes_cut : { tBoot none true false with cut := some ([1, 2], 2) }.cut = some ([1, 2], 2) := by decide
theorem witness_StartUpCompletes_warm : let s := sFlash .warmHeld; let b := tBoot (some tImage) true false
    s.hub.phase = .warmHeld ∧ s.hub.refLost = false ∧ b.hubOk = true ∧ b.cut = none ∧ s.hub.straps.testBit 3 = true ∧ b.image = some tImage ∧
      s.imageStatus tImage = 0 ∧ b.epochOk = true ∧ b.badRings = [] := by decide +kernel
theorem test_start_up : after (.powerOnReset (tBoot (some tImage) true false)) (sFlash .porst) (fun t => (t.hub.phase, t.hub.ready, t.hub.bootEpoch, t.hub.rootUsed,
    t.hub.svn)) = some (.running, true, 1, 1, 3) := by decide +kernel
theorem test_recovery : after (.powerOnReset (tBoot none true false)) State.reset (fun t => (t.hub.phase, t.hub.lastStart)) = some (.recovery, 2) := by decide +kernel
theorem test_cut : after (.powerOnReset { tBoot none true false with cut := some ([1, 2], 2) }) State.reset (fun t => (t.hub.phase, t.hub.warmCause)) =
    some (.warmHeld, 2) := by decide +kernel

theorem witness_ScanAndEpochComplete : State.reset.hub.phase = .porst ∧ (sPower id).hub.phase ≠ .porst := by decide +kernel
theorem witness_ScanAndEpochComplete_tree : let h := { Hub.reset with phase := .running, epochState := 1 }
    h.phase = .running ∧ h.epochState = 1 ∧ (List.replicate 56 (1 : Byte)).length = 56 := by decide +kernel
theorem test_idcode : after .idcode State.reset (fun t => t.hub.tapReg) = some 0x21620FCB := by decide +kernel

/-! ### The machine as a whole -/

def isNext (o : Host.Outcome State Fault Refusal) : Bool := match o with | .next _ => true | _ => false
theorem witness_StepRunsFront : ({ State.reset with pending := [.idcode, .bypass] } : State).pending = .idcode :: [.bypass] := by decide
theorem witness_DeviceRunsOn : QueueOk { State.reset with pending := [.idcode, .bypass] } := by intro c h; revert c; decide
theorem witness_MemoryStaysCanonical : let s := sSelect false false; s.mem.wf = true ∧ s.mem.cells ≠ [] ∧ isNext (step s) = true := by decide +kernel
/-- An empty queue: one control tick passes. -/
theorem test_idle_tick : (match step (sPower id) with | .next t => t.hub.tick | _ => 0) = 101 := by decide +kernel

/-! ### Well-formedness: each check refuses a command that names what the device does not have -/

/-- Cores, macros and pages, at the last of each and one past it. -/
theorem smoke_cores : (Instr.mvm 4351 Harm.none).wf = true ∧ (Instr.mvm 4352 Harm.none).wf = false ∧ (Instr.preload 0 15 Harm.none).wf = true ∧ (Instr.preload 0 16 Harm.none).wf = false ∧
    (Instr.refreshOperation 0 17 false).wf = true ∧ (Instr.refreshOperation 0 18 false).wf = false ∧ (Instr.restore 0 0 63 []).wf = true ∧
    (Instr.restore 0 0 64 []).wf = false := by decide
theorem smoke_dies : (Instr.refreshIntervalRestore 16).wf = false ∧ (Instr.tenantErasure 16).wf = false ∧ (Instr.monitorTrim 16 []).wf = false ∧
    (Instr.creditReturn 0 0 20 0).wf = false ∧ (Instr.creditReturn 0 0 0 8).wf = false ∧ (Instr.creditReturn 0 257 0 0).wf = false ∧ (Instr.creditReturn 0 256 4352 0).wf = false ∧ (Instr.creditReturn 0 256 4351 0).wf = true ∧
    (Instr.creditReturn 16 0 0 0).wf = false ∧ (Instr.creditReturn 15 255 19 7).wf = true ∧ (Instr.droop 18 0).wf = false ∧ (Instr.droop 17 4).wf = false ∧
    (Instr.droop 17 3).wf = true := by decide
theorem smoke_engines : (Instr.skinkTile 36 Harm.none).wf = false ∧ (Instr.opsLo (8 * 3 + 2)).wf = false ∧ (Instr.opsLo (8 * 3 + 6)).wf = true ∧
    (Instr.opsLo (8 * 17 + 6)).wf = true ∧ (Instr.opsLo (8 * 18 + 1)).wf = false := by decide
theorem smoke_links : (Instr.laneSubstitution 45 false).wf = false ∧ (Instr.cwyFlitsLo 90).wf = false ∧ (Instr.rowRemap 8 0).wf = false ∧
    (Instr.arpRequest 17 Wrap.none 0).wf = false ∧ (Instr.arpRequest 16 Wrap.none 0).wf = true ∧ (Instr.dread { bareReq [] with port := 17 }).wf = false := by decide
theorem smoke_power : (Instr.levelChange 18).wf = false ∧ (Instr.raiseTimeout 0 24).wf = false ∧ (Instr.readPout 24 none).wf = false ∧
    (Instr.levelControl [{ rail := 24, part := none, kind := 0, count := 0 }]).wf = false ∧ (Instr.alertWire 8 true).wf = false ∧ (Instr.alertWire 7 true).wf = true ∧
    (Instr.jobSelection 16 Harm.none).wf = false ∧ (Instr.lossRecord 17).wf = false ∧ (Instr.lossRecord 16).wf = true := by decide
theorem smoke_registers : (RegRef.mac 0 18 0).wf = false ∧ (RegRef.core 4352 0).wf = false ∧ (RegRef.skink 36 0).wf = false ∧ (RegRef.engine 7 0).wf = false ∧
    (RegRef.cwy 90 0).wf = false ∧ (RegRef.pwr 18 0).wf = false ∧ (RegRef.pwr 17 0).wf = true := by decide

/-- Such a command stops the device: none can reach the hardware. -/
theorem test_ill_formed : exec (.mvm 4352 Harm.none) State.reset = .fault .noSuchUnit := by rfl
/-- An event that is not enabled leaves the device as it is. -/
theorem test_not_enabled : after .unmark (sPower id) (fun t => decide (t = sPower id)) = some true := by decide +kernel

end Sys2Proof.Tests
end

namespace Sys2Proof.Laws

open Sys2Proof.Machine

/-! ### What memory reads after a store and after a clear (R149, R432) -/

/-- Replacing the cells of a range changes what is read there and nothing else. -/
theorem mget_spliceCells (cells mid : List Host.Cell) (a n x : Nat) (hmid : ∀ c ∈ mid, a ≤ c.1 ∧ c.1 < a + n) :
    mget (spliceCells cells a n mid) (0 : Byte) x = if a ≤ x ∧ x < a + n then mget mid 0 x else mget cells 0 x := by
  have hlow : ∀ c ∈ cells.filter (fun c => decide (c.1 < a)), c.1 < a := by
    intro c hc; simpa using (List.mem_filter.1 hc).2
  have hhigh : ∀ c ∈ cells.filter (fun c => decide (a + n ≤ c.1)), a + n ≤ c.1 := by
    intro c hc; simpa using (List.mem_filter.1 hc).2
  unfold spliceCells
  by_cases hbelow : x < a
  · rw [if_neg (by omega), mget_append_absent _ _ _ _ (fun c hc => by have := hhigh c hc; omega),
      mget_append_absent _ _ _ _ (fun c hc => by have := hmid c hc; omega)]
    exact mget_filter _ _ _ _ (by simp [hbelow])
  · rw [List.append_assoc, mget_append _ _ _ _ (fun c hc => by have := hlow c hc; omega)]
    by_cases hin : x < a + n
    · rw [if_pos ⟨by omega, hin⟩]
      exact mget_append_absent _ _ _ _ (fun c hc => by have := hhigh c hc; omega)
    · rw [if_neg (by omega), mget_append _ _ _ _ (fun c hc => by have := hmid c hc; omega)]
      exact mget_filter _ _ _ _ (by simp; omega)

/-- The cells of a byte string are read as its bytes. -/
theorem mget_cellsOf (bs : List Byte) : ∀ a x : Nat, a ≤ x → mget (cellsOf a bs) 0 x = bs.getD (x - a) 0 := by
  induction bs with
  | nil => intro a x _; simp [cellsOf]
  | cons b bs ih =>
    intro a x hx
    have hlater : x ≠ a → mget (cellsOf (a + 1) bs) 0 x = (b :: bs).getD (x - a) 0 := by
      intro hne
      rw [ih (a + 1) x (by omega), show x - a = (x - (a + 1)) + 1 by omega, List.getD_cons_succ]
    have hfirst : mget (cellsOf (a + 1) bs) 0 a = 0 :=
      mget_absent _ _ _ fun c hc => by have := cellsOf_bounds bs (a + 1) c hc; omega
    unfold cellsOf
    by_cases hxa : x = a
    · subst hxa
      split
      · rename_i hb; rw [hfirst]; simp [hb]
      · simp [mget]
    · split
      · exact hlater hxa
      · simpa [mget, Ne.symm hxa] using hlater hxa

/-- A clear leaves zeros in its range and every other byte as before. -/
theorem clear_read (m : Memory) (a n x : Nat) : (m.clear a n).read x = if a ≤ x ∧ x < a + n then 0 else m.read x := by
  simpa [Memory.read, Memory.clear] using mget_spliceCells m.cells [] a n x (by simp)

/-- Bytes written are read back and every other byte is as before. -/
theorem write_read (m : Memory) (a x : Nat) (bs : List Byte) :
    (m.write a bs).read x = if a ≤ x ∧ x < a + bs.length then bs.getD (x - a) 0 else m.read x := by
  unfold Memory.read Memory.write
  rw [mget_spliceCells _ _ _ _ _ (cellsOf_bounds bs a)]
  split
  · rename_i hx; exact mget_cellsOf bs a x hx.1
  · rfl

/-- Bytes in a range depend on that range only. -/
theorem readN_congr {m m' : Memory} {a n : Nat} (h : ∀ x, a ≤ x → x < a + n → m'.read x = m.read x) : m'.readN a n = m.readN a n :=
  List.map_congr_left fun i hi => h _ (by omega) (by have := List.mem_range.1 hi; omega)

theorem write_readN (m : Memory) (a : Nat) (bs : List Byte) : (m.write a bs).readN a bs.length = bs := by
  apply List.ext_getElem (by simp [Memory.readN])
  intro i _ hi
  simp [Memory.readN, write_read, hi]

/-- A store makes no code word unsound. -/
theorem write_badPart {m : Memory} {a n : Nat} (h : m.badPart a n = none) (b : Nat) (bs : List Byte) :
    (m.write b bs).badPart a n = none := by
  have hnone : m.bad.find? (fun x => codeTouches x a n && !codeInside x a n) = none := by
    unfold Memory.badPart at h; split at h
    · assumption
    · cases h
  have hsub : (m.write b bs).bad.find? (fun x => codeTouches x a n && !codeInside x a n) = none :=
    List.find?_eq_none.2 fun x hx => List.find?_eq_none.1 hnone x (List.mem_filter.1 hx).1
  simp [Memory.badPart, hsub]

/-- Bytes in number as the places hold are stored there, in order, and nowhere else. -/
theorem writeExtents_stored {ext : List (Nat × Nat)} : ∀ {m : Memory} {bs : List Byte}, Writable m ext →
    (ext.map Prod.snd).sum = bs.length → ∃ m', writeExtents m ext bs = .ok m' ∧ Stored m m' ext bs := by
  induction ext with
  | nil =>
    intro m bs _ hlen
    have hbs : bs = [] := List.length_eq_zero_iff.1 (by simpa using hlen.symm)
    exact ⟨m, rfl, hbs ▸ rfl, fun _ _ => rfl⟩
  | cons e rest ih =>
    intro m bs hw hlen
    obtain ⟨a, n⟩ := e
    obtain ⟨hhead, hrest⟩ := List.pairwise_cons.1 hw.apart
    simp only [List.map_cons, List.sum_cons] at hlen
    have htake : (bs.take n).length = n := by simp; omega
    have hwrest : Writable (m.write a (bs.take n)) rest :=
      ⟨hrest, fun x hx => write_badPart (hw.sound x (List.mem_cons_of_mem _ hx)) _ _⟩
    obtain ⟨m', hok, hbytes, hother⟩ := ih (bs := bs.drop n) hwrest (by simp; omega)
    have hmin : min n bs.length = n := by omega
    refine ⟨m', ?_, ?_, fun x hx => ?_⟩
    · simp [writeExtents, hmin, hw.sound (a, n) (List.mem_cons_self ..), hok]
    · have hfront : m'.readN a n = bs.take n := by
        have hkeep : m'.readN a n = (m.write a (bs.take n)).readN a n := by
          refine readN_congr fun x hlo hhi => hother x ?_
          rintro ⟨r, hr, hrlo, hrhi⟩
          have := hhead r hr
          simp only at this; omega
        have hback := write_readN m a (bs.take n)
        rw [htake] at hback
        exact hkeep.trans hback
      change m'.readN a n ++ bytesAt m' rest = bs
      rw [hfront, hbytes, List.take_append_drop]
    · rw [hother x fun ⟨r, hr, hx'⟩ => hx ⟨r, List.mem_cons_of_mem _ hr, hx'⟩, write_read, htake,
        if_neg fun hin => hx ⟨(a, n), List.mem_cons_self .., hin⟩]

end Sys2Proof.Laws

namespace Sys2Proof.Laws

open Sys2Proof.Machine

/-! ### The state at reset -/

/-- Settles O57: at reset every table is empty, so what is read of a unit is its own reset value. -/
theorem resetState : Obligations.ResetState := by
  have hqueue : QueueOk State.reset := by intro c hc; cases hc
  have hpages : ∀ k page, ((State.reset.mac k).page page).valid = false := fun _ _ => rfl
  have hparts : ∀ p, State.reset.exists_ p = false ∧ (State.reset.part p).windows = [] ∧ (State.reset.part p).job = none :=
    fun _ => ⟨rfl, rfl, rfl⟩
  exact ⟨hqueue, reset_mem_wf, rfl, rfl, rfl, rfl, rfl, rfl, rfl, rfl, rfl, fun _ => rfl, hpages, hparts, fun _ => rfl⟩

end Sys2Proof.Laws

namespace Sys2Proof.Laws

open Sys2Proof.Machine

/-! ### The answer of a command that names units that exist -/

/-- A command that names existing units answers its effect, on the queue and the harm it was given. -/
theorem act_ok {ok : Bool} (h : ok = true) (s t : State) : act ok s t = .next { t with pending := s.pending, harm := s.harm } := by
  subst h; rfl

/-- An effect that touches neither the queue nor the harm is the whole answer. -/
theorem act_ok_of_same {ok : Bool} (h : ok = true) {s t : State} (hp : t.pending = s.pending) (hh : t.harm = s.harm) :
    act ok s t = .next t := by rw [act_ok h, ← hp, ← hh]

/-! ### Commits of registers (R14, R58, R68, R130, R235) -/

theorem commit_of_clash {m : Macro} {g : MacConfig} (h : g.clash = true) : m.commit g = { m with mapReject := true } := by
  simp [Macro.commit, h]

theorem commit_of_no_clash {m : Macro} {g : MacConfig} (h : g.clash = false) :
    m.commit g = { m with mapReject := false, committed := some g } := by simp [Macro.commit, h]

theorem exec_macCommit {c j : Nat} (hc : coreOk c = true) (hj : physOk j = true) (s : State) :
    exec (.macCommit c j) s = .next (s.updMac (macKey c j) fun x => x.commit x.staged) :=
  act_ok_of_same (by simp [hc, hj]) rfl rfl

theorem exec_coreCommit {c : Nat} (hc : coreOk c = true) (s : State) :
    exec (.coreCommit c) s = .next (s.updCore c fun k => { k with committed := some k.staged }) := act_ok_of_same hc rfl rfl

theorem exec_skinkCommit {e : Nat} (he : skinkOk e = true) (s : State) :
    exec (.skinkCommit e) s = .next (s.updSkink e fun x => { x with committed := some (x.stEnable, x.stPart, x.stLogical) }) :=
  act_ok_of_same he rfl rfl

/-- The commits of all macros whose partition runs no job act at the tick. -/
theorem settleCommits_mac (s : State) (k : Nat) :
    s.settleCommits.mac k = if s.atBoundary (macCore k) then (s.mac k).applyCommit else s.mac k :=
  mget_mmap_of_fixed s.macros Macro.reset (fun k m => if s.atBoundary (macCore k) then m.applyCommit else m) k (ite_self _)

/-- The commits of all cores whose partition runs no job act at the tick. -/
theorem settleCommits_core (s : State) (c : Nat) :
    s.settleCommits.core c = if s.atBoundary c then (s.core c).applyCommit else s.core c :=
  mget_mmap_of_fixed s.cores Core.reset (fun c k => if s.atBoundary c then k.applyCommit else k) c (ite_self _)

/-- The commits of all engines whose partition runs no job act at the tick. -/
theorem settleSkinks_skink (s : State) (e : Nat) :
    s.settleSkinks.skink e = if s.jobState (s.skink e).awaits ≤ 1 then (s.skink e).commitConfig else s.skink e :=
  mget_mmap_of_fixed s.skinks Skink.reset (fun _ x => if s.jobState x.awaits ≤ 1 then x.commitConfig else x) e (ite_self _)

theorem macro_applyCommit {m : Macro} {g : MacConfig} (h : m.committed = some g) :
    m.applyCommit.cfg = g ∧ m.applyCommit.committed = none := by simp [Macro.applyCommit, h]

theorem core_applyCommit {k : Core} {g : CoreConfig} (h : k.committed = some g) :
    k.applyCommit = { k with cfg := g, committed := none } := by simp [Core.applyCommit, h]

theorem skink_commitConfig {x : Skink} {g : Bool × Nat × Nat} (h : x.committed = some g) :
    x.commitConfig.enable = g.1 ∧ x.commitConfig.part = g.2.1 ∧ x.commitConfig.logical = g.2.2 ∧ x.commitConfig.committed = none := by
  simp [Skink.commitConfig, h]

/-! ### What a hub write does to one unit -/

theorem exec_registerWrite {r : RegRef} (h : r.wf = true) {v : Word} {s t : State} (ht : registerWriteStep r v s = t)
    (hp : t.pending = s.pending) (hh : t.harm = s.harm) : exec (.registerWrite r v) s = .next t := by
  subst ht; exact act_ok_of_same h hp hh

/-- A write to a register of the macros' block that the hub does not write has no effect (Tables 2.12, 3.8). -/
theorem macWrite_other {o : Nat} (ho : o ∉ [0x000, 0x004, 0x00C, 0x020, 0x024, 0x028, 0x02C, 0x030, 0x034, 0x038, 0x03C, 0x040])
    (c j : Nat) (v : Word) (s : State) : macWrite c j o v s = s := by
  simp only [List.mem_cons, List.not_mem_nil, or_false, not_or] at ho
  have hlane : ¬(0x020 ≤ o ∧ o < 0x040 ∧ o % 4 = 0) := by omega
  simp [macWrite, ho, hlane]

/-- A lane map register takes its valid bit and its lane (Table 2.19). -/
theorem macWrite_laneMap {i : Nat} (hi : i < 8) (c j : Nat) (v : Word) (s : State) :
    macWrite c j (0x020 + 4 * i) v s = s.updMac (macKey c j) fun x => { x with staged := { x.staged with
      lanes := mset x.staged.lanes 0 i ((if v.toNat.testBit 31 then 2 ^ 31 else 0) + v.toNat % 256) } } := by
  have hlane : 0x020 ≤ 0x020 + 4 * i ∧ 0x020 + 4 * i < 0x040 ∧ (0x020 + 4 * i) % 4 = 0 := by omega
  have hidx : (0x020 + 4 * i - 0x020) / 4 = i := by omega
  have hbit : ∀ b : Bool, bit b * 2 ^ 31 = if b then 2 ^ 31 else 0 := by decide
  have h0 : 0x020 + 4 * i ≠ 0x000 := by omega
  have h4 : 0x020 + 4 * i ≠ 0x004 := by omega
  have hC : 0x020 + 4 * i ≠ 0x00C := by omega
  simp only [macWrite, h0, h4, hC, if_false, if_pos hlane, hidx, hbit]

/-- A word written to a handle entry is read back there, but for the bits that the entry does not hold (Table 4.4). -/
theorem setWord_word (h : Handle) {i b : Nat} (hi : i < 4) (hb : b < 2 ^ 32) : (h.setWord i b).word i =
    if i = 1 then b % 2 ^ 24 else if i = 3 then b / 2 ^ 31 * 2 ^ 31 + b / 2 ^ 28 % 8 * 2 ^ 28 else b := by
  have hbit : bit (b.testBit 31) = b / 2 ^ 31 := by
    rw [Nat.testBit_eq_decide_div_mod_eq, bit]; simp only [decide_eq_true_eq]; split <;> omega
  obtain rfl | rfl | rfl | rfl : i = 0 ∨ i = 1 ∨ i = 2 ∨ i = 3 := by omega
  all_goals simp [Handle.setWord, Handle.word, hbit]
  all_goals omega

/-- The handle entries of a core's space: entry `n` takes the word, the others stay. -/
theorem coreWrite_handle {n i : Nat} (hn : n < 64) (hi : i < 4) (c : Nat) (v : Word) (s : State) :
    coreWrite c (0x1000 + 16 * n + 4 * i) v s = s.updCore c fun k => { k with staged := { k.staged with
      handles := mset k.staged.handles Handle.reset n ((k.staged.handle n).setWord i v.toNat) } } := by
  have hoff : 0x1000 ≤ 0x1000 + 16 * n + 4 * i ∧ 0x1000 + 16 * n + 4 * i < 0x1400 ∧ (0x1000 + 16 * n + 4 * i) % 4 = 0 := by omega
  have hentry : (0x1000 + 16 * n + 4 * i - 0x1000) / 16 = n := by omega
  have hword : (0x1000 + 16 * n + 4 * i) / 4 % 4 = i := by omega
  have hmap : ¬(0x30 ≤ 0x1000 + 16 * n + 4 * i ∧ 0x1000 + 16 * n + 4 * i < 0x40 ∧ (0x1000 + 16 * n + 4 * i) % 4 = 0) := by omega
  have h1C : 0x1000 + 16 * n + 4 * i ≠ 0x1C := by omega
  have h20 : 0x1000 + 16 * n + 4 * i ≠ 0x20 := by omega
  have h24 : 0x1000 + 16 * n + 4 * i ≠ 0x24 := by omega
  have h80 : 0x1000 + 16 * n + 4 * i ≠ 0x80 := by omega
  simp only [coreWrite, h1C, h20, h24, h80, if_false, if_neg hmap, if_pos hoff, hentry, hword]

/-- A map of logical to physical macros with four of its entries replaced. -/
def mapWord (mm : List Nat) (i b : Nat) : List Nat := (List.range 4).foldl (fun l j => l.set (i * 4 + j) (b / 256 ^ j % 32)) mm

/-- A word written to the map of a core's macros replaces four of its sixteen entries (Table 4.5). -/
theorem coreWrite_macroMap {i : Nat} (hi : i < 4) (c : Nat) (v : Word) (s : State) :
    coreWrite c (0x30 + 4 * i) v s = s.updCore c fun k => { k with staged := { k.staged with
      macroMap := mapWord k.staged.macroMap i v.toNat } } := by
  have hmap : 0x30 ≤ 0x30 + 4 * i ∧ 0x30 + 4 * i < 0x40 ∧ (0x30 + 4 * i) % 4 = 0 := by omega
  have hidx : (0x30 + 4 * i - 0x30) / 4 = i := by omega
  have h1C : 0x30 + 4 * i ≠ 0x1C := by omega
  have h20 : 0x30 + 4 * i ≠ 0x20 := by omega
  have h24 : 0x30 + 4 * i ≠ 0x24 := by omega
  simp only [coreWrite, h1C, h20, h24, if_false, if_pos hmap, hidx, mapWord]

/-- Each entry of the word's four takes its byte's low bits; the other twelve stay. -/
theorem mapWord_getD {mm : List Nat} (hlen : mm.length = 16) {i l : Nat} (b : Nat) (hl : l < 16) :
    (mapWord mm i b).getD l 0 = if l / 4 = i then b / 256 ^ (l % 4) % 32 else mm.getD l 0 := by
  have hset : ∀ (xs : List Nat) (j v : Nat), xs.length = 16 → (xs.set j v).getD l 0 = if l = j then v else xs.getD l 0 := by
    intro xs j v hx
    by_cases hj : l = j
    · subst hj; simp [List.getD_eq_getElem?_getD, hx, hl]
    · simp [List.getD_eq_getElem?_getD, List.getElem?_set_ne (Ne.symm hj), hj]
  have hunroll : mapWord mm i b = (((mm.set (i * 4 + 0) (b / 256 ^ 0 % 32)).set (i * 4 + 1) (b / 256 ^ 1 % 32)).set
      (i * 4 + 2) (b / 256 ^ 2 % 32)).set (i * 4 + 3) (b / 256 ^ 3 % 32) := rfl
  rw [hunroll, hset _ _ _ (by simp [hlen]), hset _ _ _ (by simp [hlen]), hset _ _ _ (by simp [hlen]), hset _ _ _ hlen]
  by_cases hq : l / 4 = i
  · obtain h | h | h | h : l = i * 4 ∨ l = i * 4 + 1 ∨ l = i * 4 + 2 ∨ l = i * 4 + 3 := by omega
    all_goals subst h
    · have : (i * 4) % 4 = 0 := by omega
      simp [hq, this]
    · have : (i * 4 + 1) % 4 = 1 := by omega
      simp [hq, this]
    · have : (i * 4 + 2) % 4 = 2 := by omega
      simp [hq, this]
    · have : (i * 4 + 3) % 4 = 3 := by omega
      simp [hq, this]
  · rw [if_neg hq, if_neg (by omega), if_neg (by omega), if_neg (by omega), if_neg (by omega)]

/-! ### The four families of writes and reads -/

theorem onlyCore_updCore (c : Nat) (s : State) (f : Core → Core) : OnlyCore c s (s.updCore c f) :=
  ⟨rfl, fun _ h => s.updCore_core_other c f h⟩

/-- A hub write of `COMMIT` registers commits where bit 0 is set and does nothing otherwise. -/
theorem exec_registerWrite_commit {r : RegRef} (h : r.wf = true) {v : Word} {s t : State} (b : Bool)
    (ht : registerWriteStep r v s = if b then t else s) (hp : t.pending = s.pending) (hh : t.harm = s.harm) :
    exec (.registerWrite r v) s = if b then .next t else .next s := by
  cases b
  · exact exec_registerWrite h ht rfl rfl
  · exact exec_registerWrite h ht hp hh

/-- Commits act whole: each takes what is staged, and what it took acts at the boundary or the next tick. -/
theorem registers_commit (s : State) (c j e : Nat) :
    let k := macKey c j
    let m := s.mac k
    let x := s.skink e
    (coreOk c = true → physOk j = true →
      (m.staged.clash = true → exec (.macCommit c j) s = .next (s.setMac k { m with mapReject := true })) ∧
      (m.staged.clash = false → exec (.macCommit c j) s = .next (s.setMac k { m with mapReject := false, committed := some m.staged })) ∧
      exec (.coreCommit c) s = .next (s.setCore c { s.core c with committed := some (s.core c).staged })) ∧
    (skinkOk e = true → exec (.skinkCommit e) s = .next (s.setSkink e { x with committed := some (x.stEnable, x.stPart, x.stLogical) })) := by
  refine ⟨fun hc hj => ⟨fun hx => ?_, fun hx => ?_, exec_coreCommit hc s⟩, fun he => exec_skinkCommit he s⟩
  · rw [exec_macCommit hc hj, State.updMac, commit_of_clash hx]
  · rw [exec_macCommit hc hj, State.updMac, commit_of_no_clash hx]

/-- Settles O17: commits and their boundary, the latching reads, and the hub's writes, block by block. -/
theorem registersComplete : Obligations.RegistersComplete := by
  refine ⟨fun s c j e => ?_, fun s c j e i q => ?_, fun s c j n i o e q d v => ?_⟩
  · obtain ⟨hcommit, hskink⟩ := registers_commit s c j e
    exact ⟨hcommit, hskink, settleCommits_core s c, settleCommits_mac s _, settleSkinks_skink s e, fun _ => macro_applyCommit,
      fun _ => core_applyCommit, fun _ => skink_commitConfig⟩
  · exact ⟨fun hc hj => act_ok_of_same (by simp [hc, hj]) rfl rfl, fun he => act_ok_of_same he rfl rfl,
      fun hi => act_ok_of_same hi rfl rfl, fun hq => act_ok_of_same hq rfl rfl⟩
  · refine ⟨fun hc hj => ?_, fun hc => ?_, fun he => ?_, fun hn => exec_registerWrite (r := .engine n _) hn rfl rfl rfl,
      fun hq => exec_registerWrite (r := .cwy q _) hq rfl rfl rfl, fun hd => exec_registerWrite (r := .pwr d _) hd rfl rfl rfl⟩
    · have hwf : ∀ o, (RegRef.mac c j o).wf = true := fun o => by simp [RegRef.wf, hc, hj]
      refine ⟨exec_registerWrite (hwf _) rfl rfl rfl, ?_, exec_registerWrite (hwf _) rfl rfl rfl,
        fun hi => exec_registerWrite (hwf _) (macWrite_laneMap hi c j v s) rfl rfl, exec_registerWrite (hwf _) rfl rfl rfl,
        fun _ ho => exec_registerWrite (hwf _) (macWrite_other ho c j v s) rfl rfl⟩
      rw [exec_macCommit hc hj]
      exact exec_registerWrite_commit (hwf _) _ rfl rfl rfl
    · have hwf : ∀ o, (RegRef.core c o).wf = true := fun _ => hc
      refine ⟨exec_registerWrite (hwf _) rfl rfl rfl, exec_registerWrite (hwf _) rfl rfl rfl, exec_registerWrite (hwf _) rfl rfl rfl, ?_,
        fun hi hlen => ?_, fun hn hi => ?_⟩
      · rw [exec_coreCommit hc]
        exact exec_registerWrite_commit (hwf _) _ rfl rfl rfl
      · refine ⟨_, exec_registerWrite (hwf _) (coreWrite_macroMap hi c v s) rfl rfl, onlyCore_updCore _ _ _, by simp, fun l hl => ?_⟩
        simpa only [State.updCore_core] using mapWord_getD hlen v.toNat hl
      · refine ⟨_, exec_registerWrite (hwf _) (coreWrite_handle hn hi c v s) rfl rfl, onlyCore_updCore _ _ _, by simp, ?_, ?_, fun l hl => ?_⟩
        · simp [CoreConfig.handle]
        · simpa only [State.updCore_core, CoreConfig.handle, mget_mset_same] using setWord_word _ hi v.isLt
        · simp [CoreConfig.handle, mget_mset_other _ _ _ hl]
    · have hwf : ∀ o, (RegRef.skink e o).wf = true := fun _ => he
      refine ⟨exec_registerWrite (hwf _) rfl rfl rfl, ?_, exec_registerWrite (hwf _) rfl rfl rfl⟩
      rw [exec_skinkCommit he]
      exact exec_registerWrite_commit (hwf _) _ rfl rfl rfl

end Sys2Proof.Laws

namespace Sys2Proof.Laws

open Sys2Proof.Machine

/-! ### Faults sampled: what each part of the sampling leaves as it was (R375, R439, R441) -/

/-- `t` is `s` but for what the hub notes: alarms and log, integrity counters and strikes, and free values used. -/
def OnlyNotes (s t : State) : Prop := t = { s with hub := t.hub, spares := t.spares, fresh := t.fresh }

theorem OnlyNotes.refl (s : State) : OnlyNotes s s := rfl

theorem OnlyNotes.trans {s t u : State} (h : OnlyNotes s t) (k : OnlyNotes t u) : OnlyNotes s u := by
  unfold OnlyNotes at *; rw [k, h]

theorem OnlyNotes.part {s t : State} (h : OnlyNotes s t) (p : Nat) : t.part p = s.part p := by rw [h]; rfl
theorem OnlyNotes.core {s t : State} (h : OnlyNotes s t) (c : Nat) : t.core c = s.core c := by rw [h]; rfl
theorem OnlyNotes.mem {s t : State} (h : OnlyNotes s t) : t.mem = s.mem := by rw [h]

/-- What keeps a relation at each step of a list keeps it over the whole list. -/
theorem OnlyNotes.foldl {α : Type} {f : State → α → State} (hf : ∀ s a, OnlyNotes s (f s a)) (xs : List α) :
    ∀ s, OnlyNotes s (xs.foldl f s) := by
  induction xs with
  | nil => exact OnlyNotes.refl
  | cons x xs ih => exact fun s => (hf s x).trans (ih _)

theorem failMacro_onlyNotes (s : State) (k : Nat) : OnlyNotes s (s.failMacro k) := by
  unfold State.failMacro
  dsimp only
  repeat' split
  all_goals rfl

theorem strike_onlyNotes (s : State) (unit : Nat) : OnlyNotes s (s.strike unit) := by
  unfold State.strike
  dsimp only
  split
  · rfl
  split
  · exact OnlyNotes.trans (t := s.updSpares _) rfl (failMacro_onlyNotes _ _)
  repeat' split
  all_goals rfl

theorem integrity_onlyNotes (s : State) (status source : Nat) : OnlyNotes s (s.integrity status source) := by
  unfold State.integrity State.countIntegrity
  repeat' split
  all_goals rfl

theorem chargeFaults_onlyNotes (gs : List FaultRec) (s : State) : OnlyNotes s (s.chargeFaults gs) :=
  OnlyNotes.foldl (fun s g => by
    split
    · rfl
    · exact strike_onlyNotes _ _) gs s

theorem freePc_onlyNotes (s : State) (f : FaultRec) : OnlyNotes s (s.freePc f).2 := by
  unfold State.freePc; split <;> rfl

/-- A free program counter leaves the fault's status. -/
theorem freePc_status (s : State) (f : FaultRec) : (s.freePc f).1.status = f.status := by
  unfold State.freePc; split <;> rfl

/-- The faults of a tick counted, alarmed and charged, and reported no more. -/
def noted (s : State) (p : Nat) (gs : List FaultRec) : State :=
  gs.foldl (fun s g => s.integrity g.status g.source) ((s.updPart p fun q => { q with faults := [] }).chargeFaults gs)

theorem noted_onlyNotes (s : State) (p : Nat) (gs : List FaultRec) : OnlyNotes (s.updPart p fun q => { q with faults := [] }) (noted s p gs) :=
  (chargeFaults_onlyNotes gs _).trans (OnlyNotes.foldl (fun _ _ => integrity_onlyNotes _ _ _) gs _)

/-- The records of faults that stop no job. -/
def recordAll (s : State) (p : Nat) (gs : List FaultRec) : State := gs.foldl (fun s g => s.recordFault p g) s

/-- Sampling the faults of a partition with a job in hand, by the job's state. -/
theorem faultStep_eq {s : State} {p : Nat} {f : FaultRec} {fs : List FaultRec} {j : Job} (hf : (s.part p).faults = f :: fs)
    (hj : (s.part p).job = some j) : faultStep p s =
      let u := noted s p (f :: fs)
      if j.state = 2 then
        recordAll ((u.freePc (firstFault f fs)).2.stopJob p j (firstFault f fs).status (u.freePc (firstFault f fs)).1 false) p
          ((f :: fs).erase (firstFault f fs))
      else recordAll u p (f :: fs) := by
  have hjob : ((noted s p (f :: fs)).part p).job = some j := by simp [(noted_onlyNotes s p _).part, hj]
  simp only [noted] at hjob
  simp only [faultStep, hf, hjob, ne_eq, ite_not, freePc_status]
  rfl

/-! ### Records of runs -/

/-- `t` is `s` with a class 3 record of each of the faults added to the partition's log; its job and the faults reported stay. -/
structure RunsLogged (p : Nat) (gs : List FaultRec) (s t : State) : Prop where
  frame : t = { s with parts := t.parts }
  job : (t.part p).job = (s.part p).job
  faults : (t.part p).faults = (s.part p).faults
  logged : ∃ rs, (t.part p).log.due = (s.part p).log.due ++ rs ∧ ∀ g ∈ gs, ∃ r ∈ rs, r.cls = 3 ∧ r.code = g.status

theorem RunsLogged.mac {p : Nat} {gs : List FaultRec} {s t : State} (h : RunsLogged p gs s t) (k : Nat) : t.mac k = s.mac k := by
  rw [h.frame]; rfl
theorem RunsLogged.core {p : Nat} {gs : List FaultRec} {s t : State} (h : RunsLogged p gs s t) (c : Nat) : t.core c = s.core c := by
  rw [h.frame]; rfl
theorem RunsLogged.mem {p : Nat} {gs : List FaultRec} {s t : State} (h : RunsLogged p gs s t) : t.mem = s.mem := by rw [h.frame]

/-- A record of the tick waits at the end of its partition's log (R472). -/
theorem log_due (s : State) (p cls code : Nat) (data : List Byte) : ((s.log (some p) cls code data).part p).log.due =
    (s.part p).log.due ++ [{ cls := cls, part := p, code := code, seq := 0, tick := s.hub.tick, data := data }] := by
  simp [State.log]

/-- The record of a run that ends badly is of class 3 and bears its status. -/
theorem logRun_due (s : State) (p : Nat) (j : Job) (status : Nat) (f : FaultRec) : ∃ r : LogRec,
    ((s.logRun p j status f).part p).log.due = (s.part p).log.due ++ [r] ∧ r.cls = 3 ∧ r.code = status :=
  ⟨_, log_due s p 3 status _, rfl, rfl⟩

/-- A fault sampled while a job is in hand is recorded in the log of the job's partition. -/
theorem recordFault_logged {s : State} {p : Nat} {j : Job} (hj : (s.part p).job = some j) (g : FaultRec) :
    RunsLogged p [g] s (s.recordFault p g) := by
  have hrec : s.recordFault p g = s.logRun p j g.status g := by simp only [State.recordFault, hj]
  rw [hrec]
  obtain ⟨r, hdue, hcls, hcode⟩ := logRun_due s p j g.status g
  refine ⟨rfl, ?_, ?_, [r], hdue, fun x hx => ⟨r, List.mem_singleton_self _, hcls, ?_⟩⟩
  · simp [State.logRun, State.log]
  · simp [State.logRun, State.log]
  · rw [List.mem_singleton.1 hx, hcode]

theorem recordAll_logged {p : Nat} {j : Job} (gs : List FaultRec) : ∀ {s : State}, (s.part p).job = some j →
    RunsLogged p gs s (recordAll s p gs) := by
  induction gs with
  | nil => exact fun _ => ⟨rfl, rfl, rfl, [], by simp [recordAll], by simp⟩
  | cons g gs ih =>
    intro s hj
    obtain ⟨hframe, hjob, hfaults, rs, hdue, hlog⟩ := recordFault_logged hj g
    obtain ⟨hframe', hjob', hfaults', rs', hdue', hlog'⟩ := ih (hjob.trans hj)
    refine ⟨?_, hjob'.trans hjob, hfaults'.trans hfaults, rs ++ rs', ?_, fun x hx => ?_⟩
    · change recordAll (s.recordFault p g) p gs = { s with parts := (recordAll (s.recordFault p g) p gs).parts }
      rw [hframe', hframe]
    · exact hdue'.trans (by rw [hdue, List.append_assoc])
    · rcases List.mem_cons.1 hx with rfl | hx
      · obtain ⟨r, hr, h⟩ := hlog x (List.mem_singleton_self _)
        exact ⟨r, List.mem_append_left _ hr, h⟩
      · obtain ⟨r, hr, h⟩ := hlog' x hx
        exact ⟨r, List.mem_append_right _ hr, h⟩

/-! ### Units stopped (R375) -/

/-- Undoing open page operations touches macros and the free values. -/
theorem abortMacro_frame (s : State) (k status : Nat) :
    s.abortMacro k status = { s with macros := (s.abortMacro k status).macros, fresh := (s.abortMacro k status).fresh } := by
  unfold State.abortMacro; dsimp only; split <;> rfl

/-- It disarms the swap. -/
theorem abortMacro_armed (s : State) (k status : Nat) : ((s.abortMacro k status).mac k).armed = false := by
  unfold State.abortMacro; dsimp only; split <;> simp

/-- Every other of the macros is as it was. -/
theorem abortMacro_other (s : State) (k status : Nat) {i : Nat} (h : i ≠ k) : (s.abortMacro k status).mac i = s.mac i := by
  unfold State.abortMacro; dsimp only
  split
  · exact s.updMac_mac_other k _ h
  · exact State.updMac_mac_other _ k _ h

/-- One of the listed macros undone, where it serves the partition. -/
def abortOne (p status : Nat) (s : State) (e : Nat × Macro) : State :=
  if (s.core (macCore e.1)).part = some p then s.abortMacro e.1 status else s

theorem abortOne_frame (p status : Nat) (s : State) (e : Nat × Macro) :
    abortOne p status s e = { s with macros := (abortOne p status s e).macros, fresh := (abortOne p status s e).fresh } := by
  unfold abortOne; split
  · exact abortMacro_frame s e.1 status
  · rfl

theorem abortAll_frame (p status : Nat) (es : List (Nat × Macro)) : ∀ s : State, es.foldl (abortOne p status) s =
    { s with macros := (es.foldl (abortOne p status) s).macros, fresh := (es.foldl (abortOne p status) s).fresh } := by
  induction es with
  | nil => exact fun _ => rfl
  | cons e es ih => intro s; rw [List.foldl_cons, ih, abortOne_frame]

theorem abortAll_armed (p status k : Nat) (es : List (Nat × Macro)) : ∀ s : State, (s.core (macCore k)).part = some p →
    ((s.mac k).armed = false ∨ ∃ e ∈ es, e.1 = k) → ((es.foldl (abortOne p status) s).mac k).armed = false := by
  induction es with
  | nil =>
    rintro s - (h | ⟨e, he, -⟩)
    · exact h
    · exact absurd he List.not_mem_nil
  | cons e es ih =>
    intro s hp h
    rw [List.foldl_cons]
    have hp' : ((abortOne p status s e).core (macCore k)).part = some p := by rw [abortOne_frame]; exact hp
    refine ih _ hp' ?_
    by_cases hk : e.1 = k
    · subst hk; left; simp only [abortOne, hp, if_true]; exact abortMacro_armed _ _ _
    · rcases h with h | ⟨x, hx, hxk⟩
      · left; unfold abortOne; split
        · rw [abortMacro_other _ _ _ (Ne.symm hk)]; exact h
        · exact h
      · rcases List.mem_cons.1 hx with rfl | hx
        · exact absurd hxk hk
        · exact .inr ⟨x, hx, hxk⟩

theorem abortMacros_frame (s : State) (p status : Nat) :
    s.abortMacros p status = { s with macros := (s.abortMacros p status).macros, fresh := (s.abortMacros p status).fresh } :=
  abortAll_frame p status s.macros s

/-- The macros of the partition's placed cores are all disarmed (R92). -/
theorem abortMacros_armed {s : State} {p k : Nat} (status : Nat) (hp : (s.core (macCore k)).part = some p) :
    ((s.abortMacros p status).mac k).armed = false := by
  refine abortAll_armed p status k s.macros s hp ?_
  by_cases hk : ∃ e ∈ s.macros, e.1 = k
  · exact .inr hk
  · left
    rw [State.mac, mget_absent _ _ _ fun e he hek => hk ⟨e, he, hek⟩]; rfl

theorem stopUnits_mem (s : State) (p status : Nat) : (s.stopUnits p status).mem = s.mem := by
  change (s.abortMacros p status).mem = s.mem; rw [abortMacros_frame]

theorem stopUnits_part (s : State) (p status q : Nat) : (s.stopUnits p status).part q = s.part q := by
  change (s.abortMacros p status).part q = s.part q; rw [abortMacros_frame]; rfl

/-- A partition's core that is stopped has no queued work left, and its program counter stays. -/
theorem stopUnits_core {s : State} {p c : Nat} (status : Nat) (hp : (s.core c).part = some p) :
    (s.stopUnits p status).core c = (s.core c).halt := by
  have hcore : (s.abortMacros p status).core c = s.core c := by rw [abortMacros_frame]; rfl
  have := mget_mmap_of_fixed (s.abortMacros p status).cores Core.reset (fun _ k => if k.part = some p then k.halt else k) c rfl
  change mget (mmap (s.abortMacros p status).cores Core.reset fun _ k => if k.part = some p then k.halt else k) Core.reset c = _
  rw [this, ← State.core, hcore, if_pos hp]

/-- The macros of a partition that is stopped have neither queue, product nor drain. -/
theorem stopUnits_mac {s : State} {p k : Nat} (status : Nat) (hp : (s.core (macCore k)).part = some p) :
    (s.stopUnits p status).mac k = ((s.abortMacros p status).mac k).halt := by
  have hcore : (s.abortMacros p status).core (macCore k) = s.core (macCore k) := by rw [abortMacros_frame]; rfl
  have := mget_mmap_of_fixed (s.abortMacros p status).macros Macro.reset
    (fun k m => if ((s.abortMacros p status).core (macCore k)).part = some p then m.halt else m) k (ite_self _)
  refine Eq.trans ?_ (this.trans ?_)
  · rfl
  · rw [hcore, if_pos hp]; rfl

/-- A stopped job is in state 3 with its status. -/
theorem stopJob_job {s : State} {p : Nat} {j : Job} (hj : (s.part p).job = some j) (status : Nat) (f : FaultRec) (killed : Bool) :
    ((s.stopJob p j status f killed).part p).job =
      some { j with state := 3, status := status, fault := f, killed := j.killed || killed } := by
  simp [State.stopJob, stopUnits_part, State.logRun, State.log, hj]

theorem stopJob_faults (s : State) (p : Nat) (j : Job) (status : Nat) (f : FaultRec) (killed : Bool) :
    ((s.stopJob p j status f killed).part p).faults = (s.part p).faults := by
  simp [State.stopJob, stopUnits_part, State.logRun, State.log]

/-- Its run's end is recorded. -/
theorem stopJob_due (s : State) (p : Nat) (j : Job) (status : Nat) (f : FaultRec) (killed : Bool) :
    ∃ r : LogRec, ((s.stopJob p j status f killed).part p).log.due = (s.part p).log.due ++ [r] ∧ r.cls = 3 ∧ r.code = status := by
  rw [State.stopJob, stopUnits_part]
  simpa using logRun_due (s.updJob p fun j => { j with state := 3, status := status, fault := f, killed := j.killed || killed }) p j status f

/-- Its cores and macros are stopped with it. -/
theorem stopJob_core {s : State} {p c : Nat} (j : Job) (status : Nat) (f : FaultRec) (killed : Bool) (hp : (s.core c).part = some p) :
    (s.stopJob p j status f killed).core c = (s.core c).halt :=
  (stopUnits_core (s := (s.updJob p _).logRun p j status f) status hp).trans rfl

theorem stopJob_mac {s : State} {p k : Nat} (j : Job) (status : Nat) (f : FaultRec) (killed : Bool)
    (hp : (s.core (macCore k)).part = some p) :
    let m := (s.stopJob p j status f killed).mac k
    m.queue = [] ∧ m.run = none ∧ m.drainBuf = none ∧ m.armed = false := by
  have hstop := stopUnits_mac (s := (s.updJob p fun j => { j with state := 3, status := status, fault := f, killed := j.killed || killed }).logRun
    p j status f) status hp
  dsimp only
  rw [State.stopJob, hstop]
  exact ⟨rfl, rfl, rfl, abortMacros_armed _ hp⟩

/-! ### The commands of a faulted job -/

/-- What sampling leaves of a partition's job and reports: every fault recorded, none reported, memory untouched (R17, R467). -/
structure Sampled (p : Nat) (gs : List FaultRec) (s t : State) : Prop where
  faults : (t.part p).faults = []
  mem : t.mem = s.mem
  logged : ∀ g ∈ gs, ∃ r ∈ (t.part p).log.due, r.cls = 3 ∧ r.code = g.status

section
variable {s : State} {p : Nat} {j : Job} {f : FaultRec} {fs : List FaultRec}

theorem noted_part (s : State) (p : Nat) (gs : List FaultRec) : (noted s p gs).part p = { s.part p with faults := [] } := by
  rw [(noted_onlyNotes s p gs).part, State.updPart_part]

/-- Faults sampled while the job does not run leave it as it is. -/
theorem faultStep_not_running (hj : (s.part p).job = some j) (hrun : j.state ≠ 2) (hf : (s.part p).faults = f :: fs) :
    ((faultStep p s).part p).job = some j ∧ Sampled p (f :: fs) s (faultStep p s) := by
  rw [faultStep_eq hf hj]; dsimp only; rw [if_neg hrun]
  have hnoted := noted_part s p (f :: fs)
  have hjob : ((noted s p (f :: fs)).part p).job = some j := by rw [hnoted]; exact hj
  obtain ⟨hframe, hjob', hfaults, rs, hdue, hlog⟩ := recordAll_logged (f :: fs) hjob
  refine ⟨hjob'.trans hjob, by rw [hfaults, hnoted], by rw [hframe]; exact (noted_onlyNotes s p _).mem, fun g hg => ?_⟩
  obtain ⟨r, hr, h⟩ := hlog g hg
  exact ⟨r, hdue ▸ List.mem_append_right _ hr, h⟩

/-- The state in which the first of the faults sampled, at its program counter, stops the running job. -/
def beforeStop (s : State) (p : Nat) (f : FaultRec) (fs : List FaultRec) : State := ((noted s p (f :: fs)).freePc (firstFault f fs)).2

/-- The job stopped by the first of the faults sampled. -/
def stoppedBy (s : State) (p : Nat) (j : Job) (f : FaultRec) (fs : List FaultRec) : State :=
  (beforeStop s p f fs).stopJob p j (firstFault f fs).status ((noted s p (f :: fs)).freePc (firstFault f fs)).1 false

theorem faultStep_running_eq (hj : (s.part p).job = some j) (hrun : j.state = 2) (hf : (s.part p).faults = f :: fs) :
    faultStep p s = recordAll (stoppedBy s p j f fs) p ((f :: fs).erase (firstFault f fs)) := by
  rw [faultStep_eq hf hj]; exact if_pos hrun

/-- Up to the stop, only notes have been made. -/
theorem beforeStop_notes (s : State) (p : Nat) (f : FaultRec) (fs : List FaultRec) :
    OnlyNotes (s.updPart p fun q => { q with faults := [] }) (beforeStop s p f fs) :=
  (noted_onlyNotes s p _).trans (freePc_onlyNotes _ _)

theorem beforeStop_part (s : State) (p : Nat) (f : FaultRec) (fs : List FaultRec) :
    (beforeStop s p f fs).part p = { s.part p with faults := [] } := by rw [(beforeStop_notes s p f fs).part, State.updPart_part]

theorem beforeStop_core (s : State) (p : Nat) (f : FaultRec) (fs : List FaultRec) (c : Nat) :
    (beforeStop s p f fs).core c = s.core c := (beforeStop_notes s p f fs).core c

theorem stoppedBy_job (f : FaultRec) (fs : List FaultRec) (hj : (s.part p).job = some j) : ((stoppedBy s p j f fs).part p).job =
    some { j with state := 3, status := (firstFault f fs).status, fault := ((noted s p (f :: fs)).freePc (firstFault f fs)).1,
                  killed := j.killed || false } :=
  stopJob_job (by rw [beforeStop_part]; exact hj) _ _ _

/-- The first fault stops a running job and is its status; all are recorded. -/
theorem faultStep_running (hj : (s.part p).job = some j) (hrun : j.state = 2) (hf : (s.part p).faults = f :: fs) :
    (∃ g b, ((faultStep p s).part p).job = some { j with state := 3, status := (firstFault f fs).status, fault := g, killed := b }) ∧
      Sampled p (f :: fs) s (faultStep p s) := by
  have hrec := recordAll_logged ((f :: fs).erase (firstFault f fs)) (stoppedBy_job f fs hj)
  obtain ⟨rs, hdue, hlog⟩ := hrec.logged
  obtain ⟨r, hstop, hcls, hcode⟩ := stopJob_due (beforeStop s p f fs) p j (firstFault f fs).status
    ((noted s p (f :: fs)).freePc (firstFault f fs)).1 false
  rw [faultStep_running_eq hj hrun hf]
  refine ⟨⟨_, _, hrec.job.trans (stoppedBy_job f fs hj)⟩, hrec.faults.trans ?_, hrec.mem.trans ?_, fun g hg => ?_⟩
  · rw [stoppedBy, stopJob_faults, beforeStop_part]
  · exact (stopUnits_mem _ _ _).trans (beforeStop_notes s p f fs).mem
  · rw [hdue, stoppedBy, hstop]
    by_cases hfirst : g = firstFault f fs
    · exact ⟨r, by simp, hcls, by rw [hcode, hfirst]⟩
    · obtain ⟨x, hx, h⟩ := hlog g ((List.mem_erase_of_ne hfirst).2 hg)
      exact ⟨x, List.mem_append_right _ hx, h⟩

/-- The stop leaves the partition's macros and cores no queued work (R375). -/
theorem faultStep_running_units (hj : (s.part p).job = some j) (hrun : j.state = 2) (hf : (s.part p).faults = f :: fs) :
    (∀ k, (s.core (macCore k)).part = some p → ((faultStep p s).mac k).queue = [] ∧ ((faultStep p s).mac k).run = none ∧
      ((faultStep p s).mac k).drainBuf = none ∧ ((faultStep p s).mac k).armed = false) ∧
    ∀ c, (s.core c).part = some p → (faultStep p s).core c = (s.core c).halt := by
  have hrec := recordAll_logged ((f :: fs).erase (firstFault f fs)) (stoppedBy_job f fs hj)
  rw [faultStep_running_eq hj hrun hf]
  refine ⟨fun k hk => ?_, fun c hc => ?_⟩
  · rw [hrec.mac]
    exact stopJob_mac _ _ _ _ (by rw [beforeStop_core]; exact hk)
  · rw [hrec.core, ← beforeStop_core s p f fs]
    exact stopJob_core _ _ _ _ (by rw [beforeStop_core]; exact hc)

end

/-! ### The clears (R376, Table 13.3) -/

/-- From `m` to `m'` the bytes at `S` have become zero, and no other has changed. -/
def Zeroed (S : Nat → Prop) (m m' : Memory) : Prop := ∀ x, (S x → m'.read x = 0) ∧ (¬S x → m'.read x = m.read x)

theorem Zeroed.trans {S S' : Nat → Prop} {m m' m'' : Memory} (h : Zeroed S m m') (h' : Zeroed S' m' m'') :
    Zeroed (fun x => S x ∨ S' x) m m'' := by
  intro x
  by_cases hx' : S' x
  · exact ⟨fun _ => (h' x).1 hx', fun hn => absurd (.inr hx') hn⟩
  · rw [(h' x).2 hx']
    exact ⟨fun hx => (h x).1 (hx.resolve_right hx'), fun hn => (h x).2 fun hx => hn (.inl hx)⟩

theorem zeroed_clear (m : Memory) (a n : Nat) : Zeroed (fun x => a ≤ x ∧ x < a + n) m (m.clear a n) := by
  intro x; rw [clear_read]
  exact ⟨fun hx => if_pos hx, fun hx => if_neg hx⟩

/-- A list of clears zeroes what any one of them does. -/
theorem Zeroed.foldl {α β : Type} (mem : β → Memory) {f : β → α → β} {S : α → Nat → Prop}
    (hf : ∀ b a, Zeroed (S a) (mem b) (mem (f b a))) (xs : List α) :
    ∀ b, Zeroed (fun x => ∃ a ∈ xs, S a x) (mem b) (mem (xs.foldl f b)) := by
  induction xs with
  | nil => exact fun b x => ⟨by simp, fun _ => rfl⟩
  | cons a xs ih => intro b x; simpa using (hf b a).trans (ih (f b a)) x

/-- The bytes of an array die's store and scratchpads. -/
def dieBytes (d x : Nat) : Prop :=
  (coreBase (272 * d) ≤ x ∧ x < coreBase (272 * d) + 272 * 2 ^ 20) ∨ (storeBase d ≤ x ∧ x < storeBase d + 2 ^ 26)

theorem clearDie_zeroed (s : State) (d : Nat) (wake : Bool) : Zeroed (dieBytes d) s.mem (s.clearDie d wake).mem :=
  (zeroed_clear _ _ _).trans (zeroed_clear _ _ _)

theorem clearDie_part (s : State) (d : Nat) (wake : Bool) (p : Nat) : (s.clearDie d wake).part p = s.part p := rfl

theorem clearDie_core (s : State) (d c : Nat) : (s.clearDie d false).core c = if coreDie c = d then (s.core c).clearAll else s.core c :=
  mget_mmap_of_fixed s.cores Core.reset (fun c k => if coreDie c = d then k.clearAll else k) c (ite_self _)

theorem clearAll_clearAll (k : Core) : k.clearAll.clearAll = k.clearAll := rfl

/-- Every array die of a list cleared after a fault. -/
def clearDies (s : State) (ds : List Nat) : State := ds.foldl (fun s d => s.clearDie d false) s

theorem clearDies_zeroed (s : State) (ds : List Nat) : Zeroed (fun x => ∃ d ∈ ds, dieBytes d x) s.mem (clearDies s ds).mem :=
  Zeroed.foldl State.mem (fun s d => clearDie_zeroed s d false) ds s

theorem clearDies_part (ds : List Nat) (p : Nat) : ∀ s : State, (clearDies s ds).part p = s.part p := by
  induction ds with
  | nil => exact fun _ => rfl
  | cons d ds ih => exact fun s => (ih _).trans (clearDie_part s d false p)

theorem clearDies_core (c : Nat) (ds : List Nat) : ∀ s : State,
    (clearDies s ds).core c = if coreDie c ∈ ds then (s.core c).clearAll else s.core c := by
  induction ds with
  | nil => exact fun s => (if_neg List.not_mem_nil).symm
  | cons d ds ih =>
    intro s
    refine (ih _).trans ?_
    rw [clearDie_core]
    by_cases hd : coreDie c = d
    · have hmem : coreDie c ∈ d :: ds := by simp [hd]
      rw [if_pos hd, if_pos hmem]
      split
      · exact clearAll_clearAll _
      · rfl
    · simp [hd]

/-- The clear of an engine leaves partitions and cores, and zeroes its accumulator memory. -/
theorem clearSkink_zeroed (s : State) (e : Nat) : Zeroed (fun x => skinkBase e ≤ x ∧ x < skinkBase e + 2 ^ 18) s.mem (s.clearSkink e).mem :=
  zeroed_clear _ _ _

theorem clearSkinkList_frame (es : List Nat) : ∀ s : State,
    (es.foldl State.clearSkink s) = { s with mem := (es.foldl State.clearSkink s).mem, skinks := (es.foldl State.clearSkink s).skinks } := by
  induction es with
  | nil => exact fun _ => rfl
  | cons e es ih => intro s; rw [List.foldl_cons, ih]; rfl

theorem clearSkinks_part (s : State) (p q : Nat) : (s.clearSkinks p).part q = s.part q := by
  unfold State.clearSkinks; rw [clearSkinkList_frame]; rfl

theorem clearSkinks_core (s : State) (p c : Nat) : (s.clearSkinks p).core c = s.core c := by
  unfold State.clearSkinks; rw [clearSkinkList_frame]; rfl

/-- The clear of a partition's engines zeroes accumulator memories only. -/
theorem clearSkinks_zeroed (s : State) (p : Nat) : ∃ es : List Nat,
    Zeroed (fun x => ∃ e ∈ es, skinkBase e ≤ x ∧ x < skinkBase e + 2 ^ 18) s.mem (s.clearSkinks p).mem :=
  ⟨_, Zeroed.foldl State.mem clearSkink_zeroed _ s⟩

theorem zeroExtents_zeroed (s : State) (ext : List (Nat × Nat)) :
    Zeroed (fun x => ∃ e ∈ ext, e.1 ≤ x ∧ x < e.1 + e.2) s.mem (s.zeroExtents ext).mem :=
  Zeroed.foldl id (fun m e => zeroed_clear m e.1 e.2) ext s.mem

/-- A plaza page lies above package DRAM. -/
theorem plazaPages_above {s : State} {p : Nat} {e : Nat × Nat} (h : e ∈ s.plazaPages p) : 2 ^ 40 ≤ e.1 := by
  simp only [State.plazaPages, List.mem_flatMap, List.mem_filter, decide_eq_true_eq] at h
  obtain ⟨_, _, _, hlo, _⟩ := h
  exact hlo

/-- Die stores, scratchpads, accumulator memories and plaza pages after the clears of a partition. -/
def cleared (s : State) (p : Nat) : State :=
  let t := (clearDies s (s.partDies p)).clearSkinks p
  t.zeroExtents (t.plazaPages p)

theorem cleared_part (s : State) (p q : Nat) : (cleared s p).part q = s.part q :=
  (clearSkinks_part _ p q).trans (clearDies_part _ q s)

theorem cleared_core (s : State) (p c : Nat) : (cleared s p).core c = if coreDie c ∈ s.partDies p then (s.core c).clearAll else s.core c :=
  (clearSkinks_core _ p c).trans (clearDies_core c _ s)

/-- What the clears zero: the dies, some accumulator memories and the plaza pages. -/
theorem cleared_zeroed (s : State) (p : Nat) : ∃ es : List Nat, Zeroed
    (fun x => ((∃ d ∈ s.partDies p, dieBytes d x) ∨ ∃ e ∈ es, skinkBase e ≤ x ∧ x < skinkBase e + 2 ^ 18) ∨
      ∃ e ∈ s.plazaPages p, e.1 ≤ x ∧ x < e.1 + e.2) s.mem (cleared s p).mem := by
  obtain ⟨es, hskinks⟩ := clearSkinks_zeroed (clearDies s (s.partDies p)) p
  have hpages : ((clearDies s (s.partDies p)).clearSkinks p).plazaPages p = s.plazaPages p := by
    simp only [State.plazaPages, clearSkinks_part, clearDies_part]
  refine ⟨es, ((clearDies_zeroed s _).trans hskinks).trans ?_⟩
  rw [← hpages]
  exact zeroExtents_zeroed _ _

/-- Package DRAM lies below everything that the clears zero. -/
theorem cleared_dram (s : State) (p : Nat) {x : Nat} (hx : x < 2 ^ 40) : (cleared s p).mem.read x = s.mem.read x := by
  obtain ⟨es, hz⟩ := cleared_zeroed s p
  refine (hz x).2 ?_
  rintro ((⟨d, _, hd⟩ | ⟨e, _, he⟩) | ⟨e, he, hlo, _⟩)
  · simp only [dieBytes, coreBase, storeBase] at hd; omega
  · simp only [skinkBase] at he; omega
  · have := plazaPages_above he; omega

/-- The clears ended: with nothing written to package DRAM, the job completes or waits for its restart. -/
theorem clearingStep_eq {s : State} {p : Nat} {j : Job} (hj : (s.part p).job = some j) (hstate : j.state = 4) (hcleared : j.cleared = false)
    (htest : ((s.partMacros p).any fun e => e.2.testPage.isSome) = false) (hwrote : j.wrote = []) :
    clearingStep p s = (cleared s p).updJob p fun j =>
      { j with state := if j.again false && decide (j.restarts < 3) && ((cleared s p).part p).reload.isEmpty then 4 else 5,
               cleared := true, wrote := [] } := by
  simp only [clearingStep, hj, hstate, hcleared, htest, hwrote, ne_eq, not_true_eq_false, Bool.false_eq_true, or_self, if_false]
  rfl

/-- The cores of a partition's dies leave their work at `UNITS_STOPPED`. -/
theorem abandon_core (s : State) (p c : Nat) :
    (s.abandon p).core c = if (s.partDies p).contains (coreDie c) then (s.core c).clearWork else s.core c :=
  mget_mmap_of_fixed s.cores Core.reset (fun c k => if (s.partDies p).contains (coreDie c) then k.clearWork else k) c (ite_self _)

/-- And so do its macros. -/
theorem abandon_mac (s : State) (p k : Nat) :
    (s.abandon p).mac k = if (s.partDies p).contains (macCore k / 272) then (s.mac k).clearWork else s.mac k :=
  mget_mmap_of_fixed s.macros Macro.reset (fun k m => if (s.partDies p).contains (macCore k / 272) then m.clearWork else m) k (ite_self _)

theorem unitsStoppedStep_eq {s : State} {p : Nat} {j : Job} (hj : (s.part p).job = some j) (hstate : j.state = 3) :
    unitsStoppedStep p s =
      ((s.abandon p).updJob p fun j => { j with state := 4, cleared := false }).updPart p fun q => { q with barriers := [], credits := [] } := by
  simp [unitsStoppedStep, hj, hstate]

theorem timeLimitStep_eq {s : State} {p : Nat} {j : Job} (hj : (s.part p).job = some j) (hstate : j.state = 2) (hlimit : j.tlimit ≠ 0)
    (hpast : j.tlimit * 10 ^ 6 ≤ (s.hub.tick - j.startTick) * 240) (hfirst : ∀ f ∈ (s.part p).faults, f.status ≠ 0x0706) :
    timeLimitStep p s = s.updPart p fun q => { q with faults := q.faults ++ [{ FaultRec.reset with status := 0x0706 }] } := by
  have hnone : (s.part p).faults.any (fun f => f.status == 0x0706) = false := by simpa using hfirst
  simp only [timeLimitStep, hj]
  exact if_pos ⟨hstate, hlimit, hpast, by rw [hnone]; rfl⟩

/-! ### The statement -/

/-- `FAULT`: the first fault stops a running job, with every unit of its, and all are recorded. -/
theorem fault_completes {s : State} {p : Nat} {j : Job} {f : FaultRec} {fs : List FaultRec} (hp : partOk p = true)
    (hj : (s.part p).job = some j) (hf : (s.part p).faults = f :: fs) :
    ∃ t n, exec (.fault p) s = .next t ∧ (t.part p).job = some n ∧ n.state = (if j.state = 2 then 3 else j.state) ∧ n.ring = j.ring ∧
      n.slot = j.slot ∧ n.tag = j.tag ∧ n.status = (if j.state = 2 then (firstFault f fs).status else j.status) ∧ (t.part p).faults = [] ∧
      t.mem = s.mem ∧ (∀ g ∈ f :: fs, ∃ r ∈ (t.part p).log.due, r.cls = 3 ∧ r.code = g.status) ∧
      (j.state = 2 → (∀ g ∈ f :: fs, g.charge = 0) →
        (∀ k, (s.core (macCore k)).part = some p → (t.mac k).queue = [] ∧ (t.mac k).run = none ∧ (t.mac k).drainBuf = none ∧
          (t.mac k).armed = false) ∧
        ∀ c, (s.core c).part = some p → (t.core c).dmaQ = [] ∧ (t.core c).memQ = [] ∧ (t.core c).pc = (s.core c).pc) := by
  have hexec : exec (.fault p) s = .next { faultStep p s with pending := s.pending, harm := s.harm } := act_ok hp s _
  by_cases hrun : j.state = 2
  · obtain ⟨⟨g, b, hjob⟩, hfaults, hmem, hlogged⟩ := faultStep_running hj hrun hf
    obtain ⟨hmacros, hcores⟩ := faultStep_running_units hj hrun hf
    refine ⟨_, _, hexec, hjob, by rw [if_pos hrun], rfl, rfl, rfl, by rw [if_pos hrun], hfaults, hmem, hlogged, fun _ _ => ⟨hmacros, fun c hc => ?_⟩⟩
    change ((faultStep p s).core c).dmaQ = [] ∧ ((faultStep p s).core c).memQ = [] ∧ ((faultStep p s).core c).pc = _
    rw [hcores c hc]; exact ⟨rfl, rfl, rfl⟩
  · obtain ⟨hjob, hfaults, hmem, hlogged⟩ := faultStep_not_running hj hrun hf
    exact ⟨_, _, hexec, hjob, by rw [if_neg hrun], rfl, rfl, rfl, by rw [if_neg hrun], hfaults, hmem, hlogged, fun h => absurd h hrun⟩

/-- `UNITS_STOPPED`: the job is clearing, and the cores and macros of its dies have left their work. -/
theorem unitsStopped_completes {s : State} {p : Nat} {j : Job} (hp : partOk p = true) (hj : (s.part p).job = some j) (hstate : j.state = 3) :
    ∃ t, exec (.unitsStopped p) s = .next t ∧ (t.part p).job = some { j with state := 4, cleared := false } ∧ (t.part p).barriers = [] ∧
      (t.part p).credits = [] ∧ t.mem = s.mem ∧ (∀ c, coreDie c ∈ s.partDies p → t.core c = (s.core c).clearWork) ∧
      (∀ k, macCore k / 272 ∈ s.partDies p → t.mac k = (s.mac k).clearWork) ∧ ∀ k, macCore k / 272 ∉ s.partDies p → t.mac k = s.mac k := by
  have hjob : ((s.abandon p).part p).job = some j := hj
  refine ⟨_, (congrArg (act (partOk p) s) (unitsStoppedStep_eq hj hstate)).trans (act_ok_of_same hp rfl rfl), ?_, ?_, ?_, rfl,
    fun c hc => ?_, fun k hk => ?_, fun k hk => ?_⟩
  · simp [hjob]
  · simp
  · simp
  · exact (abandon_core s p c).trans (if_pos (List.contains_iff_mem.2 hc))
  · exact (abandon_mac s p k).trans (if_pos (List.contains_iff_mem.2 hk))
  · exact (abandon_mac s p k).trans (if_neg fun h => hk (List.contains_iff_mem.1 h))

/-- `CLEARING_COMPLETE`: the memories of the partition's dies and its plaza pages read 0, its cores hold nothing, package DRAM is as it was. -/
theorem clearing_completes {s : State} {p : Nat} {j : Job} (hp : partOk p = true) (hj : (s.part p).job = some j) (hstate : j.state = 4)
    (hcleared : j.cleared = false) (htest : ((s.partMacros p).any fun e => e.2.testPage.isSome) = false) (hwrote : j.wrote = []) :
    ∃ t n, exec (.clearingComplete p) s = .next t ∧ (t.part p).job = some n ∧ n.cleared = true ∧ n.status = j.status ∧
      n.state = (if j.again false = true ∧ j.restarts < 3 ∧ (s.part p).reload = [] then 4 else 5) ∧
      (∀ d ∈ s.partDies p, ∀ x, (storeBase d ≤ x ∧ x < storeBase d + 2 ^ 26) ∨ (coreBase (272 * d) ≤ x ∧ x < coreBase (272 * (d + 1))) →
        t.mem.read x = 0) ∧
      (∀ e ∈ s.plazaPages p, ∀ x, e.1 ≤ x → x < e.1 + e.2 → t.mem.read x = 0) ∧
      (∀ c, coreDie c ∈ s.partDies p → t.core c = (s.core c).clearAll) ∧ ∀ x, x < 2 ^ 40 → t.mem.read x = s.mem.read x := by
  obtain ⟨es, hz⟩ := cleared_zeroed s p
  have hjob : ((cleared s p).part p).job = some j := by rw [cleared_part]; exact hj
  refine ⟨_, _, (congrArg (act (partOk p) s) (clearingStep_eq hj hstate hcleared htest hwrote)).trans (act_ok hp _ _),
    (congrArg Partition.job (State.updJob_part _ p _)).trans (congrArg (Option.map _) hjob), rfl, rfl, ?_, fun d hd x hx => ?_,
    fun e he x hlo hhi => ?_, fun c hc => ?_, fun x hx => cleared_dram s p hx⟩
  · simp [cleared_part, and_assoc]
  · refine (hz x).1 (.inl (.inl ⟨d, hd, ?_⟩))
    simp only [coreBase, dieBytes] at hx ⊢; omega
  · exact (hz x).1 (.inr ⟨e, he, hlo, hhi⟩)
  · exact (cleared_core s p c).trans (if_pos hc)

/-- Settles O44: the time limit's report, the stop by the first fault, the work abandoned, and the clears. -/
theorem faultedJobCompletes : Obligations.FaultedJobCompletes := by
  intro s p j hp hj
  refine ⟨fun hstate hlimit hpast hfirst => ?_, fun f fs => fault_completes hp hj, unitsStopped_completes hp hj, clearing_completes hp hj⟩
  exact (congrArg (act (partOk p) s) (timeLimitStep_eq hj hstate hlimit hpast hfirst)).trans (act_ok_of_same hp rfl rfl)

end Sys2Proof.Laws

namespace Sys2Proof.Laws

open Sys2Proof.Machine

/-! ### What befalls a command touches neither its queue nor what is still to befall it -/

/-- What each step of a list keeps, the whole list keeps. -/
theorem foldl_keeps {α β γ : Type} {π : β → γ} {f : β → α → β} (hf : ∀ b a, π (f b a) = π b) (xs : List α) :
    ∀ b, π (xs.foldl f b) = π b := by
  induction xs with
  | nil => exact fun _ => rfl
  | cons x xs ih => exact fun b => (ih _).trans (hf b x)

theorem dramRead_pending (s : State) (tower beat wrong : Nat) : (s.dramRead tower beat wrong).pending = s.pending := by
  simp only [State.dramRead, apply_ite State.pending, State.updTower_pending, State.setMem_pending, ite_self]

theorem dramRead_harm (s : State) (tower beat wrong : Nat) : (s.dramRead tower beat wrong).harm = s.harm := by
  simp only [State.dramRead, apply_ite State.harm, State.updTower_harm, State.setMem_harm, ite_self]

theorem chargeColumn_keeps (s : State) (word b : Nat) :
    (s.chargeColumn word b).pending = s.pending ∧ (s.chargeColumn word b).harm = s.harm := by
  unfold State.chargeColumn
  dsimp only
  repeat' split
  all_goals exact ⟨rfl, rfl⟩

theorem sramRead_keeps (s : State) (word : Nat) (wrong : List Nat) :
    (s.sramRead word wrong).pending = s.pending ∧ (s.sramRead word wrong).harm = s.harm := by
  unfold State.sramRead
  split
  · exact ⟨rfl, rfl⟩
  · split
    · exact ⟨rfl, rfl⟩
    · exact chargeColumn_keeps _ _ _
    · unfold State.spoilWord; split <;> exact ⟨rfl, rfl⟩

/-- What wrong reads of package DRAM and of SRAM words keep, a command keeps of the state it begins in. -/
theorem suffer_keeps {γ : Type} {π : State → γ} (hdram : ∀ s tower beat wrong, π (State.dramRead s tower beat wrong) = π s)
    (hsram : ∀ s word wrong, π (State.sramRead s word wrong) = π s) (s : State) (h : Harm) : π (s.suffer h) = π { s with harm := h } :=
  (foldl_keeps (fun s (e : Nat × List Nat) => hsram s e.1 e.2) h.sram _).trans
    (foldl_keeps (fun s (e : Nat × Nat × Nat) => hdram s e.1 e.2.1 e.2.2) h.dram _)

@[simp] theorem suffer_pending (s : State) (h : Harm) : (s.suffer h).pending = s.pending :=
  suffer_keeps dramRead_pending (fun s word wrong => (sramRead_keeps s word wrong).1) s h

@[simp] theorem suffer_harm (s : State) (h : Harm) : (s.suffer h).harm = h :=
  suffer_keeps dramRead_harm (fun s word wrong => (sramRead_keeps s word wrong).2) s h

/-- An access done changes only what is still to befall the command. -/
theorem crossed_eq (s : State) : s.crossed = { s with harm := s.crossed.harm } := by
  unfold State.crossed; split <;> rfl

/-! ### A tile instruction's command, from its premises -/

section
variable {s : State} {c w : Nat} {h : Harm} {sel : Nat → Bool} {checks : Core → Nat → List (Bool × Nat)} {hold : Nat → State → Option Nat}

theorem firstOf_eq_none {l : List (Bool × Nat)} : firstOf l = none ↔ ∀ x ∈ l, x.1 = false := by
  induction l with
  | nil => simp [firstOf]
  | cons x l ih => obtain ⟨b, e⟩ := x; cases b <;> simp [firstOf, ih]

/-- What issues freely issues under a hold that lets it go. -/
theorem issues_withHold {v : State} (hi : Issues v c w sel checks freely) (hh : hold w v = none) : Issues v c w sel checks hold :=
  { hi with free := hh }

/-- One more check that it passes changes nothing. -/
theorem issues_withCheck {v : State} {b : Nat → Bool} {e : Nat} (hi : Issues v c w sel checks hold) (hb : b w = false) :
    Issues v c w sel (fun k w => (b w, e) :: checks k w) hold := by
  refine { hi with sound := ?_ }
  have hsound := firstOf_eq_none.1 hi.sound
  simp only [firstOf_eq_none, List.mem_cons] at hsound ⊢
  rintro x (rfl | rfl | hx)
  · exact hsound _ (.inl rfl)
  · exact hb
  · exact hsound x (.inr hx)

/-- An instruction that would issue but for its hold shows the hold's state. -/
theorem issue_held {v : State} {st : Nat} (hi : Issues v c w sel checks freely) (hh : hold w v = some st) (go : Nat → State → State) :
    v.issue c sel checks hold go = v.stall c st := by
  have := hi.sound
  simp [State.issue, hi.issuing, hi.fetched, hi.defined, hi.selected, hi.kept, hh, this]

/-- An issuing core serves a partition. -/
theorem issues_part {v : State} (hi : Issues v c w sel checks hold) : ∃ p, (v.core c).part = some p := by
  have hissuing := hi.issuing
  unfold State.issuing at hissuing
  cases hp : (v.core c).part with
  | none => simp [hp] at hissuing
  | some p => exact ⟨p, rfl⟩

/-- The command of an instruction that issues answers the instruction's effect `u`. -/
theorem act_issue {go : Nat → State → State} {u : State} (hi : Issues (s.suffer h) c w sel checks hold)
    (hgo : { go w ((s.suffer h).advance c).crossed with harm := s.harm } = { u with harm := s.harm }) (hu : u.pending = s.pending) :
    act (coreOk c) s ((s.suffer h).issue c sel checks hold go) = .next { u with harm := s.harm } := by
  rw [act_ok hi.core, issue_goes hi]
  have : { go w ((s.suffer h).advance c).crossed with pending := s.pending, harm := s.harm } =
      { { u with harm := s.harm } with pending := s.pending } := congrArg (fun t : State => { t with pending := s.pending }) hgo
  rw [this, ← hu]

/-- The command of an instruction that only moves on. -/
theorem act_moves_on (hi : Issues (s.suffer h) c w sel checks hold) :
    act (coreOk c) s ((s.suffer h).issue c sel checks hold fun _ s => s) =
      .next { (s.suffer h).setCore c ((s.suffer h).core c).issued with harm := s.harm } :=
  act_issue hi (by rw [crossed_eq]; rfl) (suffer_pending s h)

/-- The command of an instruction that is held shows the hold's state. -/
theorem act_held {st : Nat} (hi : Issues (s.suffer h) c w sel checks freely) (hh : hold w (s.suffer h) = some st) (go : Nat → State → State) :
    act (coreOk c) s ((s.suffer h).issue c sel checks hold go) =
      .next { (s.suffer h).setCore c { (s.suffer h).core c with state := st } with harm := s.harm } := by
  rw [act_ok hi.core, issue_held hi hh, ← suffer_pending s h]; rfl

theorem advance_updCore (v : State) (c : Nat) (f : Core → Core) : (v.advance c).updCore c f = v.setCore c (f (v.core c).issued) := by
  simp only [State.updCore, advance_core]
  exact State.setCore_setCore _ _ _ _

/-- The command of an instruction that rewrites its own core. -/
theorem act_updCore {f : Core → Core} {go : Nat → State → State} (hi : Issues (s.suffer h) c w sel checks hold)
    (hgo : go w ((s.suffer h).advance c).crossed = ((s.suffer h).advance c).crossed.updCore c f) :
    act (coreOk c) s ((s.suffer h).issue c sel checks hold go) =
      .next { (s.suffer h).setCore c (f ((s.suffer h).core c).issued) with harm := s.harm } := by
  refine act_issue hi ?_ (suffer_pending s h)
  rw [hgo, crossed_eq, ← advance_updCore]; rfl

theorem onlyCore_setCore (v : State) (c : Nat) (k : Core) (h : Harm) : OnlyCore c { v with harm := h } { v.setCore c k with harm := h } :=
  ⟨rfl, fun _ hd => v.setCore_core_other c k hd⟩

/-- An instruction that changes its core, besides what makes `u` of the state, answers `u` with that core. -/
theorem act_issue_core {go : Nat → State → State} {u : State} {k : Core} (hi : Issues (s.suffer h) c w sel checks hold)
    (hgo : { go w ((s.suffer h).advance c).crossed with harm := s.harm } = { u.setCore c k with harm := s.harm }) (hu : u.pending = s.pending) :
    ∃ t, act (coreOk c) s ((s.suffer h).issue c sel checks hold go) = .next t ∧ OnlyCore c { u with harm := s.harm } t ∧ t.core c = k :=
  ⟨_, act_issue hi hgo hu, onlyCore_setCore _ _ _ _, State.setCore_core _ _ _⟩

/-- Only its own core has changed, as the instruction says. -/
theorem act_updCore_only {f : Core → Core} {go : Nat → State → State} (hi : Issues (s.suffer h) c w sel checks hold)
    (hgo : go w ((s.suffer h).advance c).crossed = ((s.suffer h).advance c).crossed.updCore c f) : ∃ u,
    act (coreOk c) s ((s.suffer h).issue c sel checks hold go) = .next u ∧ OnlyCore c { s.suffer h with harm := s.harm } u ∧
      u.core c = f ((s.suffer h).core c).issued :=
  ⟨_, act_updCore hi hgo, onlyCore_setCore _ _ _ _, State.setCore_core _ _ _⟩

end

end Sys2Proof.Laws

namespace Sys2Proof.Laws

open Sys2Proof.Machine

/-! ### Local memories (R125) -/

theorem localExtents_zero (base size fuel off : Nat) : localExtents base size fuel off 0 = [] := by
  cases fuel <;> simp [localExtents]

/-- The places of bytes in a local memory hold them all, whichever way the range goes round. -/
theorem localExtents_length {base size : Nat} (hs : 0 < size) : ∀ fuel off n : Nat, n + off % size ≤ fuel * size →
    ((localExtents base size fuel off n).map Prod.snd).sum = n := by
  intro fuel
  induction fuel with
  | zero => intro off n h; simp [localExtents]; omega
  | succ fuel ih =>
    intro off n h
    have hoff : off % size < size := Nat.mod_lt _ hs
    unfold localExtents
    by_cases hn : n = 0
    · simp [hn]
    · rw [if_neg hn]
      simp only [List.map_cons, List.sum_cons]
      by_cases hfit : n ≤ size - off % size
      · rw [Nat.min_eq_left hfit, Nat.sub_self, localExtents_zero]; rfl
      · have hturn : off % size + (size - off % size) = size := by omega
        rw [Nat.min_eq_right (by omega), hturn, ih _ _ (by rw [Nat.mod_self, Nat.succ_mul] at *; omega)]
        omega

/-- No local memory is empty. -/
theorem localMem_size_pos (c kind : Nat) : 0 < (localMem c kind).2 := by
  unfold localMem; repeat' split
  all_goals exact Nat.zero_lt_succ _

/-- `n` bytes of an operand in a local memory lie at places of `n` bytes in all. -/
theorem extents_length {s : State} {c n kind : Nat} {o : Operand} {ext : List (Nat × Nat)} (hk : o.h.kind ≤ 3)
    (h : s.extents c o n kind = .ok ext) : (ext.map Prod.snd).sum = n := by
  rw [State.extents, if_pos hk, Except.ok.injEq] at h
  have hs := localMem_size_pos c o.h.kind
  subst h
  refine localExtents_length hs _ _ _ ?_
  have hoff := Nat.mod_lt (o.h.base + o.off) hs
  have hn := Nat.lt_div_mul_add hs (a := n)
  rw [Nat.add_mul]; omega

/-- The places in a local memory do not depend on the state. -/
theorem extents_local {s : State} (t : State) {c n kind : Nat} {o : Operand} (hk : o.h.kind ≤ 3) : t.extents c o n kind = s.extents c o n kind := by
  simp only [State.extents, if_pos hk]

/-- A scratchpad's bytes are read as they are stored. -/
theorem readOp_of_local {s : State} {c n : Nat} {o : Operand} {bs : List Byte} (hk : o.h.kind ≤ 2)
    (h : readExtents s.mem (localExtents (localMem c o.h.kind).1 (localMem c o.h.kind).2 (n / (localMem c o.h.kind).2 + 2)
      (o.h.base + o.off) n) = .ok bs) : s.readOp c o n = .ok (bs, s) := by
  have hwindow : (o.h.kind == 4) = false := by simp; omega
  have hfar : o.far = false := by simp [Operand.far]; omega
  have hlocal : o.h.kind ≤ 3 := by omega
  simp only [State.readOp, State.extents, if_pos hlocal, State.receive, hwindow, hfar, h]
  rfl

/-! ### Writes into a scratchpad -/

theorem writeThroughAll_part_other (p die : Nat) {q : Nat} (hq : q ≠ p) (ext : List (Nat × Nat)) : ∀ (bs : List Byte) (s : State),
    (s.writeThroughAll p die ext bs).part q = s.part q := by
  induction ext with
  | nil => exact fun _ _ => rfl
  | cons e rest ih => exact fun bs s => (ih _ _).trans (s.updPart_part_other p _ hq)

/-- A write into a scratchpad that no unsound code word hinders stores its bytes; besides memory it touches only the cache lines of its partition. -/
theorem writeOp_of_local {s : State} {c p : Nat} {o : Operand} {bs : List Byte} {ext : List (Nat × Nat)} (hk : o.h.kind ≤ 2)
    (hp : (s.core c).part = some p) (hext : s.extents c o bs.length rWR = .ok ext) (hw : Writable s.mem ext) :
    ∃ t, s.writeOp c o bs = .ok t ∧ Stored s.mem t.mem ext bs ∧ OnlyMemParts s t ∧ ∀ q, q ≠ p → t.part q = s.part q := by
  have hwindow : (o.h.kind == 4) = false := by simp; omega
  have hfar : o.far = false := by simp [Operand.far]; omega
  obtain ⟨m, hm, hstored⟩ := writeExtents_stored hw (extents_length (by omega) hext)
  have hwrite : s.writeOp c o bs = .ok (if (s.setMem m).cached p then (s.setMem m).writeThroughAll p (coreDie c) ext bs else s.setMem m) := by
    simp only [State.writeOp, hext, State.deposit, hp, hwindow, hfar, Bool.false_eq_true, if_false, hm]
  obtain ⟨honly, -⟩ := State.deposit_only (by rw [State.writeOp, hext] at hwrite; exact hwrite)
  refine ⟨_, hwrite, ?_, honly, fun q hq => ?_⟩
  · split
    · rw [State.writeThroughAll_mem]; exact hstored
    · exact hstored
  · split
    · exact writeThroughAll_part_other p _ hq ext bs _
    · rfl

/-! ### Accesses counted (R399) -/

/-- Counting accesses touches the activity counters only, and what it makes of them depends on nothing else. -/
theorem tallyAccess_eq (part : Option Nat) (ext : List (Nat × Nat)) : ∀ {s t : State}, t.power = s.power →
    t.tallyAccess part ext = { t with power := (s.tallyAccess part ext).power } := by
  induction ext with
  | nil => intro s t h; rw [show (s.tallyAccess part []).power = t.power from h.symm]; rfl
  | cons e rest ih =>
    intro s t h
    exact ih (s := s.tally _ part _ _) (t := t.tally _ part _ _) (by simp only [State.tally, State.updPower, h])

/-- An operand's access counted touches the activity counters only. -/
theorem tallyOp_frame (s : State) (c : Nat) (o : Operand) (n kind : Nat) :
    s.tallyOp c o n kind = { s with power := (s.tallyOp c o n kind).power } := by
  unfold State.tallyOp
  split
  · rfl
  · exact tallyAccess_eq _ _ rfl

/-- In states of the same core and the same counters, an access to a scratchpad counts the same. -/
theorem tallyOp_of_local {s t : State} {c n kind : Nat} {o : Operand} (hk : o.h.kind ≤ 3) (hpart : (t.core c).part = (s.core c).part)
    (hpower : t.power = s.power) : t.tallyOp c o n kind = { t with power := (s.tallyOp c o n kind).power } := by
  have hext := State.extents.eq_def s c o n kind
  rw [if_pos hk] at hext
  simp only [State.tallyOp, extents_local (s := s) t hk, hext, hpart]
  exact tallyAccess_eq _ _ hpower

end Sys2Proof.Laws

namespace Sys2Proof.Laws

open Sys2Proof.Machine

/-! ### Registers of the scalar unit (R131) -/

theorem setReg_eq (k : Core) (r : Nat) (v : Word) : k.setReg r v = { k with regs := (k.setReg r v).regs } := by
  unfold Core.setReg; split <;> rfl

/-- A register written is read back, but for s0, and every other register is as it was. -/
theorem setReg_reg (k : Core) (r : Nat) (v : Word) (i : Nat) :
    (k.setReg r v).reg i = if i = 0 then 0 else if i = r then v else k.reg i := by
  by_cases hi : i = 0
  · simp [Core.reg, hi]
  · by_cases hr : r = 0
    · simp [Core.setReg, Core.reg, hr, hi]
    · simp [Core.setReg, Core.reg, hr, hi, mget_mset]

/-! ### Barriers at an `END` (R140) -/

/-- From `s` to `t` a core has at most changed the state it shows, and memory is as it was. -/
def OnlyShown (c : Nat) (s t : State) : Prop := t.core c = { s.core c with state := (t.core c).state } ∧ t.mem = s.mem

theorem OnlyShown.refl (c : Nat) (s : State) : OnlyShown c s s := ⟨rfl, rfl⟩

theorem OnlyShown.trans {c : Nat} {s t u : State} (h : OnlyShown c s t) (k : OnlyShown c t u) : OnlyShown c s u := by
  refine ⟨?_, k.2.trans h.2⟩
  rw [k.1, h.1]

theorem OnlyShown.of_eq {c : Nat} {s t : State} (hcore : t.core c = s.core c) (hmem : t.mem = s.mem) : OnlyShown c s t :=
  ⟨by rw [hcore], hmem⟩

/-- Cores that leave a barrier run on. -/
theorem onlyShown_resumed (c : Nat) (ds : List Nat) : ∀ s : State,
    OnlyShown c s (ds.foldl (fun s d => s.updCore d fun k => { k with state := 1 }) s) := by
  induction ds with
  | nil => exact OnlyShown.refl c
  | cons d ds ih =>
    intro s
    refine OnlyShown.trans (t := s.updCore d fun k => { k with state := 1 }) ⟨?_, rfl⟩ (ih _)
    by_cases hd : c = d
    · subst hd; simp
    · rw [s.updCore_core_other d _ hd]

theorem barrierDone_onlyShown (s : State) (p key c : Nat) : OnlyShown c s (s.barrierDone p key) := by
  have hgroup : OnlyShown c s (s.updPart p fun q => { q with barriers := mset q.barriers (8, []) key (8, []) }) := OnlyShown.refl c s
  refine (hgroup.trans (onlyShown_resumed c (s.gathering p key).2 _)).trans ?_
  unfold State.barrierDone
  dsimp only
  split <;> exact OnlyShown.of_eq (by simp [State.dropCache]) (by simp [State.dropCache])

theorem settleBarrier_onlyShown (s : State) (p key c : Nat) : OnlyShown c s (s.settleBarrier p key) := by
  unfold State.settleBarrier
  dsimp only
  generalize s.participants p (if key = 16 then 1 else 0) key = who
  split
  · exact barrierDone_onlyShown s p key c
  · split
    · split
      · exact OnlyShown.refl c s
      · exact OnlyShown.of_eq (by simp) (by simp)
    · exact OnlyShown.refl c s

/-- Where no barrier of the group gathers, nothing is to settle. -/
theorem settleBarrier_idle {s : State} {p key : Nat} (h : (s.gathering p key).2 = []) : s.settleBarrier p key = s := by
  simp [State.settleBarrier, State.barrierDead, h]

/-- A core that has ended issues no more. -/
theorem issuing_of_ended {s : State} {c : Nat} (h : (s.core c).ended = true) : s.issuing c = false := by
  simp [State.issuing, h]

/-! ### The scalar unit without errors (R429) -/

theorem address_of_no_error {s : State} (h : s.harm.err = none) (place a : Nat) : s.address place a = some a := by
  simp [State.address, State.computed, State.errorAt, h]

theorem narrow_of_no_error {α : Type} {s : State} (h : s.harm.err = none) (c w : Nat) (go : Operand → Except Nat α) :
    s.narrow c w go = go (narrowOperand (s.core c) w) := by
  simp only [State.narrow, address_of_no_error h]; rfl

section
variable {s : State} {c w : Nat} {h : Harm}

/-- The handle of `LDN` or `STN` names one of the core's own scratchpads. -/
theorem issues_narrow_kind {v : State} {f : Nat} (hi : Issues v c w (sclSel f) narrowChecks freely) :
    (narrowOperand (v.core c) w).h.kind ≤ 2 := by
  have hkind := firstOf_eq_none.1 hi.sound (wrongKind (v.core c) (fH w) [0, 1, 2], 0x0104) (by simp [narrowChecks])
  simp only [wrongKind, Bool.not_eq_false', List.contains_iff_mem, List.mem_cons, List.not_mem_nil, or_false] at hkind
  simp only [narrowOperand]; omega

/-! ### `WAIT`, `END`, `LDN`, `STN` and `RDREG` -/

/-- A core whose `WAIT` has taken its count. -/
def waited (w : Nat) (k : Core) : Core :=
  { k with tokens := mset k.tokens 0 (fImm w % 16) (mget k.tokens 0 (fImm w % 16) - fImm w / 2 ^ 16) }

/-- `WAIT` takes its count from a counter that has reached it, and waits for one that has not (R146). -/
theorem wait_completes (hi : Issues (s.suffer h) c w (sclSel 0x20) sclChecks freely) (ht : fImm w % 16 ≠ 0) :
    let v := s.suffer h
    let k := v.core c
    (fImm w / 2 ^ 16 ≤ mget k.tokens 0 (fImm w % 16) → ∃ u, exec (.sclWait c h) s = .next u ∧ OnlyCore c { v with harm := s.harm } u ∧
      u.core c = { k.issued with tokens := (u.core c).tokens } ∧
      ∀ j, mget (u.core c).tokens 0 j = if j = fImm w % 16 then mget k.tokens 0 j - fImm w / 2 ^ 16 else mget k.tokens 0 j) ∧
    (mget k.tokens 0 (fImm w % 16) < fImm w / 2 ^ 16 →
      exec (.sclWait c h) s = .next { v.setCore c { k with state := 2 } with harm := s.harm }) := by
  intro v k
  have hchecked := issues_withCheck (b := fun w => fImm w % 16 == 0) (e := 0x0100) hi (by simpa using ht)
  refine ⟨fun hn => ?_, fun hn => act_held hchecked (by simp [tokenReady, k, v] at hn ⊢; omega) _⟩
  have hready : tokenReady k w = true := by simpa [tokenReady] using hn
  obtain ⟨u, hexec, honly, hcore⟩ := act_updCore_only (go := fun w s => s.updCore c (waited w))
    (hold := fun w s => if tokenReady (s.core c) w then none else some 2) (issues_withHold hchecked (if_pos hready)) rfl
  refine ⟨u, hexec, honly, by rw [hcore]; rfl, fun j => ?_⟩
  rw [hcore, waited, mget_mset]
  split
  · rename_i hj; rw [hj]; rfl
  · rfl

/-- `WAITB` goes on when its head blocks are free (R122). -/
theorem waitb_completes (hi : Issues (s.suffer h) c w (sclSel 0x21) sclChecks freely) :
    let v := s.suffer h
    let k := v.core c
    exec (.sclWaitb c h) s = .next { v.setCore c (if k.busyBits &&& (fImm w % 2 ^ 16) = 0 then k.issued else { k with state := 3 })
      with harm := s.harm } := by
  intro v k
  by_cases hfree : k.busyBits &&& (fImm w % 2 ^ 16) = 0
  · rw [if_pos hfree]; exact act_moves_on (issues_withHold hi (if_pos hfree))
  · rw [if_neg hfree]; exact act_held hi (if_neg hfree) _

/-- `FENCE` goes on once every earlier instruction has completed (R147). -/
theorem fence_completes (hi : Issues (s.suffer h) c w (sclSel 0x22) sclChecks freely) :
    let v := s.suffer h
    let k := v.core c
    exec (.sclFence c h) s = .next { v.setCore c (if v.quiet c = true then k.issued else { k with state := 4 }) with harm := s.harm } := by
  intro v k
  by_cases hquiet : v.quiet c = true
  · rw [if_pos hquiet]; exact act_moves_on (issues_withHold hi (if_pos hquiet))
  · rw [if_neg hquiet]; exact act_held hi (if_neg hquiet) _

/-- A core that has executed `END`. -/
def endedCore (k : Core) : Core := { k with ended := true, state := 0 }

/-- What `END` does once issued: its core ends, and the barriers of its die and of its job are settled. -/
def endStep (c : Nat) (v : State) : State :=
  let t := v.updCore c endedCore
  match (t.core c).part with
  | none => t
  | some p => (t.settleBarrier p (t.core c).dieLog).settleBarrier p 16

theorem endStep_onlyShown (c : Nat) (v : State) : OnlyShown c (v.updCore c endedCore) (endStep c v) := by
  unfold endStep
  dsimp only
  split
  · exact OnlyShown.refl _ _
  · exact (settleBarrier_onlyShown _ _ _ _).trans (settleBarrier_onlyShown _ _ _ _)

/-- An `END` where no barrier gathers ends its core and does nothing else. -/
theorem endStep_idle {v : State} {p : Nat} (hp : (v.core c).part = some p) (hdie : (v.gathering p (v.core c).dieLog).2 = [])
    (hjob : (v.gathering p 16).2 = []) : endStep c v = v.updCore c endedCore := by
  have hdie' : ((v.updCore c endedCore).gathering p (v.core c).dieLog).2 = [] := hdie
  have hjob' : ((v.updCore c endedCore).gathering p 16).2 = [] := hjob
  simp only [endStep, State.updCore_core, endedCore, hp]
  change ((v.updCore c endedCore).settleBarrier p (v.core c).dieLog).settleBarrier p 16 = v.updCore c endedCore
  rw [settleBarrier_idle hdie', settleBarrier_idle hjob']

/-- `END` ends its core's program; where no barrier gathers it does nothing else (R140). -/
theorem end_completes (hi : Issues (s.suffer h) c w (sclSel 0x01) sclChecks freely) :
    let v := s.suffer h
    let k := v.core c
    (∃ u, exec (.sclEnd c h) s = .next u ∧ (u.core c).ended = true ∧ u.issuing c = false ∧ (u.core c).regs = k.regs ∧ u.mem = v.mem) ∧
    ∀ p, k.part = some p → (v.gathering p k.dieLog).2 = [] → (v.gathering p 16).2 = [] →
      exec (.sclEnd c h) s = .next { v.setCore c { k.issued with state := 0, ended := true } with harm := s.harm } := by
  intro v k
  have hcross : (v.advance c).crossed.core c = k.issued := by
    rw [crossed_eq]; exact advance_core
  refine ⟨?_, fun p hp hdie hjob => ?_⟩
  · have hexec : exec (.sclEnd c h) s = .next { endStep c (v.advance c).crossed with pending := s.pending, harm := s.harm } :=
      (act_ok hi.core s _).trans (by rw [issue_goes hi]; rfl)
    obtain ⟨hcore, hmem⟩ := endStep_onlyShown c (v.advance c).crossed
    rw [State.updCore_core, hcross] at hcore
    have hended : ((endStep c (v.advance c).crossed).core c).ended = true := by rw [hcore]; rfl
    have hregs : ((endStep c (v.advance c).crossed).core c).regs = k.regs := by rw [hcore]; rfl
    exact ⟨_, hexec, hended, issuing_of_ended hended, hregs, hmem.trans (State.crossed_mem _)⟩
  · have hgather : ∀ key, (v.advance c).crossed.gathering p key = v.gathering p key := fun key => by rw [crossed_eq]; rfl
    exact act_updCore (go := fun _ => endStep c) hi
      (endStep_idle (p := p) (by rw [hcross]; exact hp) (by rw [hcross, hgather]; exact hdie) (by rw [hgather]; exact hjob))

/-- The states in which `LDN` and `STN` act, with nothing befalling them: that of the issue, advanced; no error, and the operand as issued. -/
theorem calm_advance (hcalm : Calm h) : let a := (s.suffer h).advance c
    a.crossed = a ∧ a.harm.err = none ∧ narrowOperand (a.core c) w = narrowOperand ((s.suffer h).core c) w := by
  refine ⟨State.crossed_calm _ ?_, ?_, by rw [advance_core]; rfl⟩
  · exact (congrArg Harm.beat (suffer_harm s h)).trans hcalm.2
  · exact (congrArg Harm.err (suffer_harm s h)).trans hcalm.1

/-- `LDN` from a scratchpad writes s[RD] the word stored there and counts its access (R125, R399). -/
theorem ldn_completes {bs : List Byte} (hi : Issues (s.suffer h) c w (sclSel 0x10) narrowChecks freely) (hcalm : Calm h)
    (hread : let o := narrowOperand ((s.suffer h).core c) w
      readExtents (s.suffer h).mem (localExtents (localMem c o.h.kind).1 (localMem c o.h.kind).2 2 (o.h.base + o.off) 4) = .ok bs) :
    let u := s.suffer h
    let k := u.core c
    let o := narrowOperand k w
    ∃ t, exec (.sclLdn c h) s = .next t ∧ OnlyCore c { u.tallyOp c o 4 rRD with harm := s.harm } t ∧
      t.core c = { k.issued with regs := (t.core c).regs } ∧
      ∀ r, (t.core c).reg r = if r = 0 then 0 else if r = fRd w then BitVec.ofNat 32 (leNat bs) else k.reg r := by
  intro u k o
  have hkind : o.h.kind ≤ 2 := issues_narrow_kind hi
  obtain ⟨hcross, herr, hoperand⟩ := calm_advance (s := s) (c := c) (w := w) hcalm
  have hsize : 4 / (localMem c o.h.kind).2 + 2 = 2 := by
    obtain hk | hk | hk : o.h.kind = 0 ∨ o.h.kind = 1 ∨ o.h.kind = 2 := by omega
    all_goals simp [localMem, hk]
  have hread' : (u.advance c).readOp c o 4 = .ok (bs, u.advance c) := readOp_of_local hkind (by rw [hsize]; exact hread)
  have htally : (u.advance c).tallyOp c o 4 rRD = (u.tallyOp c o 4 rRD).advance c := by
    refine (tallyOp_of_local (s := u) (t := u.advance c) (by omega) (by simp) rfl).trans ?_
    rw [tallyOp_frame u]; rfl
  have hcore : (u.tallyOp c o 4 rRD).core c = k := by rw [tallyOp_frame]; rfl
  obtain ⟨t, hexec, honly, htcore⟩ := act_issue_core (go := fun w s => s.orFault c 1 ((s.core c).pc - 1)
      (s.narrow c w fun o => s.readNarrow c o) fun r => r.2.setReg c (fRd w) (BitVec.ofNat 32 (leNat r.1)))
    (u := u.tallyOp c o 4 rRD) (k := k.issued.setReg (fRd w) (BitVec.ofNat 32 (leNat bs))) hi
    (by
      rw [hcross, narrow_of_no_error herr, hoperand, State.readNarrow, hread']
      change { ((u.advance c).tallyOp c o 4 rRD).setReg c (fRd w) (BitVec.ofNat 32 (leNat bs)) with harm := s.harm } = _
      rw [htally, State.setReg, advance_updCore, hcore])
    (by rw [tallyOp_frame]; exact suffer_pending s h)
  exact ⟨t, hexec, honly, by rw [htcore]; exact setReg_eq _ _ _, fun r => by rw [htcore]; exact setReg_reg _ _ _ _⟩

theorem leBytes_length (n : Nat) : ∀ v, (leBytes n v).length = n := by
  induction n with
  | zero => exact fun _ => rfl
  | succ n ih => exact fun v => by simp [leBytes, ih]

/-- `STN` stores s[RB] in the four bytes of its operand and changes no other byte (R125). -/
theorem stn_completes {ext : List (Nat × Nat)} (hi : Issues (s.suffer h) c w (sclSel 0x11) narrowChecks freely) (hcalm : Calm h)
    (hext : (s.suffer h).extents c (narrowOperand ((s.suffer h).core c) w) 4 rWR = .ok ext) (hw : Writable (s.suffer h).mem ext) :
    let u := s.suffer h
    let k := u.core c
    let o := narrowOperand k w
    ∃ t, exec (.sclStn c h) s = .next t ∧ OnlyData c (u.tallyOp c o 4 rWR) t ∧ t.core c = k.issued ∧ (∀ d, d ≠ c → t.core d = u.core d) ∧
      Stored u.mem t.mem ext (leBytes 4 (k.reg (fRb w)).toNat) := by
  intro u k o
  have hkind : o.h.kind ≤ 2 := issues_narrow_kind hi
  obtain ⟨p, hp⟩ := issues_part hi
  obtain ⟨hcross, herr, hoperand⟩ := calm_advance (s := s) (c := c) (w := w) hcalm
  have hcore : (u.advance c).core c = k.issued := advance_core
  have hlen : (leBytes 4 (k.reg (fRb w)).toNat).length = 4 := leBytes_length _ _
  obtain ⟨x, hwrite, hstored, honly, hparts⟩ := writeOp_of_local (s := u.advance c) (c := c) (p := p) (o := o)
    (bs := leBytes 4 (k.reg (fRb w)).toNat) hkind (by rw [hcore]; exact hp) (by rw [hlen, extents_local (s := u) _ (by omega)]; exact hext) hw
  have hxcore : ∀ d, x.core d = (u.advance c).core d := fun d => by rw [honly]; rfl
  have htally : x.tallyOp c o 4 rWR = { x with power := (u.tallyOp c o 4 rWR).power } :=
    tallyOp_of_local (by omega) (by rw [hxcore, hcore]; rfl) (by rw [honly]; rfl)
  refine ⟨_, act_issue (u := { x with power := (u.tallyOp c o 4 rWR).power }) hi ?_ ?_, ⟨?_, fun q hq => ?_⟩, (hxcore c).trans hcore,
    fun d hd => (hxcore d).trans (advance_core_other hd), hstored⟩
  · rw [hcross, narrow_of_no_error herr, hoperand, State.writeNarrow]
    change { State.orFault _ _ _ _ (((u.advance c).writeOp c o (leBytes 4 (((u.advance c).core c).reg (fRb w)).toNat)).map _) id with harm := s.harm } = _
    rw [hcore]
    change { State.orFault _ _ _ _ (((u.advance c).writeOp c o (leBytes 4 (k.reg (fRb w)).toNat)).map _) id with harm := s.harm } = _
    rw [hwrite, ← htally]; rfl
  · change x.pending = s.pending
    rw [honly]; exact suffer_pending s h
  · rw [tallyOp_frame u, honly]; rfl
  · change x.part q = (u.tallyOp c o 4 rWR).part q
    rw [tallyOp_frame u] at hq ⊢
    exact hparts q fun hqp => hq (hqp ▸ hp)

/-- What a core's register space holds does not depend on what may still befall a command. -/
theorem coreReg_crossed (v : State) (c off : Nat) : coreReg v.crossed c off = coreReg v c off := by
  rw [crossed_eq]; rfl

theorem macroAtReg_crossed (v : State) (c off : Nat) : macroAtReg v.crossed c off = macroAtReg v c off := by
  rw [crossed_eq]; rfl

/-- A read of `MAC_STEP_COUNT_LO` latches its high half. -/
theorem readCoreReg_latches {v : State} {c off m : Nat} (hok : coreRegOk off = true) (hm : macroAtReg v c off = some (m, 0x014)) :
    readCoreReg c off v = (BitVec.ofNat 32 (coreReg v c off), v.latchSteps m) := by
  simp [readCoreReg, hok, hm]

/-- A read of any other register changes nothing. -/
theorem readCoreReg_plain {v : State} {c off : Nat} (hok : coreRegOk off = true) (hm : ∀ m, macroAtReg v c off ≠ some (m, 0x014)) :
    readCoreReg c off v = (BitVec.ofNat 32 (coreReg v c off), v) := by
  rw [readCoreReg, if_pos hok]
  split
  · rename_i m heq; exact absurd heq (hm m)
  · rfl

/-- Where the space has no register the word read is free. -/
theorem readCoreReg_empty {v : State} {c off : Nat} (hempty : coreRegOk off = false) : readCoreReg c off v = v.freeWord := by
  simp [readCoreReg, hempty]

/-- `RDREG` reads the register space; only `MAC_STEP_COUNT_LO` latches, and an empty offset reads a free word (R72, R127). -/
theorem rdreg_completes (hi : Issues (s.suffer h) c w (sclSel 0x12) sclChecks freely) :
    let u := s.suffer h
    let k := u.core c
    let a := u.advance c
    let put := fun (v : Word) => k.issued.setReg (fRd w) v
    (coreRegOk (fImm w) = true →
      (∀ m, macroAtReg a c (fImm w) = some (m, 0x014) →
        exec (.sclRdreg c h) s = .next { (u.latchSteps m).setCore c (put (BitVec.ofNat 32 (coreReg a c (fImm w)))) with harm := s.harm }) ∧
      ((∀ m, macroAtReg a c (fImm w) ≠ some (m, 0x014)) →
        exec (.sclRdreg c h) s = .next { u.setCore c (put (BitVec.ofNat 32 (coreReg a c (fImm w)))) with harm := s.harm })) ∧
    (coreRegOk (fImm w) = false →
      exec (.sclRdreg c h) s = .next { { u with fresh := u.fresh + 1 }.setCore c (put (Config.freeWord u.fresh)) with harm := s.harm }) := by
  intro u k a put
  refine ⟨fun hok => ⟨fun m hm => ?_, fun hm => ?_⟩, fun hempty => ?_⟩
  · have hread := readCoreReg_latches (v := a.crossed) hok (by rw [macroAtReg_crossed]; exact hm)
    rw [coreReg_crossed] at hread
    refine act_issue hi ?_ (suffer_pending s h)
    dsimp only
    rw [hread, crossed_eq]
    exact congrArg (fun t : State => { t with harm := s.harm })
      (advance_updCore (u.latchSteps m) c fun k => k.setReg (fRd w) (BitVec.ofNat 32 (coreReg a c (fImm w))))
  · have hread := readCoreReg_plain (v := a.crossed) hok (by rw [macroAtReg_crossed]; exact hm)
    rw [coreReg_crossed] at hread
    refine act_updCore (f := fun k => k.setReg (fRd w) (BitVec.ofNat 32 (coreReg a c (fImm w)))) hi ?_
    dsimp only
    rw [hread]; rfl
  · have hread := readCoreReg_empty (v := a.crossed) (c := c) hempty
    refine act_issue hi ?_ (suffer_pending s h)
    dsimp only
    rw [hread, crossed_eq]
    exact congrArg (fun t : State => { t with harm := s.harm })
      (advance_updCore { u with fresh := u.fresh + 1 } c fun k => k.setReg (fRd w) (Config.freeWord u.fresh))

end

/-- Settles O2: instruction by instruction, from the one lemma of what an issued instruction's command answers. -/
theorem waitsComplete : Obligations.WaitsComplete :=
  ⟨fun _ _ _ _ => ⟨act_moves_on, wait_completes, waitb_completes, fence_completes, end_completes⟩,
    fun _ _ _ _ _ => ldn_completes, fun _ _ _ _ _ => stn_completes, fun _ _ _ _ => rdreg_completes⟩

end Sys2Proof.Laws

namespace Sys2Proof.Laws

open Sys2Proof.Machine

/-! ### Bytes past the end of a window whose `SIZE` is no multiple of its page size (R313, R316) -/

theorem bytesAt_length (m : Memory) (ext : List (Nat × Nat)) : (bytesAt m ext).length = (ext.map Prod.snd).sum := by
  simp [bytesAt, List.length_flatMap, Memory.readN]

/-- Bytes are stored only at places that hold as many. -/
theorem stored_length {m m' : Memory} {ext : List (Nat × Nat)} {bs : List Byte} (h : Stored m m' ext bs) :
    bs.length = (ext.map Prod.snd).sum := by rw [← h.1, bytesAt_length]

/-- A window of two 64 KiB pages whose `SIZE` ends one byte into the second. R313 lets no commit make one, but a state may hold it. -/
def raggedWindow : Window := { Window.reset with isOpen := true, size := 0x10001, psz := 0, rights := 31, pages := [0, 0x10000] }

/-- Where three bytes of the window go from the last byte of its first page: the third lies past the end. -/
def raggedPlaces : List (Nat × Nat) := [(0xFFFF, 1), (0x10000, 1)]

/-- `windowExtents` has fuel for one place in each of the two pages that three bytes can touch. Both are spent before the end of the window shows,
so that the third byte is dropped where R316 faults it with 0x0402. -/
theorem raggedWindow_drops_byte : windowExtents raggedWindow rWR (3 / 2 ^ 16 + 2) 0xFFFF 3 = .ok raggedPlaces := rfl

/-- Once such an access is translated and nothing else stops it, it goes to those places. -/
theorem windowAt_raggedPlaces {s : State} {die off : Nat} (hwindow : s.window 0 0 = raggedWindow) (hoff : s.address placeTranslate off = some 0xFFFF)
    (hentries : s.entryFault die 0 0 0xFFFF raggedPlaces.length = none) (hroute : s.unreachable die raggedPlaces = false) :
    s.windowAt die 0 0 off 3 rWR = .ok raggedPlaces := by
  have hfailed : s.failedRead rWR raggedPlaces = none := rfl
  simp only [State.windowAt, hoff, hwindow, raggedWindow_drops_byte, hentries, hroute, hfailed, Bool.false_eq_true, if_false]

/-- No three bytes are stored there. -/
theorem not_stored_raggedPlaces {m m' : Memory} {bs : List Byte} (hbs : bs.length = 3) : ¬ Stored m m' raggedPlaces bs := by
  intro hstored
  have hlength := stored_length hstored
  rw [hbs] at hlength
  exact absurd hlength (by decide)

/-- `HAL` toward +x, a send of 64 bytes at handle 1 (Table 4.13). -/
def raggedHal : Nat := 0x31 * 2 ^ 120 + 2 ^ 97 + 2 ^ 90 + 64 * 2 ^ 54

/-- A receive of three bytes into the window, from the last byte of its first page. -/
def raggedReceive : HaloOp := { loc := { h := ⟨0, 0, 64, true, 4⟩, off := 0xFFFF }, left := 3, done := 0, sig := 0, pc := 0 }

def raggedCore : Core :=
  { Core.reset with part := some 0, inJob := true, state := 1, segCount := 1,
                    cfg := { handles := [(1, ⟨0, 0, 64, true, 0⟩)], rtlen0 := 0, rtlen1 := 0, macroMap := [] } }

/-- Two neighbouring cores of one job, the first at its send, the second with its receive queued; the program lies at the start of the window. -/
def raggedState : State :=
  { State.reset with
    cores := [(0, raggedCore), (1, { raggedCore with x := 1, haloRx := [(3, [raggedReceive])] })]
    parts := [(0, { Partition.reset with
      windows := [(0, raggedWindow)]
      job := some { Job.reset with state := 2 }
      placement := { Placement.reset with cores := [(logicalKey 0 0 0, 0), (logicalKey 0 1 0, 1)] } })]
    mem := { Memory.reset with cells := cellsOf 0 (leBytes 16 raggedHal) }
    hub := { Hub.reset with phase := .running } }

theorem raggedPlaces_writable : Writable raggedState.mem raggedPlaces := ⟨by decide, by decide +kernel⟩

theorem raggedHal_issues : Issues raggedState 0 raggedHal (fun w => fOpcode w == 0x31 && field w 96 96 == 0) halChecks freely where
  core := by decide
  issuing := by decide +kernel
  fetched := rfl
  defined := by decide +kernel
  selected := by decide +kernel
  sound := by decide +kernel
  kept := by decide +kernel
  free := rfl

/-- Refutes O6: the statement takes whatever places `extents` answers to hold as many bytes as are moved, and those of `raggedReceive` are one too
few. With nothing befalling it and every premise met, the send hands three bytes to a receive that has places for two. -/
theorem not_haloCompletes : ¬ Obligations.HaloCompletes := by
  rintro ⟨-, htransfers⟩
  let u := raggedState.suffer Harm.none
  let own := halOp (u.core 0).issued raggedHal
  have hissues : Issues u 0 raggedHal (fun w => fOpcode w == 0x31 && field w 96 96 == 0) halChecks freely := raggedHal_issues
  have heast : u.neighbour 0 (halDir raggedHal) = some 1 := by decide +kernel
  have hwest : u.neighbour 1 ((halDir raggedHal + 2) % 4) = some 0 := by decide +kernel
  have hroute : u.routeDown (coreDie 0) (coreDie 1) = false := by decide +kernel
  have hreceive : mget (u.core 1).haloRx [] ((halDir raggedHal + 2) % 4) = [raggedReceive] := by decide +kernel
  have hsource : u.extents 0 { own.loc with off := (own.loc.off + own.done) % 2 ^ 32 } 3 rRD = .ok [(coreBase 0, 3)] := rfl
  have hreadable : Readable u.mem [(coreBase 0, 3)] := by unfold Readable; decide +kernel
  have hplaces : u.windowAt (coreDie 1) 0 0 0xFFFF 3 rWR = .ok raggedPlaces :=
    windowAt_raggedPlaces rfl (by decide +kernel) (by decide +kernel) (by decide +kernel)
  obtain ⟨t, -, hstored, -⟩ := htransfers raggedState 0 raggedHal 1 Harm.none (.halSend 0 Harm.none) 0 1 own raggedReceive
    [(coreBase 0, 3)] raggedPlaces rfl ⟨rfl, rfl⟩ (by decide) heast (by decide) hwest hroute
    (.inl ⟨rfl, rfl, rfl, hissues, rfl, hreceive, rfl⟩) (by decide +kernel) hsource hreadable (.inl (by decide +kernel)) hplaces raggedPlaces_writable
    (.inl (by decide +kernel)) (.inl rfl)
  exact not_stored_raggedPlaces (bytesAt_length _ _) hstored

/-- An error of a translation adder that its residue does not show: a multiple of 7 (R429). -/
def unseenError : Harm := { Harm.none with err := some (placeTranslate, 7) }

/-- Refutes O25: the clause on a plain beat excludes changes of the beat (`h.beat = none`), but not an error of the translation adder that its residue
misses. Moved so from 0xFFF8 to the last byte of the window's first page, a beat of three bytes has places for two. -/
theorem not_remoteBeatsComplete : ¬ Obligations.RemoteBeatsComplete := by
  rintro ⟨hwrites, -, -⟩
  let u := raggedState.suffer unseenError
  have hcore : (u.core 0).part = some 0 := by decide +kernel
  have hrunning : u.jobState 0 < 3 := by decide +kernel
  have hplaces : u.windowAt (coreDie 0) 0 0 0xFFF8 3 rWR = .ok raggedPlaces :=
    windowAt_raggedPlaces rfl (by decide +kernel) (by decide +kernel) (by decide +kernel)
  have hcredit : mget (u.part 0).credits 0 (creditKey 0 (coreDie 0) (creditTower (firstAddr raggedPlaces))) < (u.window 0 0).credits := by
    decide +kernel
  obtain ⟨-, hruns⟩ := hwrites raggedState 0 0 0xFFF8 0 0 unseenError [1, 2, 3] [] none raggedPlaces [] raggedState rfl rfl hcore (by decide) (by decide)
  obtain ⟨-, hadmitted, -⟩ := hruns hrunning
  obtain ⟨-, htakes⟩ := hadmitted hplaces
  obtain ⟨hplain, -⟩ := htakes (.inr hcredit)
  obtain ⟨t, -, -, -, hstored, -⟩ := hplain (.inr (.inr rfl)) rfl raggedPlaces_writable
  exact not_stored_raggedPlaces rfl hstored

end Sys2Proof.Laws
